-- ==== Sys2Proof/Word.lean ====
section
/-! DEFINITION. The few types the whole model names things with: bytes of a frame, bay numbers and yard input
numbers. A quantity the manual counts (kW, 0.1 kWh, seconds, percent) is a `Nat`; a temperature is an `Int`. -/

namespace Sys2Proof

/-- One byte of a frame on an outside port (R170). -/
abbrev Byte := BitVec 8

/-- One of the 24 bays. Bay number n (R25, "1 to 24") is the index n - 1. -/
abbrev BayNo := Fin 24

/-- One of the six yard inputs (R160). Input Yn is the index n - 1. -/
abbrev InputNo := Fin 6

end Sys2Proof
end

