-- ==== Sys2Proof/Syntax.lean ====
section
/-! DEFINITION. The commands of the JD24: one constructor of `Instr` for each row of spec/opcode_table.json, with
the operands that the row's rule gives it. -/

namespace Sys2Proof

/-- The three outside ports; the port fixes the role (R169). -/
inductive Port where
  | planner
  | site
  | service
  deriving DecidableEq, Repr

/-- A whole request frame whose check is good (R170, R171): the port it arrived on, its sequence byte and its body
bytes as R178 lays them out. The kind byte is the constructor of `Instr`. -/
structure Req where
  port : Port
  seq : Byte
  body : List Byte
  deriving DecidableEq, Repr

/-- The final outcomes of a Grant, Wake or Unlock exchange (R127, R128). -/
inductive PostOutcome where
  | accept
  | refuse
  | silent
  deriving DecidableEq, Repr

/-- A frame emitted by a van and relayed by its post (R28), before its ranges are checked. -/
inductive VanFrame where
  | identity (key : Nat)
  | pack (soc : Nat) (temp : Int) (capacity : Nat)
  | lock (locked : Bool)
  deriving DecidableEq, Repr

/-- A post status, the answer to a Poll, with the one van frame it may carry (R127). -/
structure PostStatus where
  plugIn : Bool
  output : Nat
  counter : Nat
  limit : Nat
  frame : Option VanFrame
  deriving DecidableEq, Repr

/-- What brings a reset about (R184). -/
inductive ResetCause where
  | powerOn
  | resetInput
  | restart
  deriving DecidableEq, Repr

/-- The commands. One constructor for each row of spec/opcode_table.json, in the table's order. -/
inductive Instr where
  | readIdentity (r : Req)
  | readOrder (r : Req)
  | listRoster (r : Req)
  | readBay (r : Req)
  | readFeeder (r : Req)
  | readTable (r : Req)
  | readSetting (r : Req)
  | peekCompletions (r : Req)
  | takeEvents (r : Req)
  | setAttention (r : Req)
  | setClock (r : Req)
  | addOrder (r : Req)
  | amendOrder (r : Req)
  | cancelOrder (r : Req)
  | releaseVan (r : Req)
  | takeCompletions (r : Req)
  | reallocate (r : Req)
  | setCeiling (r : Req)
  | reportMeter (r : Req)
  | setTariff (r : Req)
  | holdDepot (r : Req)
  | resumeDepot (r : Req)
  | clearLatchFeeder (r : Req)
  | clearLatchInput (r : Req)
  | clearBay (r : Req)
  | retryAdmission (r : Req)
  | setOverride (r : Req)
  | writeTable (r : Req)
  | writeSetting (r : Req)
  | storeSettings (r : Req)
  | restart (r : Req)
  | unknownRequest (r : Req) (kind : Byte)
  | frameCheckFail (p : Port)
  | frameGap (p : Port) (ending : Option Byte)
  | answerEnd (p : Port)
  | reset (cause : ResetCause)
  | roundTimerExpiry
  | staleTimerExpiry
  | admissionTimerExpiry (b : BayNo)
  | dormancyExpiry (b : BayNo)
  | wakeWindowExpiry (b : BayNo)
  | answerWindowExpiry
  | deferRetryDue (b : BayNo)
  | keepAliveDue (b : BayNo)
  | probeSpacingEnd
  | filterTimerExpiry (y : InputNo)
  | lineChange (y : InputNo) (high : Bool)
  | commitEnd (good : Bool)
  | postStatus (b : BayNo) (st : PostStatus)
  | grantOutcome (b : BayNo) (o : PostOutcome)
  | wakeOutcome (b : BayNo) (o : PostOutcome)
  | unlockOutcome (b : BayNo) (o : PostOutcome)
  | deferAnswer (b : BayNo)
  | startByte (p : Port)
  | badLength (p : Port) (len : Byte)
  deriving DecidableEq, Repr

end Sys2Proof
end

