-- ==== Sys2Proof/Config.lean ====
section
/-! DEFINITION. What the JD24 fixes for every unit (capacities and intervals the manual states as figures) and the
free values the manual leaves open. -/

namespace Sys2Proof

/-- What a reset leaves of an image that a commit was writing (R182). -/
inductive CutImage where
  | oldWhole
  | newWhole
  | neither
  deriving DecidableEq, Repr, Inhabited

/-- FREE VALUE (entry 7): what the n-th cut of a commit leaves in the image. R182: "The image may then be the old one
whole, the new one whole, or neither". -/
opaque Config.cutCommit : Nat → CutImage

/-- FREE VALUE (entry 9): the check bits that the n-th cut or failed writing leaves in the image (R182). -/
opaque Config.brokenCheck : Nat → BitVec 16

/-- FREE VALUE (entry 8): whether the read-back of a commit that ends by itself is good (R182). -/
opaque Config.readBackGood : Nat → Bool

/-- R6: the roster holds at most 40 orders. -/
def Config.rosterCapacity : Nat := 40
/-- R149: the completion log holds at most 32 records. -/
def Config.logCapacity : Nat := 32
/-- R155: the event queue holds at most 16 records. -/
def Config.queueCapacity : Nat := 16
/-- R1, R154: the greatest depot time and the greatest elapsed count in seconds. -/
def Config.maxSeconds : Nat := 4294967295
/-- R3: delivered energy stops at 65,535. -/
def Config.maxEnergy : Nat := 65535
/-- R130: consecutive Silent or Refuse outcomes that fault a bay. -/
def Config.faultLimit : Nat := 3
/-- R129: Defers of one exchange that are retried; one more ends it as Refuse. -/
def Config.maxDefers : Nat := 5

/-- R127: the answer window, milliseconds. -/
def Config.answerWindow : Nat := 50
/-- R129: the defer retry interval, milliseconds. -/
def Config.deferInterval : Nat := 250
/-- R138: the keep-alive interval, milliseconds. -/
def Config.keepAliveInterval : Nat := 8000
/-- R140: the probe spacing, milliseconds. -/
def Config.probeSpacing : Nat := 5000
/-- R65: the meter stale time, milliseconds. -/
def Config.staleTime : Nat := 30000
/-- R114: the wake settle time, milliseconds. -/
def Config.wakeSettle : Nat := 60000
/-- R117: the wake window, milliseconds. -/
def Config.wakeWindow : Nat := 90000
/-- R120: the delay before a second wake try, milliseconds. -/
def Config.wakeRetry : Nat := 120000
/-- R181: the longest a commit takes, milliseconds. -/
def Config.commitTime : Nat := 600
/-- R114: the lead time of the second wake trigger before the lead, seconds. -/
def Config.wakeLead : Nat := 300

/-- R177: the identity constants. -/
def Config.vendorCode : Nat := 0x4843
def Config.familyCode : Nat := 0x4A
def Config.partCode : Nat := 24
def Config.revision : Nat := 1

end Sys2Proof
end

