-- ==== Sys2Proof/Machine/State.lean ====
section
/-! DEFINITION. Everything the spec gives the JD24, unit by unit, as plain data; the reasons a step can stop (there are
none in the spec); and the machine right after reset. Moments and running timers are milliseconds of elapsed time
(entry 1); a running timer is the moment it runs out. -/

namespace Sys2Proof.Machine

/-! ### Settings store (R179) -/

/-- The role of a yard input (R160). -/
inductive InputRole where
  | event
  | stop
  | derate
  deriving DecidableEq, Repr

/-- The four filter times of a yard input (R160). -/
inductive FilterTime where
  | ms0
  | ms20
  | ms100
  | ms500
  deriving DecidableEq, Repr

/-- The configuration of a yard input (R160). -/
structure InputCfg where
  role : InputRole
  activeHigh : Bool
  filter : FilterTime
  latch : Bool
  deriving DecidableEq, Repr

/-- An attention mask: a set of event classes, held as the classes byte of SetAttention, and the completions flag
(R158, R178). -/
structure Mask where
  classes : Byte
  completions : Bool
  deriving DecidableEq, Repr

/-- The settings of R179 and the two derating tables of R49. Times are in the manual's units (seconds or minutes). -/
structure Settings where
  enabled : Vector Bool 24
  rating : Vector Nat 24
  postMin : Nat
  cabinHeater : Nat
  safeCeiling : Nat
  derateCeiling : Nat
  warnThreshold : Nat
  alarmThreshold : Nat
  hysteresis : Nat
  warnLatch : Bool
  alarmLatch : Bool
  roundPeriod : Nat
  deferMargin : Nat
  wakeSlack : Nat
  dormancyTime : Nat
  wakePulse : Nat
  admTimeout : Nat
  missedGrace : Nat
  inputs : Vector InputCfg 6
  maskPlanner : Mask
  maskSite : Mask
  maskService : Mask
  rateTable : Vector Nat 41
  condTable : Vector Nat 41
  deriving DecidableEq, Repr

/-- FREE VALUE (entry 9): the 16-bit check that belongs to a content and a format number (R179). The spec gives its width
and what it covers, not how it is computed. -/
opaque Config.imageCheck (content : Settings) (format : Nat) : BitVec 16

/-- The non-volatile image: the settings and tables, a format number and a 16-bit check over all of these (R179). -/
structure Image where
  content : Settings
  format : Nat
  check : BitVec 16
  deriving DecidableEq, Repr

/-- A commit in flight: the content taken at the StoreSettings and the moment the writing ends at the latest (R181). -/
structure Commit where
  content : Settings
  due : Nat
  deriving DecidableEq, Repr

/-- The Settings store (R179). The commit state is Committing while `commit` is present, Idle otherwise. -/
structure Store where
  image : Image
  working : Settings
  commit : Option Commit
  deriving DecidableEq, Repr

/-! ### Roster unit (R3, R148) -/

/-- The warming owed before departure (R3). -/
inductive Conditioning where
  | none
  | cabin
  | pack
  | both
  deriving DecidableEq, Repr

/-- The urgency class of an order (R3). -/
inductive OrderClass where
  | express
  | standard
  | spare
  deriving DecidableEq, Repr

/-- An order's place in its life (R3). -/
inductive OrderState where
  | waiting
  | charging
  | conditioning
  | ready
  | closing
  | closed
  deriving DecidableEq, Repr

/-- How an order closed (R3). -/
inductive CloseOutcome where
  | departed
  | short
  | cancelled
  | missed
  deriving DecidableEq, Repr

/-- A depot time, or the marker "clock unset" (R1). -/
inductive Stamp where
  | depot (t : Nat)
  | clockUnset
  deriving DecidableEq, Repr

/-- An order record (R3), with the final SoC frozen at its closure (R148; entry 11). -/
structure Order where
  tag : Nat
  key : Nat
  departure : Nat
  targetSoc : Nat
  conditioning : Conditioning
  lead : Nat
  wakePermitted : Bool
  cls : OrderClass
  assigned : Option BayNo
  state : OrderState
  boundBay : Option BayNo
  atRisk : Bool
  deferred : Bool
  wakeFailed : Bool
  begun : Bool
  released : Bool
  outcome : Option CloseOutcome
  delivered : Nat
  carried : Nat
  addedAt : Stamp
  closedAt : Option Stamp
  finalSoc : Option Nat
  deriving DecidableEq, Repr

/-- A completion record (R148). -/
structure Completion where
  tag : Nat
  key : Nat
  bay : Option BayNo
  outcome : CloseOutcome
  delivered : Nat
  finalSoc : Option Nat
  closedAt : Stamp
  atRisk : Bool
  wakeFailed : Bool
  deriving DecidableEq, Repr

/-! ### Bay unit (R25, R57, R110) -/

/-- Where a bay stands in its life (R25). -/
inductive BayState where
  | off
  | vacant
  | attached
  | admitting
  | unmatched
  | bound
  | dormant
  | waking
  | faulted
  deriving DecidableEq, Repr

/-- The frame an admission waits for (R32). -/
inductive AdmStep where
  | expectIdentity
  | expectPack
  | expectLock
  deriving DecidableEq, Repr

/-- A pack report: SoC, temperature, usable capacity (R25). -/
structure PackData where
  soc : Nat
  temp : Int
  capacity : Nat
  deriving DecidableEq, Repr

/-- The mode of an override record (R57). -/
inductive OverrideMode where
  | table
  | manual
  deriving DecidableEq, Repr

/-- The override record of a bay, with its release-anytime flag (R57). -/
structure Override where
  mode : OverrideMode
  manualCap : Option Nat
  fixedIndex : Option Nat
  releaseAnytime : Bool
  deriving DecidableEq, Repr

/-- A bay record (R25, R110). The enabled flag and the post rating are settings. -/
structure BayRec where
  state : BayState
  identity : Option Nat
  packSlot : Option PackData
  lockSlot : Bool
  step : Option AdmStep
  admTimer : Option Nat
  pack : Option PackData
  lastFrame : Option Nat
  plugIn : Bool
  output : Nat
  counter : Nat
  limit : Nat
  boundOrder : Option Nat
  baseline : Nat
  conflict : Bool
  dormTimer : Option Nat
  dormantSince : Option Nat
  tryCount : Nat
  retryAt : Option Nat
  wakePending : Bool
  wakeWindow : Option Nat
  barred : Bool
  ovr : Override
  deriving DecidableEq, Repr

/-! ### Feeder unit (R63) -/

/-- A tariff band (R71). -/
inductive Band where
  | low
  | normal
  | peak
  deriving DecidableEq, Repr

/-- A tariff window: it covers the depot times from its start up to, but not including, its end (R71). -/
structure Window where
  start : Nat
  stop : Nat
  band : Band
  deriving DecidableEq, Repr

/-- The hold state (R63). -/
inductive HoldState where
  | running
  | draining
  | held
  deriving DecidableEq, Repr

/-- The Feeder unit (R63). -/
structure Feeder where
  site : Option Nat
  load : Nat
  stale : Bool
  staleTimer : Option Nat
  warnCond : Bool
  alarmCond : Bool
  warnFlag : Bool
  alarmFlag : Bool
  cut : Nat
  tariff : List Window
  hold : HoldState
  stop : Bool
  derate : Bool
  effective : Nat
  deriving DecidableEq, Repr

/-! ### Allocator (R84) -/

/-- A set depot clock: the depot time a SetClock gave and the elapsed moment it was given (R1). -/
structure ClockSet where
  time : Nat
  since : Nat
  deriving DecidableEq, Repr

/-- The Allocator (R84). -/
structure Alloc where
  clock : Option ClockSet
  roundTimer : Option Nat
  targets : Vector Nat 24
  caps : Vector Nat 24
  limits : Vector (Option Nat) 24
  ranking : List BayNo
  deriving DecidableEq, Repr

/-! ### Line controller (R125) -/

/-- The four kinds of exchange with what they carry (R127). A Wake also carries the start of the dormancy period it
was handed over in (R117; entry 16), an Unlock the age it was handed over with (R143). -/
inductive Exchange where
  | poll
  | grant (value : Nat)
  | wake (pulse period : Nat)
  | unlock (age : Nat)
  deriving DecidableEq, Repr

/-- An open exchange (R125): on the line while `retryDue` is absent, deferred until `retryDue` otherwise. -/
structure OpenX where
  what : Exchange
  retryDue : Option Nat
  defers : Nat
  sentAt : Nat
  deriving DecidableEq, Repr

/-- A pending Grant (R125). -/
structure PendingGrant where
  value : Nat
  age : Nat
  deriving DecidableEq, Repr

/-- A pending Wake (R125, entry 16). -/
structure PendingWake where
  pulse : Nat
  age : Nat
  period : Nat
  deriving DecidableEq, Repr

/-- The Line controller's record of one bay (R125). -/
structure LineBay where
  held : Nat
  opn : Option OpenX
  pGrant : Option PendingGrant
  pWake : Option PendingWake
  pUnlock : Option Nat
  silent : Nat
  refuse : Nat
  keepDue : Option Nat
  increase : Bool
  deriving DecidableEq, Repr

/-- What the line carries (R126): the bay, the exchange, the end of the answer window, whether this sending is the
repeat (R128), and whether a ClearBay has abandoned the exchange (R144). -/
structure OnLine where
  bay : BayNo
  what : Exchange
  windowDue : Nat
  repeated : Bool
  abandoned : Bool
  deriving DecidableEq, Repr

/-- The Line controller (R125). The line is Idle while `carrying` is absent. -/
structure LineCtl where
  bays : Vector LineBay 24
  carrying : Option OnLine
  pollPos : BayNo
  probePos : BayNo
  probeOwed : Bool
  lastProbe : Option Nat
  nextAge : Nat
  deriving DecidableEq, Repr

/-! ### Event unit (R154, R155) -/

/-- The event kinds, in the order of the kinds table of R154. -/
inductive EventKind where
  | orderAtRisk
  | orderReady
  | orderMissed
  | orderClosed
  | wakeFailed
  | wakeBarred
  | bayAttached
  | bayUnplugged
  | admitTimeout
  | noOrder
  | wrongBay
  | identityConflict
  | bayDormant
  | bayFaulted
  | feederWarn
  | feederAlarm
  | meterStale
  | meterBack
  | holdReached
  | inputEdge
  | stopActive
  | settingsLost
  | storeDone
  | clockSet
  deriving DecidableEq, Repr

/-- The event classes, in the order R178 numbers them. -/
inductive EventClass where
  | order
  | bay
  | feeder
  | line
  | input
  | system
  deriving DecidableEq, Repr

/-- The subject of an event (R154). -/
inductive Subject where
  | order (tag : Nat)
  | bay (b : BayNo)
  | input (y : InputNo)
  deriving DecidableEq, Repr

/-- Raised or Cleared (R154). -/
inductive Edge where
  | raised
  | cleared
  deriving DecidableEq, Repr

/-- The time of an append: the depot time, or the whole seconds elapsed since the reset (R154). -/
inductive EventTime where
  | depot (t : Nat)
  | elapsed (t : Nat)
  deriving DecidableEq, Repr

/-- An event record (R154). Its class is fixed by its kind. -/
structure EventRec where
  kind : EventKind
  subject : Option Subject
  edge : Edge
  time : EventTime
  deriving DecidableEq, Repr

/-- The Event unit (R155). -/
structure Events where
  queue : List EventRec
  overflow : Bool
  deriving DecidableEq, Repr

/-! ### Input unit (R160) -/

/-- A change of a line that has not yet stood for the filter time (R160): the new filtered state (Active or not) and
the moment the filter timer runs out. -/
structure PendingChange where
  active : Bool
  due : Nat
  deriving DecidableEq, Repr

/-- One yard input (R160). Its configuration is a setting. -/
structure InputState where
  levelHigh : Bool
  active : Bool
  pending : Option PendingChange
  latched : Bool
  deriving DecidableEq, Repr

/-! ### Port unit (R158, R169, R174) -/

/-- The answer statuses, in the order of their codes (R174). -/
inductive Status where
  | done
  | notPermitted
  | badValue
  | full
  | duplicate
  | notFound
  | tooLate
  | wrongState
  | busy
  | clockUnset
  deriving DecidableEq, Repr

/-- An answer frame (R170, R174): the echoed sequence byte, the kind byte with its top bit set, the status and the
body. -/
structure Answer where
  seq : Byte
  kind : Byte
  status : Status
  body : List Byte
  deriving DecidableEq, Repr

/-- The receive slot of a port (R169); a Held slot holds the answer being sent. -/
inductive Slot where
  | listening
  | receiving
  | held (a : Answer)
  deriving DecidableEq, Repr

/-- One outside port: its slot, its attention mask and its attention line (R158, R169). -/
structure PortState where
  slot : Slot
  mask : Mask
  attention : Bool
  deriving DecidableEq, Repr

/-! ### The machine -/

/-- The whole state of the block, and the queue of the commands that wait. -/
structure State where
  pending : List Instr
  elapsed : Nat
  freeCount : Nat
  planner : PortState
  site : PortState
  service : PortState
  roster : List Order
  waitingLine : List Nat
  log : List Completion
  bays : Vector BayRec 24
  feeder : Feeder
  alloc : Alloc
  line : LineCtl
  events : Events
  inputs : Vector InputState 6
  store : Store
  deriving DecidableEq, Repr

/-- The spec lets nothing stop the device (R155: "Nothing in the device halts or waits on a full queue"; a refused
request is answered with a status, R174), so no command faults and the type has no constructor. -/
inductive Fault : Type
  deriving DecidableEq, Repr

/-- The one refusal the host asks for. -/
inductive Refusal where
  /-- Raised by exec's arm of a command that has no meaning yet; safe, since nothing is then claimed of the command. -/
  | notModelled (mnemonic : String)
  deriving DecidableEq, Repr

/-! ### Reset -/

/-- R161: the factory default of every input. -/
def InputCfg.factory : InputCfg := ⟨.event, true, .ms100, false⟩

/-- R52: the default rate table, percent. -/
def rateFactory : Vector Nat 41 :=
  #v[0, 0, 0, 0, 0, 20, 20, 20, 20, 20, 50, 50, 50, 50, 50, 100, 100, 100, 100, 100, 100, 100, 100, 100, 100, 100, 100,
    100, 100, 100, 100, 100, 100, 60, 60, 60, 60, 60, 60, 60, 60]

/-- R52: the default conditioning table, kW. -/
def condFactory : Vector Nat 41 :=
  #v[12, 12, 11, 11, 10, 10, 9, 9, 8, 8, 7, 7, 6, 6, 5, 5, 4, 4, 3, 3, 2, 2, 1, 1, 0, 0, 0, 0, 0, 0, 0, 0, 0, 0, 0, 0,
    0, 0, 0, 0, 0]

/-- The factory defaults of R179, R49 and R52. -/
def Settings.factory : Settings where
  enabled := Vector.replicate 24 true
  rating := Vector.replicate 24 50
  postMin := 4
  cabinHeater := 4
  safeCeiling := 150
  derateCeiling := 100
  warnThreshold := 380
  alarmThreshold := 420
  hysteresis := 10
  warnLatch := false
  alarmLatch := false
  roundPeriod := 30
  deferMargin := 60
  wakeSlack := 20
  dormancyTime := 300
  wakePulse := 5
  admTimeout := 60
  missedGrace := 900
  inputs := Vector.replicate 6 InputCfg.factory
  maskPlanner := ⟨0x21, true⟩
  maskSite := ⟨0x04, false⟩
  maskService := ⟨0x3E, false⟩
  rateTable := rateFactory
  condTable := condFactory

/-- R57: the override record after reset. -/
def Override.reset : Override := ⟨.table, none, none, false⟩

/-- R26, R110: a bay record after reset. -/
def BayRec.reset : BayRec where
  state := .off
  identity := none
  packSlot := none
  lockSlot := false
  step := none
  admTimer := none
  pack := none
  lastFrame := none
  plugIn := false
  output := 0
  counter := 0
  limit := 0
  boundOrder := none
  baseline := 0
  conflict := false
  dormTimer := none
  dormantSince := none
  tryCount := 0
  retryAt := none
  wakePending := false
  wakeWindow := none
  barred := false
  ovr := Override.reset

/-- R63: the Feeder unit after reset; the effective ceiling is the one of the factory settings with no Stop and no
Derate in force (start-up computes it afresh for other settings). -/
def Feeder.reset : Feeder where
  site := none
  load := 0
  stale := true
  staleTimer := none
  warnCond := false
  alarmCond := false
  warnFlag := false
  alarmFlag := false
  cut := 0
  tariff := []
  hold := .running
  stop := false
  derate := false
  effective := 150

/-- R84: the Allocator after reset. -/
def Alloc.reset : Alloc where
  clock := none
  roundTimer := none
  targets := Vector.replicate 24 0
  caps := Vector.replicate 24 0
  limits := Vector.replicate 24 none
  ranking := []

/-- R125: the Line controller's record of a bay after reset. -/
def LineBay.reset : LineBay := ⟨0, none, none, none, none, 0, 0, none, false⟩

/-- R125: the Line controller after reset, before the first selection. -/
def LineCtl.reset : LineCtl where
  bays := Vector.replicate 24 LineBay.reset
  carrying := none
  pollPos := 0
  probePos := 0
  probeOwed := true
  lastProbe := none
  nextAge := 0

/-- R184: the Line controller after the first selection of a start-up with bay 1 enabled: the probe of bay 1 is on
the line (R140). -/
def LineCtl.firstProbe : LineCtl :=
  { LineCtl.reset with
    bays := LineCtl.reset.bays.set 0 { LineBay.reset with opn := some ⟨.poll, none, 0, 0⟩ }
    carrying := some ⟨0, .poll, 50, false, false⟩
    probePos := 1
    probeOwed := false
    lastProbe := some 0 }

/-- R160: an input after reset whose line is Low under the factory configuration. -/
def InputState.reset : InputState := ⟨false, false, none, false⟩

/-- The machine right after reset: the first power-on with a good image of the factory defaults (entry 5) and every
yard line Low (entry 6), every piece of state at the value its rule gives, start-up taken (R184) and the first
selection made (entry 4). `reset_is_startUp` proves it to be what the reset operation makes of such an image. -/
def State.reset : State where
  pending := []
  elapsed := 0
  freeCount := 0
  planner := ⟨.listening, ⟨0x21, true⟩, false⟩
  site := ⟨.listening, ⟨0x04, false⟩, false⟩
  service := ⟨.listening, ⟨0x3E, false⟩, false⟩
  roster := []
  waitingLine := []
  log := []
  bays := Vector.replicate 24 BayRec.reset
  feeder := Feeder.reset
  alloc := Alloc.reset
  line := LineCtl.firstProbe
  events := ⟨[], false⟩
  inputs := Vector.replicate 6 InputState.reset
  store := ⟨⟨Settings.factory, 1, Config.imageCheck Settings.factory 1⟩, Settings.factory, none⟩

end Sys2Proof.Machine
end

