-- ==== Sys2Proof/Machine/Operands.lean ====
section
/-! DEFINITION. The byte layouts of R170, R171 and R178: byte order, the frame check, how a request body spells the
fields of its request, how an answer body spells its fields, and the identifiers and values of the settings (R179).
Range checks that answer BadValue stand here, beside the fields they check. -/

namespace Sys2Proof.Machine

/-! ### Bytes and byte order (R178) -/

/-- A quantity of one byte. -/
def byte (n : Nat) : Byte := BitVec.ofNat 8 n

/-- A field of two bytes, most significant byte first (R178). -/
def be16 (n : Nat) : List Byte := [byte (n / 256), byte n]

/-- A field of four bytes, most significant byte first (R178). -/
def be32 (n : Nat) : List Byte := [byte (n / 16777216), byte (n / 65536), byte (n / 256), byte n]

/-- The quantity two bytes spell (R178). -/
def val16 (a b : Byte) : Nat := a.toNat * 256 + b.toNat

/-- The quantity four bytes spell (R178). -/
def val32 (a b c d : Byte) : Nat := a.toNat * 16777216 + b.toNat * 65536 + c.toNat * 256 + d.toNat

/-- A Yes/No field (R178). -/
def yesNo (b : Bool) : Byte := if b then 1 else 0

/-- A Yes/No field of a request: 1 for Yes, 0 for No, anything else out of range (R178). -/
def yesNo? (b : Byte) : Option Bool :=
  if b = 0 then some false else if b = 1 then some true else none

/-- A flag byte: the flags from the least significant bit up (R178). -/
def flagByte (flags : List Bool) : Byte :=
  byte (flags.foldr (fun f acc => (if f then 1 else 0) + 2 * acc) 0)

/-- A temperature: one byte in two's complement (R178). -/
def tempByte (t : Int) : Byte := BitVec.ofInt 8 t

/-- The bay a byte numbers, 1 to 24 (R178). -/
def bay? (b : Byte) : Option BayNo :=
  if h : 1 ≤ b.toNat ∧ b.toNat ≤ 24 then some ⟨b.toNat - 1, by omega⟩ else none

/-- A bay number as a byte (R178). -/
def bayByte (b : BayNo) : Byte := byte (b.val + 1)

/-- An optional bay number is 0 when absent (R178). -/
def optBayByte : Option BayNo → Byte
  | none => 0
  | some b => bayByte b

/-- An optional bay number of a request: 0 absent, 1 to 24 a bay, anything else out of range (R178). -/
def optBay? (b : Byte) : Option (Option BayNo) :=
  if b = 0 then some none else (bay? b).map some

/-- An optional one-byte quantity is FF when absent (R178). -/
def optByte : Option Nat → Byte
  | none => 0xFF
  | some n => byte n

/-- An optional one-byte quantity of a request with greatest value `max`: FF is absent (R178). -/
def optByte? (max : Nat) (b : Byte) : Option (Option Nat) :=
  if b = 0xFF then some none else if b.toNat ≤ max then some (some b.toNat) else none

/-- A time of seconds that can exceed its two-byte field is given at the field's greatest value less one; FFFF is
absent (R178). -/
def optTime16 : Option Nat → List Byte
  | none => be16 0xFFFF
  | some n => be16 (min n 0xFFFE)

/-- A time of seconds in one byte, at most the field's greatest value less one; FF is absent (R178). -/
def optTime8 : Option Nat → Byte
  | none => 0xFF
  | some n => byte (min n 0xFE)

/-! ### The frame check (R171) -/

/-- One bit of the check: shift left, and subtract the generator x^16 + x^12 + x^5 + 1 when the bit leaving differs
from the bit entering (R171). -/
def crcBit (crc : BitVec 16) (bit : Bool) : BitVec 16 :=
  if crc.msb != bit then (crc <<< 1) ^^^ 0x1021 else crc <<< 1

/-- One byte of the check, most significant bit first (R171). -/
def crcByte (crc : BitVec 16) (b : Byte) : BitVec 16 :=
  [7, 6, 5, 4, 3, 2, 1, 0].foldl (fun c i => crcBit c (b.getLsbD i)) crc

/-- The frame check: from all ones, sent without inversion (R171). -/
def frameCheck (bytes : List Byte) : BitVec 16 := bytes.foldl crcByte 0xFFFF

/-- The code of a status (R174). -/
def Status.code : Status → Nat
  | .done => 0
  | .notPermitted => 1
  | .badValue => 2
  | .full => 3
  | .duplicate => 4
  | .notFound => 5
  | .tooLate => 6
  | .wrongState => 7
  | .busy => 8
  | .clockUnset => 9

/-- The bytes the check covers in an answer: length, sequence, kind, status, body (R171). The body of an answer has
length - 3 bytes (R170). -/
def Answer.covered (a : Answer) : List Byte :=
  byte (a.body.length + 3) :: a.seq :: a.kind :: byte a.status.code :: a.body

/-- The answer frame as it goes out on the port: start byte, the covered bytes, the check most significant byte first
(R170, R171). -/
def Answer.frame (a : Answer) : List Byte :=
  0xA5 :: a.covered ++ be16 (frameCheck a.covered).toNat

/-- The request frame of a request, as its master sends it (R170, R171). -/
def requestFrame (r : Req) (kind : Byte) : List Byte :=
  let covered := byte (r.body.length + 2) :: r.seq :: kind :: r.body
  0xA5 :: covered ++ be16 (frameCheck covered).toNat

/-! ### Enumerated values (R178: numbered from 0 in the order in which the manual lists them) -/

def Conditioning.code : Conditioning → Nat
  | .none => 0
  | .cabin => 1
  | .pack => 2
  | .both => 3

def conditioning? (b : Byte) : Option Conditioning :=
  match b.toNat with
  | 0 => some .none
  | 1 => some .cabin
  | 2 => some .pack
  | 3 => some .both
  | _ => none

def OrderClass.code : OrderClass → Nat
  | .express => 0
  | .standard => 1
  | .spare => 2

def orderClass? (b : Byte) : Option OrderClass :=
  match b.toNat with
  | 0 => some .express
  | 1 => some .standard
  | 2 => some .spare
  | _ => none

def OrderState.code : OrderState → Nat
  | .waiting => 0
  | .charging => 1
  | .conditioning => 2
  | .ready => 3
  | .closing => 4
  | .closed => 5

/-- Outcome (absent), Departed, Short, Cancelled, Missed (R178). -/
def CloseOutcome.code : CloseOutcome → Nat
  | .departed => 1
  | .short => 2
  | .cancelled => 3
  | .missed => 4

def BayState.code : BayState → Nat
  | .off => 0
  | .vacant => 1
  | .attached => 2
  | .admitting => 3
  | .unmatched => 4
  | .bound => 5
  | .dormant => 6
  | .waking => 7
  | .faulted => 8

/-- The admission step is numbered from 1, and is 0 for a bay that is not Admitting (R178). -/
def stepCode : Option AdmStep → Nat
  | none => 0
  | some .expectIdentity => 1
  | some .expectPack => 2
  | some .expectLock => 3

def HoldState.code : HoldState → Nat
  | .running => 0
  | .draining => 1
  | .held => 2

def Band.code : Band → Nat
  | .low => 0
  | .normal => 1
  | .peak => 2

/-- The two bands a tariff window may have (R72). -/
def windowBand? (b : Byte) : Option Band :=
  match b.toNat with
  | 0 => some .low
  | 2 => some .peak
  | _ => none

def OverrideMode.code : OverrideMode → Nat
  | .table => 0
  | .manual => 1

def overrideMode? (b : Byte) : Option OverrideMode :=
  match b.toNat with
  | 0 => some .table
  | 1 => some .manual
  | _ => none

def InputRole.code : InputRole → Nat
  | .event => 0
  | .stop => 1
  | .derate => 2

def inputRole? (b : Byte) : Option InputRole :=
  match b.toNat with
  | 0 => some .event
  | 1 => some .stop
  | 2 => some .derate
  | _ => none

/-- Filter 0 to 3 for 0, 20, 100, 500 ms (R179). -/
def FilterTime.code : FilterTime → Nat
  | .ms0 => 0
  | .ms20 => 1
  | .ms100 => 2
  | .ms500 => 3

def filterTime? (b : Byte) : Option FilterTime :=
  match b.toNat with
  | 0 => some .ms0
  | 1 => some .ms20
  | 2 => some .ms100
  | 3 => some .ms500
  | _ => none

/-- The filter time in milliseconds (R160). -/
def FilterTime.ms : FilterTime → Nat
  | .ms0 => 0
  | .ms20 => 20
  | .ms100 => 100
  | .ms500 => 500

/-- The role of a port as ReadIdentity gives it (R177). -/
def portCode : Port → Nat
  | .planner => 1
  | .site => 2
  | .service => 3

/-- The kinds numbered 1 to 24 in the order of the kinds table of R154 (R178). -/
def EventKind.code : EventKind → Nat
  | .orderAtRisk => 1
  | .orderReady => 2
  | .orderMissed => 3
  | .orderClosed => 4
  | .wakeFailed => 5
  | .wakeBarred => 6
  | .bayAttached => 7
  | .bayUnplugged => 8
  | .admitTimeout => 9
  | .noOrder => 10
  | .wrongBay => 11
  | .identityConflict => 12
  | .bayDormant => 13
  | .bayFaulted => 14
  | .feederWarn => 15
  | .feederAlarm => 16
  | .meterStale => 17
  | .meterBack => 18
  | .holdReached => 19
  | .inputEdge => 20
  | .stopActive => 21
  | .settingsLost => 22
  | .storeDone => 23
  | .clockSet => 24

/-- The class of a kind (the kinds table of R154). -/
def EventKind.cls : EventKind → EventClass
  | .orderAtRisk | .orderReady | .orderMissed | .orderClosed | .wakeFailed | .wakeBarred => .order
  | .bayAttached | .bayUnplugged | .admitTimeout | .noOrder | .wrongBay | .identityConflict | .bayDormant => .bay
  | .bayFaulted => .line
  | .feederWarn | .feederAlarm | .meterStale | .meterBack | .holdReached => .feeder
  | .inputEdge | .stopActive => .input
  | .settingsLost | .storeDone | .clockSet => .system

/-- The classes numbered in the order Order, Bay, Feeder, Line, Input, System, from 0 as mask bits (R178). -/
def EventClass.bit : EventClass → Nat
  | .order => 0
  | .bay => 1
  | .feeder => 2
  | .line => 3
  | .input => 4
  | .system => 5

/-! ### Request bodies (the request catalogue) -/

/-- The fields of an AddOrder, and the changed fields of an AmendOrder, as the body gives them (R7, R178). -/
structure OrderFields where
  key : Nat
  departure : Nat
  targetSoc : Nat
  conditioning : Option Conditioning
  lead : Nat
  wakePermitted : Option Bool
  cls : Option OrderClass
  assigned : Option (Option BayNo)
  deriving DecidableEq, Repr

/-- The 14 bytes after the tag of an AddOrder, and after the change set of an AmendOrder (R178). -/
def orderFields? : List Byte → Option OrderFields
  | [k3, k2, k1, k0, d3, d2, d1, d0, soc, cond, lead, wake, cls, bay] =>
    some ⟨val32 k3 k2 k1 k0, val32 d3 d2 d1 d0, soc.toNat, conditioning? cond, lead.toNat, yesNo? wake,
      orderClass? cls, optBay? bay⟩
  | _ => none

/-- One window of a SetTariff: start 4, end 4, band 1 (R178); absent where the band is neither Low nor Peak or the
start is not earlier than the end (R72). -/
def window? : List Byte → Option Window
  | [s3, s2, s1, s0, e3, e2, e1, e0, band] =>
    match windowBand? band with
    | some b => if val32 s3 s2 s1 s0 < val32 e3 e2 e1 e0 then some ⟨val32 s3 s2 s1 s0, val32 e3 e2 e1 e0, b⟩ else none
    | none => none
  | _ => none

/-- The windows of a SetTariff body after its count, one for each 9 bytes. -/
def windows? : Nat → List Byte → Option (List Window)
  | 0, _ => some []
  | n + 1, bytes =>
    match window? (bytes.take 9), windows? n (bytes.drop 9) with
    | some w, some ws => some (w :: ws)
    | _, _ => none

/-- R72: no window starts earlier than another ends while ending later than that other starts. -/
def Window.overlaps (a b : Window) : Bool := a.start < b.stop && b.start < a.stop

/-- R72: no two windows of a list overlap. -/
def noOverlap : List Window → Bool
  | [] => true
  | w :: ws => ws.all (fun v => !w.overlaps v) && noOverlap ws

/-- Put a window in a list sorted by start (R71). -/
def insertWindow (w : Window) : List Window → List Window
  | [] => [w]
  | v :: vs => if w.start < v.start then w :: v :: vs else v :: insertWindow w vs

/-- A list of windows sorted by ascending start (R71). -/
def sortWindows : List Window → List Window
  | [] => []
  | w :: ws => insertWindow w (sortWindows ws)

/-! ### Settings (R179) -/

/-- A setting of R179. -/
inductive SettingId where
  | enabled (b : BayNo)
  | rating (b : BayNo)
  | postMin
  | cabinHeater
  | safeCeiling
  | derateCeiling
  | warnThreshold
  | alarmThreshold
  | hysteresis
  | warnLatch
  | alarmLatch
  | roundPeriod
  | deferMargin
  | wakeSlack
  | dormancyTime
  | wakePulse
  | admTimeout
  | missedGrace
  | input (y : InputNo)
  | mask (p : Port)
  deriving DecidableEq, Repr

/-- The setting an identifier names (R179). -/
def settingId? (n : Nat) : Option SettingId :=
  if h : 0x0101 ≤ n ∧ n ≤ 0x0118 then some (.enabled ⟨n - 0x0101, by omega⟩)
  else if h : 0x0201 ≤ n ∧ n ≤ 0x0218 then some (.rating ⟨n - 0x0201, by omega⟩)
  else if h : 0x0501 ≤ n ∧ n ≤ 0x0506 then some (.input ⟨n - 0x0501, by omega⟩)
  else match n with
    | 0x0301 => some .postMin
    | 0x0302 => some .cabinHeater
    | 0x0303 => some .safeCeiling
    | 0x0304 => some .derateCeiling
    | 0x0305 => some .warnThreshold
    | 0x0306 => some .alarmThreshold
    | 0x0307 => some .hysteresis
    | 0x0308 => some .warnLatch
    | 0x0309 => some .alarmLatch
    | 0x0401 => some .roundPeriod
    | 0x0402 => some .deferMargin
    | 0x0403 => some .wakeSlack
    | 0x0404 => some .dormancyTime
    | 0x0405 => some .wakePulse
    | 0x0406 => some .admTimeout
    | 0x0407 => some .missedGrace
    | 0x0601 => some (.mask .planner)
    | 0x0602 => some (.mask .site)
    | 0x0603 => some (.mask .service)
    | _ => none

/-- The configuration four bytes spell: role, active level, filter, latch (R179); absent when a byte is out of its
range. -/
def inputCfg? (role level filter latch : Byte) : Option InputCfg :=
  match inputRole? role, yesNo? level, filterTime? filter, yesNo? latch with
  | some r, some low, some f, some l => some ⟨r, !low, f, l⟩
  | _, _, _, _ => none

/-- A mask: the classes byte names none but the six classes, the completions byte is 0 or 1 (R158, R180). -/
def mask? (classes completions : Byte) : Option Mask :=
  match yesNo? completions with
  | some c => if classes.toNat ≤ 0x3F then some ⟨classes, c⟩ else none
  | none => none

/-- A value within the range of its setting, read from the four value bytes (R179, R180). -/
inductive SettingValue where
  | num (n : Nat)
  | flag (b : Bool)
  | input (c : InputCfg)
  | mask (m : Mask)
  deriving DecidableEq, Repr

/-- The range of a numeric setting (R179). -/
def SettingId.range : SettingId → Option (Nat × Nat)
  | .rating _ => some (7, 60)
  | .postMin => some (2, 10)
  | .cabinHeater => some (0, 10)
  | .safeCeiling | .derateCeiling => some (0, 2000)
  | .warnThreshold | .alarmThreshold => some (0, 4000)
  | .hysteresis => some (0, 100)
  | .roundPeriod => some (10, 120)
  | .deferMargin => some (0, 600)
  | .wakeSlack => some (0, 240)
  | .dormancyTime => some (60, 1800)
  | .wakePulse => some (2, 15)
  | .admTimeout => some (20, 300)
  | .missedGrace => some (0, 3600)
  | .enabled _ | .warnLatch | .alarmLatch | .input _ | .mask _ => none

/-- The value the four bytes of a WriteSetting give a setting, absent when out of the setting's range (R180). The two
low bytes of a mask are not checked (entry 25). -/
def settingValue? (id : SettingId) (v3 v2 v1 v0 : Byte) : Option SettingValue :=
  match id with
  | .enabled _ | .warnLatch | .alarmLatch =>
    match val32 v3 v2 v1 v0 with
    | 0 => some (.flag false)
    | 1 => some (.flag true)
    | _ => none
  | .input _ => (inputCfg? v3 v2 v1 v0).map .input
  | .mask _ => (mask? v3 v2).map .mask
  | .rating _ | .postMin | .cabinHeater | .safeCeiling | .derateCeiling | .warnThreshold | .alarmThreshold
  | .hysteresis | .roundPeriod | .deferMargin | .wakeSlack | .dormancyTime | .wakePulse | .admTimeout
  | .missedGrace =>
    match id.range with
    | some (lo, hi) =>
      if lo ≤ val32 v3 v2 v1 v0 ∧ val32 v3 v2 v1 v0 ≤ hi then some (.num (val32 v3 v2 v1 v0)) else none
    | none => none

/-- An input configuration as the four value bytes (R179). -/
def InputCfg.bytes (c : InputCfg) : List Byte :=
  [byte c.role.code, yesNo (!c.activeHigh), byte c.filter.code, yesNo c.latch]

/-- A mask setting as the four value bytes: classes, completions, two zero bytes (R179). -/
def Mask.bytes (m : Mask) : List Byte := [m.classes, yesNo m.completions, 0, 0]

/-- The value of a setting in the working copy, in four bytes, most significant first (R179). -/
def Settings.valueBytes (w : Settings) : SettingId → List Byte
  | .enabled b => be32 (if w.enabled[b] then 1 else 0)
  | .rating b => be32 w.rating[b]
  | .postMin => be32 w.postMin
  | .cabinHeater => be32 w.cabinHeater
  | .safeCeiling => be32 w.safeCeiling
  | .derateCeiling => be32 w.derateCeiling
  | .warnThreshold => be32 w.warnThreshold
  | .alarmThreshold => be32 w.alarmThreshold
  | .hysteresis => be32 w.hysteresis
  | .warnLatch => be32 (if w.warnLatch then 1 else 0)
  | .alarmLatch => be32 (if w.alarmLatch then 1 else 0)
  | .roundPeriod => be32 w.roundPeriod
  | .deferMargin => be32 w.deferMargin
  | .wakeSlack => be32 w.wakeSlack
  | .dormancyTime => be32 w.dormancyTime
  | .wakePulse => be32 w.wakePulse
  | .admTimeout => be32 w.admTimeout
  | .missedGrace => be32 w.missedGrace
  | .input y => (w.inputs[y]).bytes
  | .mask .planner => w.maskPlanner.bytes
  | .mask .site => w.maskSite.bytes
  | .mask .service => w.maskService.bytes

/-- A setting of the working copy given a value (R180); a value of another setting's shape changes nothing. -/
def Settings.write (w : Settings) : SettingId → SettingValue → Settings
  | .enabled b, .flag v => { w with enabled := w.enabled.set b v }
  | .rating b, .num v => { w with rating := w.rating.set b v }
  | .postMin, .num v => { w with postMin := v }
  | .cabinHeater, .num v => { w with cabinHeater := v }
  | .safeCeiling, .num v => { w with safeCeiling := v }
  | .derateCeiling, .num v => { w with derateCeiling := v }
  | .warnThreshold, .num v => { w with warnThreshold := v }
  | .alarmThreshold, .num v => { w with alarmThreshold := v }
  | .hysteresis, .num v => { w with hysteresis := v }
  | .warnLatch, .flag v => { w with warnLatch := v }
  | .alarmLatch, .flag v => { w with alarmLatch := v }
  | .roundPeriod, .num v => { w with roundPeriod := v }
  | .deferMargin, .num v => { w with deferMargin := v }
  | .wakeSlack, .num v => { w with wakeSlack := v }
  | .dormancyTime, .num v => { w with dormancyTime := v }
  | .wakePulse, .num v => { w with wakePulse := v }
  | .admTimeout, .num v => { w with admTimeout := v }
  | .missedGrace, .num v => { w with missedGrace := v }
  | .input y, .input c => { w with inputs := w.inputs.set y c }
  | .mask .planner, .mask m => { w with maskPlanner := m }
  | .mask .site, .mask m => { w with maskSite := m }
  | .mask .service, .mask m => { w with maskService := m }
  | _, _ => w

/-! ### What can arrive -/

/-- The request codes of the catalogue are 01 to 1E hexadecimal (the request catalogue of R178). -/
def isCatalogueCode (kind : Byte) : Bool := 1 ≤ kind.toNat && kind.toNat ≤ 30

/-- A status whose fields lie in their ranges; any other is not a valid answer (R127). -/
def statusValid (st : PostStatus) : Bool := st.output ≤ 60 && st.counter ≤ 65535 && st.limit ≤ 60

/-! ### Record bodies of answers (the record layouts of R178) -/

/-- A time stamp in four bytes, 0 when the clock was unset (R178). -/
def Stamp.bytes : Stamp → List Byte
  | .depot t => be32 t
  | .clockUnset => be32 0

/-- Whether a stamp is the marker "clock unset". -/
def Stamp.isUnset : Stamp → Bool
  | .depot _ => false
  | .clockUnset => true

/-- The completion body, 16 bytes (R178). -/
def Completion.bytes (c : Completion) : List Byte :=
  be16 c.tag ++ be32 c.key ++ c.closedAt.bytes ++ be16 c.delivered ++
    [optBayByte c.bay, byte c.outcome.code, optByte c.finalSoc,
      flagByte [c.atRisk, c.wakeFailed, c.closedAt.isUnset]]

/-- A subject in two bytes, 0 when absent (R178). -/
def subjectBytes : Option Subject → List Byte
  | none => be16 0
  | some (.order tag) => be16 tag
  | some (.bay b) => be16 (b.val + 1)
  | some (.input y) => be16 (y.val + 1)

/-- The event body, 9 bytes (R178). -/
def EventRec.bytes (e : EventRec) : List Byte :=
  let (elapsedBase, t) := match e.time with
    | .depot t => (false, t)
    | .elapsed t => (true, t)
  [byte e.kind.code, byte (e.kind.cls.bit + 1),
    flagByte [e.subject.isSome, e.edge == .cleared, elapsedBase]] ++ subjectBytes e.subject ++ be32 t

/-- A tariff window, 9 bytes (R178). -/
def Window.bytes (w : Window) : List Byte := be32 w.start ++ be32 w.stop ++ [byte w.band.code]

end Sys2Proof.Machine
end

