-- ==== Sys2Proof/Machine/Ops.lean ====
section
/-! DEFINITION. The named operations over the state that every unit shares: the one home of each record (bays, line
records, targets, orders, ports), the clocks, the event queue with the attention lines, and running time forward. -/

namespace Sys2Proof.Machine

/-! ### Records -/

/-- All bays in ascending bay number. -/
def allBays : List BayNo := List.finRange 24

/-- All yard inputs in ascending number. -/
def allInputs : List InputNo := List.finRange 6

def State.bay (s : State) (b : BayNo) : BayRec := s.bays[b]

def State.updBay (s : State) (b : BayNo) (f : BayRec → BayRec) : State :=
  { s with bays := s.bays.set b (f s.bays[b]) }

def State.lineBay (s : State) (b : BayNo) : LineBay := s.line.bays[b]

def State.updLineBay (s : State) (b : BayNo) (f : LineBay → LineBay) : State :=
  { s with line := { s.line with bays := s.line.bays.set b (f s.line.bays[b]) } }

def State.target (s : State) (b : BayNo) : Nat := s.alloc.targets[b]

def State.withTarget (s : State) (b : BayNo) (v : Nat) : State :=
  { s with alloc := { s.alloc with targets := s.alloc.targets.set b v } }

def State.cap (s : State) (b : BayNo) : Nat := s.alloc.caps[b]

def State.withCap (s : State) (b : BayNo) (v : Nat) : State :=
  { s with alloc := { s.alloc with caps := s.alloc.caps.set b v } }

def State.withLimit (s : State) (b : BayNo) (v : Option Nat) : State :=
  { s with alloc := { s.alloc with limits := s.alloc.limits.set b v } }

def State.input (s : State) (y : InputNo) : InputState := s.inputs[y]

def State.updInput (s : State) (y : InputNo) (f : InputState → InputState) : State :=
  { s with inputs := s.inputs.set y (f s.inputs[y]) }

/-- The settings in use: every block reads its settings from the working copy (R179). -/
def State.cfg (s : State) : Settings := s.store.working

def State.withWorking (s : State) (w : Settings) : State := { s with store := { s.store with working := w } }

/-- The configuration of an input (R160). -/
def State.inputCfg (s : State) (y : InputNo) : InputCfg := s.cfg.inputs[y]

def State.withInputCfg (s : State) (y : InputNo) (c : InputCfg) : State :=
  s.withWorking { s.cfg with inputs := s.cfg.inputs.set y c }

/-- The post rating of a bay (R25, R179). -/
def State.rating (s : State) (b : BayNo) : Nat := s.cfg.rating[b]

/-- The enabled setting of a bay (R29, R179). -/
def State.enabled (s : State) (b : BayNo) : Bool := s.cfg.enabled[b]

def State.port (s : State) : Port → PortState
  | .planner => s.planner
  | .site => s.site
  | .service => s.service

def State.withPort (s : State) (p : Port) (x : PortState) : State :=
  match p with
  | .planner => { s with planner := x }
  | .site => { s with site := x }
  | .service => { s with service := x }

def State.withSlot (s : State) (p : Port) (x : Slot) : State := s.withPort p { s.port p with slot := x }

/-! ### Orders -/

/-- The order with a tag; tags are unique in the roster (R6). -/
def State.order? (s : State) (tag : Nat) : Option Order := s.roster.find? (fun o => o.tag == tag)

def State.updOrder (s : State) (tag : Nat) (f : Order → Order) : State :=
  { s with roster := s.roster.map (fun o => if o.tag = tag then f o else o) }

/-- Charging, Conditioning or Ready: the bound states that draw power or may (R88). -/
def OrderState.live : OrderState → Bool
  | .charging | .conditioning | .ready => true
  | .waiting | .closing | .closed => false

/-- "An order is said to be bound in Charging, Conditioning, Ready and Closing" (01, The order states). -/
def OrderState.isBound : OrderState → Bool
  | .charging | .conditioning | .ready | .closing => true
  | .waiting | .closed => false

/-- The order bound to a bay (R25). -/
def State.orderOf? (s : State) (b : BayNo) : Option Order :=
  match (s.bay b).boundOrder with
  | none => none
  | some tag => s.order? tag

/-- The position of the order with a tag in roster order, from 1 (R5); 0 when it has left the roster. -/
def positionIn (tag : Nat) : List Order → Nat
  | [] => 0
  | o :: os => if o.tag = tag then 1 else match positionIn tag os with
    | 0 => 0
    | n + 1 => n + 2

def State.position (s : State) (tag : Nat) : Nat := positionIn tag s.roster

/-! ### Clocks -/

/-- The depot time, absent while the clock is unset: it advances by one each elapsed second from the SetClock and stays
at its greatest value (R1). -/
def State.now? (s : State) : Option Nat :=
  match s.alloc.clock with
  | none => none
  | some c => some (min Config.maxSeconds (c.time + (s.elapsed - c.since) / 1000))

/-- The depot time, or the marker "clock unset" (R1). -/
def State.stamp (s : State) : Stamp :=
  match s.now? with
  | some t => .depot t
  | none => .clockUnset

/-- The whole seconds elapsed since the last reset, stopping at 4,294,967,295 (R154, R177). -/
def State.elapsedSeconds (s : State) : Nat := min Config.maxSeconds (s.elapsed / 1000)

/-- Time runs forward to a moment, or stays where it is when the moment has passed (entry 2). -/
def State.runTo (s : State) (t : Nat) : State := { s with elapsed := max s.elapsed t }

/-- The moment a number of seconds from now. -/
def State.inSeconds (s : State) (n : Nat) : Nat := s.elapsed + n * 1000

/-- The whole seconds left to a moment. -/
def State.secondsTo (s : State) (t : Nat) : Nat := (t - s.elapsed) / 1000

/-- The whole seconds since a moment. -/
def State.secondsSince (s : State) (t : Nat) : Nat := (s.elapsed - t) / 1000

/-! ### Attention lines and the event queue -/

/-- R159: a port's line is asserted while the queue holds a record whose class is in the mask, or its completions flag
is Yes and the log is not empty. -/
def attentionFor (m : Mask) (queue : List EventRec) (log : List Completion) : Bool :=
  queue.any (fun e => m.classes.getLsbD e.kind.cls.bit) || (m.completions && !log.isEmpty)

/-- R159: the Port unit recomputes the three attention lines. -/
def State.refreshAttention (s : State) : State :=
  { s with
    planner := { s.planner with attention := attentionFor s.planner.mask s.events.queue s.log }
    site := { s.site with attention := attentionFor s.site.mask s.events.queue s.log }
    service := { s.service with attention := attentionFor s.service.mask s.events.queue s.log } }

/-- The time field of a record appended now (R154). -/
def State.eventTime (s : State) : EventTime :=
  match s.now? with
  | some t => .depot t
  | none => .elapsed s.elapsedSeconds

/-- R155: an append. With room the record joins the young end and the attention lines are recomputed; on a full queue
it is discarded and the overflow flag set. -/
def State.append (s : State) (kind : EventKind) (subject : Option Subject) (edge : Edge) : State :=
  if s.events.queue.length < Config.queueCapacity then
    State.refreshAttention
      { s with events := { s.events with queue := s.events.queue ++ [⟨kind, subject, edge, s.eventTime⟩] } }
  else { s with events := { s.events with overflow := true } }

/-! ### Small searches -/

/-- The element with the least key; the first of them when several have it. -/
def minBy {α : Type} (key : α → Nat) : List α → Option α
  | [] => none
  | x :: xs =>
    match minBy key xs with
    | none => some x
    | some y => if key y < key x then some y else some x

/-- Put an element in a list sorted by a relation, after those it does not precede. -/
def insertBy {α : Type} (before : α → α → Bool) (x : α) : List α → List α
  | [] => [x]
  | y :: ys => if before y x then y :: insertBy before x ys else x :: y :: ys

/-- Insertion sort by a relation. -/
def sortBy {α : Type} (before : α → α → Bool) : List α → List α
  | [] => []
  | x :: xs => insertBy before x (sortBy before xs)

/-- The bays from a position upward, wrapping from 24 to 1 (R139, R140). -/
def baysFrom (start : BayNo) : List BayNo :=
  allBays.filter (fun b => start ≤ b) ++ allBays.filter (fun b => b < start)

/-- The bay after a bay, 1 after 24 (R139). -/
def bayAfter (b : BayNo) : BayNo := b + 1

end Sys2Proof.Machine
end

