-- ==== Sys2Proof/Machine/Derating.lean ====
section
/-! DEFINITION. The Derating unit: temperature index, charge cap, heater power and cap, computed on demand (R49 to
R56), and the two quantities derived from an order and pack data (R4). -/

namespace Sys2Proof.Machine

/-- R50: the temperature index of a pack temperature, (T + 30) / 2 rounded down and clamped to 0 to 40. -/
def tempIndex (t : Int) : Nat := min 40 ((t + 30) / 2).toNat

/-- R51: the index of a bay: the fixed index, else that of the pack data's temperature, else 0. -/
def BayRec.index (r : BayRec) : Nat :=
  match r.ovr.fixedIndex with
  | some i => i
  | none => match r.pack with
    | some p => tempIndex p.temp
    | none => 0

/-- An entry of a derating table (R49). -/
def tableAt (t : Vector Nat 41) (i : Nat) : Nat := t.toList.getD i 0

/-- R53: the charge cap. -/
def State.chargeCap (s : State) (b : BayNo) : Nat :=
  match (s.bay b).ovr.mode with
  | .table => s.rating b * tableAt s.cfg.rateTable (s.bay b).index / 100
  | .manual => ((s.bay b).ovr.manualCap).getD 0

/-- R54: the pack heater part. -/
def State.packHeater (s : State) (b : BayNo) : Conditioning → Nat
  | .none | .cabin => 0
  | .pack | .both => tableAt s.cfg.condTable (s.bay b).index

/-- R54: the cabin heater part. -/
def State.cabinHeater (s : State) : Conditioning → Nat
  | .none | .pack => 0
  | .cabin | .both => s.cfg.cabinHeater

/-- R4: conditioning owed. -/
def Order.owes (o : Order) : Bool := o.conditioning != .none && o.begun

/-- R54: the heater power that counts: while the order is Conditioning, and while it is Ready with conditioning owed. -/
def State.heater (s : State) (b : BayNo) (o : Order) : Nat :=
  if o.state = .conditioning ∨ (o.state = .ready ∧ o.owes = true) then
    s.packHeater b o.conditioning + s.cabinHeater o.conditioning
  else 0

/-- R55: the cap: the least of the post rating, the post limit and the charge cap plus the heater power. -/
def State.capOf (s : State) (b : BayNo) (o : Order) : Nat :=
  min (s.rating b) (min (s.bay b).limit (s.chargeCap b + s.heater b o))

/-- R4: remaining energy from an order's target SoC and a pack report. -/
def remainingOf (targetSoc : Nat) (p : PackData) : Nat := (targetSoc - p.soc) * p.capacity / 100

/-- R4: remaining energy of an order bound to a bay, in 0.1 kWh. A bound bay always has pack data; without it the
quantity reads 0 (entry 12). -/
def State.remaining (s : State) (b : BayNo) (o : Order) : Nat :=
  match (s.bay b).pack with
  | some p => remainingOf o.targetSoc p
  | none => 0

end Sys2Proof.Machine
end

