-- ==== Sys2Proof/Machine/Flags.lean ====
section
/-! DEFINITION. Every flag and derived quantity the rules compute from the state: eligibility, exposure and its sums,
the effective ceiling, the Held condition, the warning and alarm conditions and flags, the input conditions, the band,
slack, and the flags a round sets from it. None of them changes anything. -/

namespace Sys2Proof.Machine

/-! ### Eligibility and exposure -/

/-- The order of a bay, when it is Charging, Conditioning or Ready and not released. -/
def State.liveOrder? (s : State) (b : BayNo) : Option Order :=
  (s.orderOf? b).filter (fun o => o.state.live && !o.released)

/-- R88: the bay is Bound, its order is Charging, Conditioning or Ready, and the order is not released. -/
def State.eligible (s : State) (b : BayNo) : Bool :=
  (s.bay b).state == .bound && (s.liveOrder? b).isSome

/-- R89: a Dormant bay whose order is still reckoned. -/
def State.reckoned (s : State) (b : BayNo) : Bool :=
  (s.bay b).state == .dormant && (s.liveOrder? b).isSome

/-- The value of an open Grant; 0 for any other exchange. -/
def LineBay.openGrant (l : LineBay) : Nat :=
  match l.opn with
  | some ⟨.grant v, _, _, _⟩ => v
  | _ => 0

/-- Whether a Grant is open. -/
def LineBay.grantOpen (l : LineBay) : Bool :=
  match l.opn with
  | some ⟨.grant _, _, _, _⟩ => true
  | _ => false

/-- R132: the exposure of a bay: its held grant, or the value of its open Grant if that is larger. -/
def LineBay.exposure (l : LineBay) : Nat := max l.held l.openGrant

def State.exposure (s : State) (b : BayNo) : Nat := (s.lineBay b).exposure

/-- The sum of the exposures of all bays (R83, R137). -/
def State.exposureSum (s : State) : Nat := (allBays.map s.exposure).sum

/-- R100: the stranded exposure: the sum of the exposures of the bays that are not eligible. -/
def State.stranded (s : State) : Nat :=
  (allBays.map (fun b => if s.eligible b then 0 else s.exposure b)).sum

/-- R100: the available power: the effective ceiling less the stranded exposure, floored at 0. -/
def State.available (s : State) : Nat := s.feeder.effective - s.stranded

/-- The sum of the targets of the eligible bays (R103, R105). -/
def State.eligibleTargets (s : State) : Nat :=
  (allBays.map (fun b => if s.eligible b then s.target b else 0)).sum

/-- R76: every bay that is not Faulted has exposure 0. -/
def State.heldCondition (s : State) : Bool :=
  allBays.all (fun b => (s.bay b).state == .faulted || s.exposure b == 0)

/-- R83: the count that goes with the hold state. -/
def State.holdCount (s : State) : Nat :=
  match s.feeder.hold with
  | .running => 0
  | .draining => (allBays.filter (fun b => (s.bay b).state != .faulted && s.exposure b != 0)).length
  | .held => (allBays.filter (fun b => (s.bay b).state == .faulted && (s.lineBay b).held != 0)).length

/-! ### Feeder unit -/

/-- R79: the ceilings in force and their least, less the alarm cut; 0 under a hold or a Stop. -/
def ceilingOf (f : Feeder) (w : Settings) : Nat :=
  if f.hold ≠ .running ∨ f.stop = true then 0
  else
    let safe := if f.site.isNone ∨ f.stale = true then [w.safeCeiling] else []
    let derate := if f.derate then [w.derateCeiling] else []
    match f.site.toList ++ safe ++ derate with
    | [] => 0
    | c :: cs => cs.foldl min c - f.cut

/-- R67: a condition after a report: it comes into force above the threshold and leaves force below the threshold less
the hysteresis. -/
def conditionAfter (before : Bool) (load threshold hysteresis : Nat) : Bool :=
  if before then decide ((threshold : Int) - hysteresis ≤ load) else decide (threshold < load)

/-- R68: a flag after a report. -/
def flagAfter (latch cond flag : Bool) : Bool := cond || (latch && flag)

/-- R71: the current band. -/
def State.band (s : State) : Band :=
  match s.now? with
  | none => .normal
  | some t => match s.feeder.tariff.find? (fun w => w.start ≤ t && t < w.stop) with
    | some w => w.band
    | none => .normal

/-! ### Input unit -/

/-- R160: an input is in force while its filtered state is Active or its latched state is Set. -/
def InputState.inForce (i : InputState) : Bool := i.active || i.latched

/-- The filtered state a line level stands for under an active level (R160). -/
def activeFor (level activeHigh : Bool) : Bool := level == activeHigh

/-- R164: whether some input of a role is in force. -/
def State.roleInForce (s : State) (role : InputRole) : Bool :=
  allInputs.any (fun y => (s.inputCfg y).role == role && (s.input y).inForce)

/-! ### Rounds -/

/-- R3: the lead of an order is reached at a depot time: the time is at or past departure - lead x 60. -/
def Order.leadReached (o : Order) (now : Nat) : Bool := o.departure ≤ now + o.lead * 60

/-- R92: minutes left, rounded down toward minus infinity. -/
def minutesLeft (departure now : Nat) : Int := ((departure : Int) - now) / 60

/-- R92: minutes needed, rounded up. -/
def minutesNeeded (remaining cap : Nat) : Nat := (remaining * 6 + cap - 1) / cap

/-- R93: the slack from its parts, taken into -32,768 to 32,767. -/
def slackOf (remaining cap : Nat) (left : Int) (lead : Nat) : Int :=
  if remaining = 0 then 32767
  else if cap = 0 then -32768
  else max (-32768) (min 32767 (left - minutesNeeded remaining cap - lead))

/-- R93: the slack of the order of a bay at a depot time; the lead counts while the order is Charging. -/
def State.slack (s : State) (b : BayNo) (o : Order) (now : Nat) : Int :=
  slackOf (s.remaining b o) (s.chargeCap b) (minutesLeft o.departure now)
    (if o.state = .charging then o.lead else 0)

/-- R95: whether a round sets Deferred on an order. -/
def deferredAfter (band : Band) (o : Order) (slack : Int) (margin : Nat) : Bool :=
  band == .peak && o.state == .charging && decide ((margin : Int) ≤ slack)

/-- R96: the demand of an eligible bay before the rounding of R97. -/
def State.rawDemand (s : State) (b : BayNo) (o : Order) : Nat :=
  let cap := s.capOf b o
  let remaining := s.remaining b o
  match o.state with
  | .charging => if remaining = 0 ∨ o.deferred = true then 0 else cap
  | .conditioning => if remaining = 0 then min cap (s.heater b o) else cap
  | .ready => if o.owes then min cap (s.heater b o) else 0
  | .waiting | .closing | .closed => 0

/-- R97: a demand below the post minimum is raised to it where the cap allows, and dropped where it does not. -/
def roundDemand (demand cap postMin : Nat) : Nat :=
  if demand = 0 then 0
  else if demand < postMin then (if postMin ≤ cap then postMin else 0)
  else demand

/-- R96, R97: the demand of an eligible bay. -/
def State.demand (s : State) (b : BayNo) (o : Order) : Nat :=
  roundDemand (s.rawDemand b o) (s.capOf b o) s.cfg.postMin

/-- The rank of a class: Express, Standard, Spare (R98). -/
def OrderClass.rank : OrderClass → Nat
  | .express => 0
  | .standard => 1
  | .spare => 2

/-- What a round ranks a bay by (R98) and walks with (R101). -/
structure RankEntry where
  bay : BayNo
  cls : OrderClass
  slack : Int
  demand : Nat
  deriving DecidableEq, Repr

/-- R98: class first, then lower slack, then lower bay number. -/
def rankBefore (x y : RankEntry) : Bool :=
  decide (x.cls.rank < y.cls.rank) ||
    (x.cls.rank == y.cls.rank && (decide (x.slack < y.slack) || (x.slack == y.slack && decide (x.bay < y.bay))))

end Sys2Proof.Machine
end

