-- ==== Sys2Proof/Machine/Share.lean ====
section
/-! DEFINITION. Between rounds: how a changed target becomes a pending Grant (R133), the trim (R105, R106), a bay's loss
of eligibility (R104), the refusal limit (R107), the notices of a changed exposure (R132, R76), and the recomputation of
the effective ceiling with the notice of a fall (R80, R81). -/

namespace Sys2Proof.Machine

/-- R133: what the target is compared with: the value of the open Grant, otherwise the held grant. -/
def LineBay.reference (l : LineBay) : Nat := if l.grantOpen then l.openGrant else l.held

/-- R133: a bay that is Faulted or Off is not reconciled. -/
def State.onLineService (s : State) (b : BayNo) : Bool :=
  (s.bay b).state != .off && (s.bay b).state != .faulted

/-- R133: the pending Grant of a bay is made, given the target's value with its age kept, or dropped. -/
def State.reconcile (s : State) (b : BayNo) : State :=
  if s.onLineService b then
    let l := s.lineBay b
    if s.target b = l.reference then s.updLineBay b (fun l => { l with pGrant := none })
    else match l.pGrant with
      | some p => s.updLineBay b (fun l => { l with pGrant := some { p with value := s.target b } })
      | none =>
        let t := s.updLineBay b (fun l => { l with pGrant := some ⟨s.target b, s.line.nextAge⟩ })
        { t with line := { t.line with nextAge := s.line.nextAge + 1 } }
  else s

/-- A target takes a value, and a changed target is handed to the Line controller (R133). -/
def State.setTarget (s : State) (b : BayNo) (v : Nat) : State :=
  if s.target b = v then s else (s.withTarget b v).reconcile b

/-- R106: the target a bay keeps when an excess must be taken back from it. -/
def trimmedTarget (target excess postMin : Nat) : Nat :=
  if postMin + excess ≤ target then target - excess else 0

/-- R106: one bay of the trim. -/
def State.trimBay (s : State) (b : BayNo) : State :=
  if s.eligibleTargets ≤ s.available ∨ s.target b = 0 then s
  else s.setTarget b (trimmedTarget (s.target b) (s.eligibleTargets - s.available) s.cfg.postMin)

/-- R105, R106: the first law is checked; targets are lowered from the tail of the stored ranking toward its head while
their sum stays above the available power. -/
def State.trimCheck (s : State) : State := s.alloc.ranking.reverse.foldl State.trimBay s

/-- R104: a bay that was eligible has left eligibility: its target becomes 0, handed on as a decrease, and the other
targets are checked. A bay that was not eligible before gives no notice (R112). -/
def State.leaveEligibility (s : State) (was : Bool) (b : BayNo) : State :=
  if was then (s.setTarget b 0).trimCheck else s

/-- R76: the Held condition is checked while the depot is Draining or Held. -/
def State.heldCheck (s : State) : State :=
  match s.feeder.hold, s.heldCondition with
  | .draining, true =>
    State.append { s with feeder := { s.feeder with hold := .held } } .holdReached none .raised
  | .held, false => { s with feeder := { s.feeder with hold := .draining } }
  | _, _ => s

/-- R132: the notices of a changed exposure: to the Feeder unit for the Held condition, and to the Allocator when the
exposure of a bay that is not eligible has risen. -/
def State.noteExposure (s : State) (b : BayNo) (before : Nat) : State :=
  if s.exposure b = before then s
  else
    let t := s.heldCheck
    if before < t.exposure b ∧ t.eligible b = false then t.trimCheck else t

/-- R80, R81: the effective ceiling is recomputed, and a fall is notified to the Allocator, which trims. -/
def State.recomputeCeiling (s : State) : State :=
  let new := ceilingOf s.feeder s.cfg
  let t := { s with feeder := { s.feeder with effective := new } }
  if new < s.feeder.effective then t.trimCheck else t

/-- R107: a post has refused an increase: the refusal limit takes the held grant, and a target above it is lowered. -/
def State.refusedIncrease (s : State) (b : BayNo) : State :=
  let held := (s.lineBay b).held
  let t := s.withLimit b (some held)
  if held < t.target b then t.setTarget b (if t.cfg.postMin ≤ held then held else 0) else t

end Sys2Proof.Machine
end

