-- ==== Sys2Proof/Machine/Roster.lean ====
section
/-! DEFINITION. The Roster unit and its dealings with the Bay unit: roster order (R5), closure and the completion log
(R15, R148 to R150), delivered energy (R17), binding (R12, R38 to R40), and unbinding (R18, R42). -/

namespace Sys2Proof.Machine

/-- R5: an order enters the roster as the last of the orders of its departure. -/
def insertOrder (o : Order) : List Order → List Order
  | [] => [o]
  | x :: xs => if x.departure ≤ o.departure then x :: insertOrder o xs else o :: x :: xs

/-! ### Closure -/

/-- R148: the completion record of a closed order, from its frozen fields. -/
def Order.completion (o : Order) : Completion where
  tag := o.tag
  key := o.key
  bay := o.boundBay
  outcome := o.outcome.getD .cancelled
  delivered := o.delivered
  finalSoc := o.finalSoc
  closedAt := o.closedAt.getD .clockUnset
  atRisk := o.atRisk
  wakeFailed := o.wakeFailed

/-- An order leaves the roster as its record is appended to the log (R149); the attention lines follow (R159). -/
def State.logOrder (s : State) (o : Order) : State :=
  State.refreshAttention
    { s with log := s.log ++ [o.completion], roster := s.roster.filter (fun x => x.tag != o.tag) }

/-- R150: the record is appended when the log has room and no older Closed order waits; otherwise the order joins the
waiting line. -/
def State.enterLog (s : State) (o : Order) : State :=
  if s.log.length < Config.logCapacity ∧ s.waitingLine = [] then s.logOrder o
  else { s with waitingLine := s.waitingLine ++ [o.tag] }

/-- R15: the order as its closure leaves it, with the final SoC of its bound bay's pack data (R148). -/
def State.closedForm (s : State) (o : Order) (out : CloseOutcome) : Order :=
  { o with
    state := .closed
    outcome := some out
    closedAt := some s.stamp
    deferred := false
    finalSoc := match o.boundBay with
      | some b => (s.bay b).pack.map (fun p => p.soc)
      | none => none }

/-- R15: an order is closed with an outcome. -/
def State.closeOrder (s : State) (tag : Nat) (out : CloseOutcome) : State :=
  match s.order? tag with
  | none => s
  | some o =>
    let o' := s.closedForm o out
    let t := (s.updOrder tag (fun _ => o')).append (if out = .missed then .orderMissed else .orderClosed)
      (some (.order tag)) .raised
    t.enterLog o'

/-! ### Delivered energy -/

/-- R17: delivered energy, which never decreases (entry 13), and the carried energy and baseline of a counter that has
restarted. -/
def State.takeCounter (s : State) (b : BayNo) (reading : Nat) : State :=
  match s.orderOf? b with
  | none => s
  | some o =>
    if o.state.isBound then
      if (s.bay b).baseline ≤ reading then
        s.updOrder o.tag (fun o =>
          { o with delivered := max o.delivered (min Config.maxEnergy (o.carried + (reading - (s.bay b).baseline))) })
      else
        (s.updOrder o.tag (fun o => { o with carried := o.delivered })).updBay b
          (fun r => { r with baseline := reading })
    else s

/-! ### Wake progress of a bay -/

/-- R110: the end of a dormancy period. -/
def BayRec.endPeriod (r : BayRec) : BayRec :=
  { r with dormantSince := none, retryAt := none, barred := false, wakeWindow := none }

/-- Whether a Wake exchange is open for the bay. -/
def LineBay.wakeOpen (l : LineBay) : Bool :=
  match l.opn with
  | some ⟨.wake _ _, _, _, _⟩ => true
  | _ => false

/-- A Wake not yet started is withdrawn; wake pending stays Yes only while a Wake is open (R110, R113, R116). -/
def State.withdrawWake (s : State) (b : BayNo) : State :=
  (s.updLineBay b (fun l => { l with pWake := none })).updBay b
    (fun r => { r with wakePending := (s.lineBay b).wakeOpen })

/-! ### Binding -/

/-- R40, R12: a check binds an order to a bay. -/
def State.bind (s : State) (b : BayNo) (tag : Nat) : State :=
  let t := s.updBay b (fun r =>
    { r with
      state := .bound
      boundOrder := some tag
      baseline := r.counter
      conflict := false
      dormTimer := some (s.inSeconds s.cfg.dormancyTime)
      tryCount := 0 })
  t.updOrder tag (fun o => { o with state := .charging, boundBay := some b, carried := o.delivered })

/-- R39 step 1: the Unmatched bays whose admitted van key is the given key, in ascending bay number. -/
def State.unmatchedWith (s : State) (key : Nat) : List BayNo :=
  allBays.filter (fun b => (s.bay b).state == .unmatched && (s.bay b).identity == some key)

/-- R39: the binding check on behalf of an order. R7 says that an order whose assigned bay is disabled can never bind
until it is amended, R29 that a bay disabled while not Off is served as before, and the check of R39 names no enabled
setting: that such a bay binds is the model's choice (entry 40). -/
def State.bindingCheckOrder (s : State) (tag : Nat) : State :=
  match s.order? tag with
  | none => s
  | some o =>
    match o.assigned with
    | some b =>
      if b ∈ s.unmatchedWith o.key then s.bind b tag
      else (s.unmatchedWith o.key).foldl (fun t x => t.append .wrongBay (some (.bay x)) .raised) s
    | none =>
      match s.unmatchedWith o.key with
      | [] => s
      | b :: _ => s.bind b tag

/-- R38: the binding check at the completion of an admission. It does not ask whether the bay is enabled, the model's
choice as at `bindingCheckOrder` (entry 40). -/
def State.bindingCheckAdmission (s : State) (b : BayNo) (key : Nat) : State :=
  let unmatched := s.updBay b (fun r => { r with state := .unmatched })
  match s.roster.find? (fun o => o.state == .waiting && o.key == key) with
  | none => unmatched.append .noOrder (some (.bay b)) .raised
  | some o =>
    if o.assigned = none ∨ o.assigned = some b then s.bind b o.tag
    else unmatched.append .wrongBay (some (.bay b)) .raised

/-! ### Unbinding -/

/-- R18: a bound order returns to Waiting. -/
def State.unbindOrder (s : State) (tag : Nat) : State :=
  match s.order? tag with
  | none => s
  | some o =>
    let t := s.updOrder tag (fun o =>
      { o with
        state := .waiting
        boundBay := none
        begun := false
        released := false
        deferred := false
        atRisk := false })
    if o.atRisk then t.append .orderAtRisk (some (.order tag)) .cleared else t

/-- The Binding group of a bay record is cleared (R25; entry 21). -/
def BayRec.clearBinding (r : BayRec) : BayRec :=
  { r with boundOrder := none, baseline := 0, conflict := false }

/-- R42: the binding of a bay is cleared by an AmendOrder or a decrease done: the bay becomes Unmatched with its key and
pack data kept, its dormancy timer and wake progress stopped; a Faulted bay stays Faulted. -/
def State.unbindBay (s : State) (b : BayNo) : State :=
  if (s.bay b).state = .faulted then s.updBay b BayRec.clearBinding
  else
    (s.updBay b (fun r => { r.clearBinding.endPeriod with state := .unmatched, dormTimer := none })).withdrawWake b

/-- R21: the decrease-done test of a bay whose order is Closing: held grant 0 and no Grant open. -/
def State.decreaseDone (s : State) (b : BayNo) : State :=
  match s.orderOf? b with
  | none => s
  | some o =>
    if o.state = .closing ∧ (s.lineBay b).held = 0 ∧ (s.lineBay b).grantOpen = false then
      (s.closeOrder o.tag .cancelled).unbindBay b
    else s

end Sys2Proof.Machine
end

