-- ==== Sys2Proof/Machine/Bays.lean ====
section
/-! DEFINITION. The Bay unit: plug reactions (R29 to R31), admission (R33 to R36), the van frames of each bay state
(R37, R41, R113, R119), dormancy and failed wake tries (R112, R120), the fault report (R43) and ClearBay's part of the
bay (R45). -/

namespace Sys2Proof.Machine

/-- R32: clearing the slots. -/
def BayRec.clearSlots (r : BayRec) : BayRec :=
  { r with identity := none, packSlot := none, lockSlot := false }

/-- Pack data made absent, and with it the last van frame time (R26). -/
def BayRec.clearPack (r : BayRec) : BayRec := { r with pack := none, lastFrame := none }

/-- R111, R110: the dormancy timer is stopped and the dormancy period ended. -/
def BayRec.stopWake (r : BayRec) : BayRec := { r.endPeriod with dormTimer := none }

/-! ### Plug reactions -/

/-- R29, R30: the bay becomes Attached with its slots and pack data absent, and BayAttached is appended. -/
def State.attach (s : State) (b : BayNo) : State :=
  (s.updBay b (fun r => { r.clearSlots.clearPack with state := .attached })).append .bayAttached (some (.bay b)) .raised

/-- R19: the outcome of a bound order at a plug-out. -/
def State.plugOutOutcome (s : State) (b : BayNo) (o : Order) : CloseOutcome :=
  if o.state = .closing then .cancelled
  else if s.remaining b o = 0 then .departed else .short

/-- R31: the bay record a plug-out leaves of a bay that becomes Vacant. -/
def BayRec.vacate (r : BayRec) : BayRec :=
  { r.clearSlots.clearPack.clearBinding.stopWake with state := .vacant, step := none, admTimer := none }

/-- R31: a plug-out of a bay whose state holds a van and which is not Faulted. -/
def State.plugOut (s : State) (b : BayNo) : State :=
  let was := s.eligible b
  let t : State := match s.orderOf? b with
    | some o => s.closeOrder o.tag (s.plugOutOutcome b o)
    | none => s
  let u := (t.updBay b BayRec.vacate).append .bayUnplugged (some (.bay b)) .raised
  u.leaveEligibility was b

/-- R31: a plug-out of a Faulted bay, which stays Faulted; without an order it is reported only when the previous
status showed plug In. -/
def State.plugOutFaulted (s : State) (b : BayNo) (wasIn : Bool) : State :=
  match s.orderOf? b with
  | some o =>
    ((s.closeOrder o.tag (s.plugOutOutcome b o)).updBay b BayRec.clearBinding).append .bayUnplugged
      (some (.bay b)) .raised
  | none => if wasIn then s.append .bayUnplugged (some (.bay b)) .raised else s

/-- R29, R30, R31, R44: how the bay state reacts to the plug of a status. -/
def State.plugReaction (s : State) (b : BayNo) (plugIn wasIn : Bool) : State :=
  match (s.bay b).state, plugIn with
  | .off, false => s.updBay b (fun r => { r with state := .vacant })
  | .off, true | .vacant, true => s.attach b
  | .vacant, false => s
  | .attached, true | .admitting, true | .unmatched, true | .bound, true | .dormant, true | .waking, true
  | .faulted, true => s
  | .attached, false | .admitting, false | .unmatched, false | .bound, false | .dormant, false | .waking, false =>
    s.plugOut b
  | .faulted, false => s.plugOutFaulted b wasIn

/-- R27: the Bay unit takes a status: the post data, the counter of a bound bay, then the plug. -/
def State.bayTakesStatus (s : State) (b : BayNo) (st : PostStatus) : State :=
  let wasIn := (s.bay b).plugIn
  let t := s.updBay b (fun r =>
    { r with plugIn := st.plugIn, output := st.output, counter := st.counter, limit := st.limit })
  (t.takeCounter b st.counter).plugReaction b st.plugIn wasIn

/-! ### Van frames -/

/-- R28: the ranges of a van frame. -/
def frameValid : VanFrame → Bool
  | .identity key => 1 ≤ key && key ≤ 4294967295
  | .pack soc temp capacity =>
    soc ≤ 100 && decide (-40 ≤ temp) && decide (temp ≤ 85) && 100 ≤ capacity && capacity ≤ 2000
  | .lock _ => true

/-- R33: an Identity frame from an Attached bay starts an admission. -/
def State.startAdmission (s : State) (b : BayNo) (key : Nat) : State :=
  s.updBay b (fun r =>
    { r.clearSlots with
      state := .admitting
      identity := some key
      step := some .expectPack
      admTimer := some (s.inSeconds s.cfg.admTimeout) })

/-- R35: the admission completes at a locked Lock frame; R38 decides whether the bay is Bound or Unmatched. -/
def State.completeAdmission (s : State) (b : BayNo) : State :=
  let t := s.updBay b (fun r =>
    { r with
      lockSlot := true
      step := none
      admTimer := none
      pack := r.packSlot
      lastFrame := some s.elapsed })
  match (s.bay b).identity with
  | some key => t.bindingCheckAdmission b key
  | none => t

/-- R34: a van frame in Admitting, by the step the admission stands at. -/
def State.admittingFrame (s : State) (b : BayNo) (f : VanFrame) : State :=
  match (s.bay b).step, f with
  | some .expectIdentity, .identity key =>
    s.updBay b (fun r => { r with identity := some key, step := some .expectPack })
  | some .expectIdentity, .pack _ _ _ => s
  | some .expectIdentity, .lock _ => s
  | some .expectPack, .pack soc temp capacity =>
    s.updBay b (fun r => { r with packSlot := some ⟨soc, temp, capacity⟩, step := some .expectLock })
  | some .expectPack, .identity key =>
    s.updBay b (fun r => { r.clearSlots with identity := some key, step := some .expectPack })
  | some .expectPack, .lock _ => s.updBay b (fun r => { r.clearSlots with step := some .expectIdentity })
  | some .expectLock, .lock true => s.completeAdmission b
  | some .expectLock, .lock false => s
  | some .expectLock, .identity key =>
    s.updBay b (fun r => { r.clearSlots with identity := some key, step := some .expectPack })
  | some .expectLock, .pack soc temp capacity =>
    s.updBay b (fun r => { r with packSlot := some ⟨soc, temp, capacity⟩ })
  | none, _ => s

/-- A Pack frame replaces the pack data and sets the last van frame time (R37, R41). -/
def State.takePack (s : State) (b : BayNo) (p : PackData) : State :=
  s.updBay b (fun r => { r with pack := some p, lastFrame := some s.elapsed })

/-- R121: the WakeFailed flag of the bound order is cleared, with no event. -/
def State.clearWakeFailed (s : State) (b : BayNo) : State :=
  match (s.bay b).boundOrder with
  | some tag => s.updOrder tag (fun o => { o with wakeFailed := false })
  | none => s

/-- R41, R121: a frame that counts restarts the dormancy timer, sets the last van frame time and clears WakeFailed. -/
def State.countFrame (s : State) (b : BayNo) : State :=
  (s.updBay b (fun r =>
    { r with dormTimer := some (s.inSeconds s.cfg.dormancyTime), lastFrame := some s.elapsed })).clearWakeFailed b

/-- R41: an Identity frame with a key other than the admitted one raises IdentityConflict once in the binding. -/
def State.identityConflict (s : State) (b : BayNo) : State :=
  if (s.bay b).conflict then s
  else (s.updBay b (fun r => { r with conflict := true })).append .identityConflict (some (.bay b)) .raised

/-- R41: whether a frame counts for dormancy: every frame but an Identity with another key. -/
def countsForDormancy (admitted : Option Nat) : VanFrame → Bool
  | .identity key => admitted == some key
  | .pack _ _ _ | .lock _ => true

/-- R41: a van frame in Bound. -/
def State.boundFrame (s : State) (b : BayNo) (f : VanFrame) : State :=
  if countsForDormancy (s.bay b).identity f then
    match f with
    | .pack soc temp capacity => (s.countFrame b).takePack b ⟨soc, temp, capacity⟩
    | .identity _ | .lock _ => s.countFrame b
  else s.identityConflict b

/-- R113, R119: the bay returns to Bound and its dormancy period ends, with BayDormant Cleared; the wake try count and
WakeFailed are cleared. -/
def State.returnToBound (s : State) (b : BayNo) : State :=
  let t := s.updBay b (fun r =>
    { r.endPeriod with state := .bound, dormTimer := some (s.inSeconds s.cfg.dormancyTime), tryCount := 0 })
  ((t.clearWakeFailed b).withdrawWake b).append .bayDormant (some (.bay b)) .cleared

/-- R113: a van frame in Dormant. -/
def State.dormantFrame (s : State) (b : BayNo) (f : VanFrame) : State :=
  if countsForDormancy (s.bay b).identity f then (s.returnToBound b).boundFrame b f
  else s.identityConflict b

/-- R119: a van frame in Waking: a Pack frame ends the try in success; an Identity with the admitted key or a Lock has
no effect. -/
def State.wakingFrame (s : State) (b : BayNo) (f : VanFrame) : State :=
  match f with
  | .pack _ _ _ => (s.returnToBound b).boundFrame b f
  | .identity key => if (s.bay b).identity = some key then s else s.identityConflict b
  | .lock _ => s

/-- R27, R28: a relayed van frame is checked against its ranges and taken by the bay in the state it stands in. -/
def State.takeFrame (s : State) (b : BayNo) (f : VanFrame) : State :=
  if frameValid f then
    match (s.bay b).state, f with
    | .attached, .identity key => s.startAdmission b key
    | .attached, .pack _ _ _ | .attached, .lock _ => s
    | .admitting, f => s.admittingFrame b f
    | .unmatched, .pack soc temp capacity =>
      if (s.bay b).identity.isSome then s.takePack b ⟨soc, temp, capacity⟩ else s
    | .unmatched, .identity _ | .unmatched, .lock _ => s
    | .bound, f => s.boundFrame b f
    | .dormant, f => s.dormantFrame b f
    | .waking, f => s.wakingFrame b f
    | .off, _ | .vacant, _ | .faulted, _ => s
  else s

/-! ### Timers of a bay -/

/-- R36: the admission of an Admitting bay has failed. -/
def State.admissionTimeout (s : State) (b : BayNo) : State :=
  (s.updBay b (fun r => { r.clearSlots with state := .unmatched, step := none, admTimer := none })).append
    .admitTimeout (some (.bay b)) .raised

/-- R112: a Bound bay becomes Dormant. -/
def State.becomeDormant (s : State) (b : BayNo) : State :=
  let was := s.eligible b
  let t := s.updBay b (fun r =>
    { r with state := .dormant, dormTimer := none, dormantSince := some s.elapsed, retryAt := none, barred := false })
  (t.append .bayDormant (some (.bay b)) .raised).leaveEligibility was b

/-- R120: a failed wake try of a bay that is Dormant is counted by the order's state and the count before. -/
def State.wakeTryFailed (s : State) (b : BayNo) : State :=
  match s.orderOf? b with
  | none => s
  | some o =>
    if o.state = .closing then s
    else match (s.bay b).tryCount with
      | 0 => s.updBay b (fun r => { r with tryCount := 1, retryAt := some (s.elapsed + Config.wakeRetry) })
      | 1 =>
        ((s.updBay b (fun r => { r with tryCount := 2 })).updOrder o.tag (fun o => { o with wakeFailed := true })).append
          .wakeFailed (some (.order o.tag)) .raised
      | _ => s

/-- R120: the wake window of a Waking bay runs out. -/
def State.wakeWindowOver (s : State) (b : BayNo) : State :=
  (s.updBay b (fun r => { r with state := .dormant, wakeWindow := none })).wakeTryFailed b

/-! ### Faults -/

/-- R43: the bay record a fault report leaves. -/
def BayRec.toFaulted (r : BayRec) : BayRec :=
  { r.stopWake with state := .faulted, step := none, admTimer := none, wakePending := false }

/-- R43: the fault report: not taken by an Off bay, and nothing new for a Faulted one. A Closing order is closed
Cancelled and the binding cleared; the Feeder unit is told of the bay that became Faulted (R76). R76 puts HoldReached after
BayFaulted and no rule places it against the closure's OrderClosed: that the check comes last is the model's choice
(entry 44). -/
def State.faultReport (s : State) (b : BayNo) : State :=
  if (s.bay b).state = .off ∨ (s.bay b).state = .faulted then s
  else
    let was := s.eligible b
    let t := s.updBay b BayRec.toFaulted
    let u : State := match t.orderOf? b with
      | some o => if o.state = .closing then (t.closeOrder o.tag .cancelled).updBay b BayRec.clearBinding else t
      | none => t
    (u.leaveEligibility was b).heldCheck

/-- R130: the fault limit: BayFaulted, the pending exchanges dropped, the report to the Bay unit. -/
def State.faultLimit (s : State) (b : BayNo) : State :=
  let t := s.append .bayFaulted (some (.bay b)) .raised
  let u := t.updLineBay b (fun l => { l with pGrant := none, pWake := none, pUnlock := none, keepDue := none })
  u.faultReport b

/-! ### ClearBay -/

/-- R45 step 5, R26: the record takes its reset values, except the override record and the release-anytime flag. -/
def BayRec.cleared (r : BayRec) : BayRec := { BayRec.reset with ovr := r.ovr }

/-- R144: the Line controller's part of a ClearBay. An exchange of the bay on the line is abandoned: the line stays
with it, and its outcome is discarded. -/
def State.clearLine (s : State) (b : BayNo) : State :=
  let before := s.exposure b
  let t := s.updLineBay b (fun _ => LineBay.reset)
  let u : State := match t.line.carrying with
    | some c =>
      if c.bay = b then { t with line := { t.line with carrying := some { c with abandoned := true } } } else t
    | none => t
  u.noteExposure b before

/-- R45 step 3: what a ClearBay does to the order that was bound to the bay, which is Off by now. -/
def State.clearBayOrder (s : State) (b : BayNo) : State :=
  match s.orderOf? b with
  | none => s
  | some o =>
    if o.state = .closing then s.closeOrder o.tag .cancelled
    else (s.unbindOrder o.tag).bindingCheckOrder o.tag

/-- R45: a ClearBay of a bay, in the order of its steps. -/
def State.clearBay (s : State) (b : BayNo) : State :=
  let was := s.eligible b
  let s1 := s.updBay b (fun r => { r.stopWake with state := .off, step := none, admTimer := none })
  let s2 := s1.clearLine b
  let s3 := s2.clearBayOrder b
  let s4 := s3.leaveEligibility was b
  s4.updBay b BayRec.cleared

end Sys2Proof.Machine
end

