-- ==== Sys2Proof/Machine/Line.lean ====
section
/-! DEFINITION. The Line controller: sending exchanges, the service order (R134 to R140), and what the final outcomes of
exchanges, a Defer and the end of an answer window do (R128 to R131, R143), with the taking of a post status (R141,
R142). -/

namespace Sys2Proof.Machine

/-! ### Sending -/

/-- The line carries an exchange of a bay, with a fresh answer window (R126, R127). -/
def State.carry (s : State) (b : BayNo) (x : Exchange) (repeated : Bool) : State :=
  { s with line := { s.line with carrying := some ⟨b, x, s.elapsed + Config.answerWindow, repeated, false⟩ } }

/-- The moment of a sending: it is the exchange's last sending, and each sending of a Grant sets keep-alive due 8 s on
(R131, R138). -/
def LineBay.sent (l : LineBay) (x : Exchange) (now : Nat) : LineBay :=
  match x with
  | .grant _ => { l with keepDue := some (now + Config.keepAliveInterval) }
  | .poll | .wake _ _ | .unlock _ => l

/-- An exchange is started: it becomes open and goes onto the line (R126). The increase flag is set by a Grant started
above the held grant and cleared by any other (R137). -/
def State.start (s : State) (b : BayNo) (x : Exchange) : State :=
  let before := s.exposure b
  let t := s.updLineBay b (fun l =>
    { l.sent x s.elapsed with
      opn := some ⟨x, none, 0, s.elapsed⟩
      increase := match x with
        | .grant v => decide (l.held < v)
        | .poll | .wake _ _ | .unlock _ => l.increase })
  (t.carry b x false).noteExposure b before

/-- A deferred exchange is sent again, with the same content (R129). -/
def State.resend (s : State) (b : BayNo) (o : OpenX) : State :=
  (s.updLineBay b (fun l => { l.sent o.what s.elapsed with
    opn := some { o with retryDue := none, sentAt := s.elapsed } })).carry b o.what false

/-- The repeat of a sending that got no valid answer (R128). -/
def State.repeatSending (s : State) (b : BayNo) (x : Exchange) : State :=
  (s.updLineBay b (fun l => { l.sent x s.elapsed with
    opn := l.opn.map (fun o => { o with sentAt := s.elapsed }) })).carry b x true

/-! ### The service order -/

/-- R134: a pending exchange of a bay with an open exchange is passed over. -/
def LineBay.free (l : LineBay) : Bool := l.opn.isNone

/-- Whether a deferred exchange's retry is due (R129). -/
def State.retryIsDue (s : State) (b : BayNo) : Bool :=
  match (s.lineBay b).opn with
  | some ⟨_, some due, _, _⟩ => due ≤ s.elapsed
  | _ => false

/-- The retry due time of a deferred exchange. -/
def State.retryKey (s : State) (b : BayNo) : Nat :=
  match (s.lineBay b).opn with
  | some o => o.retryDue.getD 0
  | none => 0

/-- Class 1: the due retry with the earliest due time (R129, R134; the lower bay number on a tie, entry 15). -/
def State.serveRetry (s : State) : State :=
  match minBy s.retryKey (allBays.filter s.retryIsDue) with
  | some b =>
    match (s.lineBay b).opn with
    | some o => s.resend b o
    | none => s
  | none => s

/-- A Grant taken from the pending Grant of a bay is started. -/
def State.startPending (s : State) (b : BayNo) (v : Nat) : State :=
  (s.updLineBay b (fun l => { l with pGrant := none })).start b (.grant v)

/-- R135: whether the pending Grant of a bay is a decrease that may be started. -/
def State.decreaseReady (s : State) (b : BayNo) : Bool :=
  match (s.lineBay b).pGrant with
  | some p => (s.lineBay b).free && decide (p.value < (s.lineBay b).held)
  | none => false

/-- The age of the pending Grant of a bay. -/
def State.grantAge (s : State) (b : BayNo) : Nat :=
  match (s.lineBay b).pGrant with
  | some p => p.age
  | none => 0

/-- Class 2: the oldest pending decrease (R135). -/
def State.serveDecrease (s : State) : State :=
  match minBy s.grantAge (allBays.filter s.decreaseReady) with
  | some b =>
    match (s.lineBay b).pGrant with
    | some p => s.startPending b p.value
    | none => s
  | none => s

/-- A pending Wake or Unlock of class 3, with its age. -/
structure ServiceItem where
  bay : BayNo
  wake : Bool
  age : Nat
  deriving DecidableEq, Repr

/-- The pending Wakes and Unlocks of the bays without an open exchange, oldest first (R134, R136). -/
def State.serviceItems (s : State) : List ServiceItem :=
  let free := allBays.filter (fun b => (s.lineBay b).free)
  let wakes := free.filterMap (fun b => (s.lineBay b).pWake.map (fun w => ⟨b, true, w.age⟩))
  let unlocks := free.filterMap (fun b => (s.lineBay b).pUnlock.map (fun a => ⟨b, false, a⟩))
  sortBy (fun x y => decide (x.age < y.age)) (wakes ++ unlocks)

/-- R116: the start check of a pending Wake. -/
def State.wakeMayStart (s : State) (b : BayNo) : Bool :=
  (s.bay b).state == .dormant && !s.feeder.stop && s.feeder.hold == .running &&
    match s.liveOrder? b with
    | some o => o.wakePermitted
    | none => false

/-- R136: the start test of a pending Unlock. -/
def State.unlockMayStart (s : State) (b : BayNo) : Bool :=
  (s.lineBay b).held == 0 && !(s.lineBay b).grantOpen &&
    !((s.lineBay b).pGrant.any (fun p => decide (p.value < (s.lineBay b).held))) &&
    !s.feeder.stop && (s.bay b).state != .faulted

/-- R136: one pending exchange of class 3: a Wake is started or withdrawn, an Unlock is started or passed over. -/
def State.serveItem (s : State) (i : ServiceItem) : State :=
  if s.line.carrying.isSome then s
  else if i.wake then
    match (s.lineBay i.bay).pWake with
    | some w =>
      if s.wakeMayStart i.bay then
        (s.updLineBay i.bay (fun l => { l with pWake := none })).start i.bay (.wake w.pulse w.period)
      else s.withdrawWake i.bay
    | none => s
  else
    match (s.lineBay i.bay).pUnlock with
    | some age =>
      if s.unlockMayStart i.bay then
        (s.updLineBay i.bay (fun l => { l with pUnlock := none })).start i.bay (.unlock age)
      else s
    | none => s

/-- Class 3: pending Wakes and Unlocks, oldest first, the two kinds together (R136). -/
def State.serveItems (s : State) : State := s.serviceItems.foldl State.serveItem s

/-- R137: whether the pending Grant of a bay is an increase that passes the guard. -/
def State.increaseReady (s : State) (b : BayNo) : Bool :=
  match (s.lineBay b).pGrant with
  | some p =>
    (s.lineBay b).free && decide ((s.lineBay b).held < p.value) &&
      decide (s.exposureSum - s.exposure b + p.value ≤ s.feeder.effective)
  | none => false

/-- R137: the order in which increases are tried: the stored ranking, then the other bays by number. -/
def State.increaseOrder (s : State) : List BayNo :=
  s.alloc.ranking ++ allBays.filter (fun b => !s.alloc.ranking.contains b)

/-- Class 4: the first increase that passes the guard (R137). -/
def State.serveIncrease (s : State) : State :=
  match s.increaseOrder.find? s.increaseReady with
  | some b =>
    match (s.lineBay b).pGrant with
    | some p => s.startPending b p.value
    | none => s
  | none => s

/-- R138: whether a keep-alive is due for a bay. A pending Grant that is an increase does not bar it. -/
def State.keepAliveReady (s : State) (b : BayNo) : Bool :=
  let l := s.lineBay b
  decide (0 < l.held) && l.free && s.onLineService b &&
    (match l.keepDue with
      | some due => decide (due ≤ s.elapsed)
      | none => false) &&
    (match l.pGrant with
      | some p => decide (l.held < p.value)
      | none => true)

/-- Class 5: the keep-alive that fell due first (R138; the lower bay number on a tie, entry 15). -/
def State.serveKeepAlive (s : State) : State :=
  match minBy (fun b => ((s.lineBay b).keepDue).getD 0) (allBays.filter s.keepAliveReady) with
  | some b => s.start b (.grant (s.lineBay b).held)
  | none => s

/-- R140: whether a bay is one to be probed now. -/
def State.probeable (s : State) (b : BayNo) : Bool :=
  (s.lineBay b).free &&
    (((s.bay b).state == .off && s.enabled b) || (s.bay b).state == .faulted)

/-- R139: whether a bay is one to be polled now. -/
def State.pollable (s : State) (b : BayNo) : Bool := (s.lineBay b).free && s.onLineService b

/-- R140: the probe spacing has run out, or no probe has been sent. -/
def State.spacingOver (s : State) : Bool :=
  match s.line.lastProbe with
  | none => true
  | some t => decide (t + Config.probeSpacing ≤ s.elapsed)

/-- R140: the owed probe is sent, if the spacing allows. -/
def State.serveProbe (s : State) : State :=
  if s.line.probeOwed && s.spacingOver then
    match (baysFrom s.line.probePos).find? s.probeable with
    | some b =>
      let t := { s with
        line := { s.line with probePos := bayAfter b, probeOwed := false, lastProbe := some s.elapsed } }
      t.start b .poll
    | none => s
  else s

/-- R139: the next poll is sent. A pass completes when the poll position wraps, and a probe is then owed; with no bay to
be polled the pass is empty and complete at once (entry 19), and the probe it makes owed is tried. -/
def State.servePoll (s : State) : State :=
  match (baysFrom s.line.pollPos).find? s.pollable with
  | some b =>
    let wraps := decide (b < s.line.pollPos) || b == 23
    let t := { s with
      line := { s.line with pollPos := bayAfter b, probeOwed := s.line.probeOwed || wraps } }
    t.start b .poll
  | none => State.serveProbe { s with line := { s.line with probeOwed := true } }

/-- One class of the service order: it is tried only while the line is free (R134). -/
def State.ifFree (s : State) (serve : State → State) : State :=
  if s.line.carrying.isSome then s else serve s

/-- R134: the Line controller selects one exchange and sends it: the first class that holds one that may be started. -/
def State.select (s : State) : State :=
  ((((((s.ifFree State.serveRetry).ifFree State.serveDecrease).ifFree State.serveItems).ifFree
    State.serveIncrease).ifFree State.serveKeepAlive).ifFree State.serveProbe).ifFree State.servePoll

/-- R126: a selection is made within an event that leaves the line Idle with something due. -/
def State.settle (s : State) : State := s.ifFree State.select

/-! ### Final outcomes -/

/-- The line becomes Idle. -/
def State.freeLine (s : State) : State := { s with line := { s.line with carrying := none } }

/-- R130: the counts are advanced for a bay in any state but Off and Faulted. -/
def LineBay.count (l : LineBay) (o : PostOutcome) : LineBay :=
  match o with
  | .accept => { l with silent := 0, refuse := 0 }
  | .refuse => { l with silent := 0, refuse := l.refuse + 1 }
  | .silent => { l with silent := l.silent + 1, refuse := 0 }

def State.count (s : State) (b : BayNo) (o : PostOutcome) : State :=
  if s.onLineService b then s.updLineBay b (fun l => l.count o) else s

/-- R130: a count has reached the fault limit, for a bay that counts. -/
def State.atFaultLimit (s : State) (b : BayNo) : Bool :=
  s.onLineService b &&
    (decide (Config.faultLimit ≤ (s.lineBay b).silent) || decide (Config.faultLimit ≤ (s.lineBay b).refuse))

/-- An exchange has reached its final outcome: it is no longer open, and the line is free (R126). Only an open Grant
is seen by the steps before it, in its bay's exposure (R132): for the other kinds it makes no difference when it ends. -/
def State.endExchange (s : State) (b : BayNo) : State :=
  (s.updLineBay b (fun l => { l with opn := none })).freeLine

/-- R131 step 3: keep-alive due after a final outcome of a Grant. -/
def LineBay.afterGrant (l : LineBay) (sentAt : Nat) : LineBay :=
  { l with keepDue := if 0 < l.held then some (sentAt + Config.keepAliveInterval) else none }

/-- R131 step 2: the Grant is no longer open. `before` is the exposure its outcome found, of whose fall the notices of
R132 are given. -/
def State.endGrant (s : State) (b : BayNo) (before : Nat) : State :=
  ((s.updLineBay b (fun l => { l with increase := false })).endExchange b).noteExposure b before

/-- R131: the final outcome of a Grant of a value, last sent at a moment. The held grant and the counts come first, and
with them the fault that the counts reach, while the Grant still counts as open (R130, R132); then it ends. A faulting
outcome is taken for the fault alone, but for the report of a refused increase (R130; entry 17). -/
def State.finishGrant (s : State) (b : BayNo) (v sentAt : Nat) (o : PostOutcome) : State :=
  let before := s.exposure b
  let refusedUp := (s.lineBay b).increase && o == .refuse
  let s1 := (s.updLineBay b (fun l => { l with held := if o = .accept then v else l.held })).count b o
  let s2 := (if s1.atFaultLimit b then s1.faultLimit b else s1).endGrant b before
  let s3 := if refusedUp then s2.refusedIncrease b else s2
  if s1.atFaultLimit b then s3
  else ((s3.updLineBay b (fun l => l.afterGrant sentAt)).decreaseDone b).reconcile b

/-- R117: a Wake has been accepted. -/
def State.wakeAccepted (s : State) (b : BayNo) (period : Nat) : State :=
  let t := s.updBay b (fun r => { r with wakePending := false })
  if (s.bay b).state = .dormant ∧ (s.bay b).dormantSince = some period then
    t.updBay b (fun r => { r with state := .waking, wakeWindow := some (s.elapsed + Config.wakeWindow) })
  else t

/-- R118: a Wake has ended in Refuse or Silent without faulting its bay. -/
def State.wakeNotAccepted (s : State) (b : BayNo) (period : Nat) : State :=
  let t := s.updBay b (fun r => { r with wakePending := false })
  if (s.bay b).state = .dormant ∧ (s.bay b).dormantSince = some period then t.wakeTryFailed b else t

/-- R143: the final outcome of a Wake, after the counts of R130. -/
def State.finishWake (s : State) (b : BayNo) (period : Nat) (o : PostOutcome) : State :=
  let t := (s.endExchange b).count b o
  if t.atFaultLimit b then (t.updBay b (fun r => { r with wakePending := false })).faultLimit b
  else match o with
    | .accept => t.wakeAccepted b period
    | .refuse | .silent => t.wakeNotAccepted b period

/-- R143: the final outcome of an Unlock: accepted, it is dropped; otherwise it is pending again with its original age. -/
def State.finishUnlock (s : State) (b : BayNo) (age : Nat) (o : PostOutcome) : State :=
  let t := (s.endExchange b).count b o
  let u := if o = .accept then t else t.updLineBay b (fun l => { l with pUnlock := some age })
  if u.atFaultLimit b then u.faultLimit b else u

/-- R139: a Poll that ends in Refuse (a sixth Defer) or Silent: it counts toward the fault limit and has no other
effect. -/
def State.finishPoll (s : State) (b : BayNo) (o : PostOutcome) : State :=
  let t := (s.endExchange b).count b o
  if t.atFaultLimit b then t.faultLimit b else t

/-- The final outcome of the open exchange of a bay, by its kind. -/
def State.finish (s : State) (b : BayNo) (o : PostOutcome) : State :=
  match (s.lineBay b).opn with
  | some ⟨.poll, _, _, _⟩ => s.finishPoll b o
  | some ⟨.grant v, _, _, sentAt⟩ => s.finishGrant b v sentAt o
  | some ⟨.wake _ period, _, _, _⟩ => s.finishWake b period o
  | some ⟨.unlock age, _, _, _⟩ => s.finishUnlock b age o
  | none => s.freeLine

/-- R128, R144: the answer window of what the line carries runs out: an abandoned exchange leaves the line, a first
silence is repeated at once, a second is the final outcome Silent. -/
def State.windowOver (s : State) : State :=
  match s.line.carrying with
  | none => s
  | some c =>
    if c.abandoned then s.freeLine
    else if c.repeated then s.finish c.bay .silent
    else s.repeatSending c.bay c.what

/-- The window of what the line carries, run to its end. -/
def State.runWindow (s : State) : State :=
  match s.line.carrying with
  | none => s
  | some c => (s.runTo c.windowDue).windowOver

/-- R127: whether the line carries an exchange of a bay that a predicate accepts. -/
def State.carries (s : State) (b : BayNo) (kind : Exchange → Bool) : Bool :=
  match s.line.carrying with
  | some c => c.bay == b && kind c.what
  | none => false

/-- R127: an answer arrives within the window of what the line carries. -/
def State.inWindow (s : State) : Bool :=
  match s.line.carrying with
  | some c => decide (s.elapsed ≤ c.windowDue)
  | none => false

/-- Whether what the line carries has been abandoned by a ClearBay (R144). -/
def State.carriesAbandoned (s : State) : Bool :=
  match s.line.carrying with
  | some c => c.abandoned
  | none => false

/-- The silences that remain until the exchange on the line is final: the repeat's too, if the first sending is still
on the line (R128; entry 26); an abandoned exchange leaves the line at the end of its window (R144). -/
def State.silence (s : State) : State :=
  match s.line.carrying with
  | some c => if c.repeated || c.abandoned then s.runWindow else s.runWindow.runWindow
  | none => s

/-- R127, R144: an answer to what the line carries: discarded after its window; the answer to an abandoned exchange only
frees the line; any other is taken. -/
def State.answer (s : State) (take : State → State) : State :=
  if s.inWindow then (if s.carriesAbandoned then s.freeLine else take s) else s

/-- A final outcome for an exchange of a kind (R127): discarded when the line carries none such for the bay. Silent is no
answer: the windows that remain run out. -/
def State.takeOutcome (s : State) (b : BayNo) (kind : Exchange → Bool) (o : PostOutcome) : State :=
  if s.carries b kind then
    match o with
    | .silent => s.silence
    | .accept | .refuse => s.answer (fun t => t.finish b o)
  else s

/-- R129: a Defer: the exchange leaves the line, deferred, with a retry 250 ms on; the sixth ends it as Refuse. It clears
the Silent count of a bay that counts (entry 18). -/
def State.defer (s : State) (b : BayNo) (o : OpenX) : State :=
  if Config.maxDefers ≤ o.defers then s.finish b .refuse
  else
    let t := s.updLineBay b (fun l =>
      { l with
        opn := some { o with defers := o.defers + 1, retryDue := some (s.elapsed + Config.deferInterval) }
        silent := if s.onLineService b then 0 else l.silent })
    t.freeLine

/-- R129: a Defer for the open exchange of a bay. -/
def State.deferOpen (s : State) (b : BayNo) : State :=
  match (s.lineBay b).opn with
  | some o => s.defer b o
  | none => s.freeLine

/-- R129, R144: a Defer answers what the line carries for a bay. -/
def State.takeDefer (s : State) (b : BayNo) : State :=
  if s.carries b (fun _ => true) then s.answer (fun t => t.deferOpen b) else s

/-! ### Post status -/

/-- R141, R142: the Line controller's part of a status. At an output above the held grant the bay is reconciled before
the notices of R132, whose trim may make the decreases of other bays, so that its own pending Grant is the older: the
model's choice (entry 36). At an output of 0 from a Faulted bay the decrease-done test of R21 comes here, before the Bay
unit takes the counter: a Closing order it closes is delivered no more of that status's energy (R17), as R141 and R142
are read (entry 41). -/
def State.lineTakesStatus (s : State) (b : BayNo) (st : PostStatus) : State :=
  let before := s.exposure b
  let l := s.lineBay b
  if st.plugIn = false then
    let t := s.updLineBay b (fun l =>
      { l with held := 0, pGrant := none, pWake := none, pUnlock := none, keepDue := none })
    (t.updBay b (fun r => { r with wakePending := false })).noteExposure b before
  else if l.held < st.output then
    let t := s.updLineBay b (fun l =>
      { l with
        held := st.output
        keepDue := some (l.keepDue.getD (s.elapsed + Config.keepAliveInterval)) })
    (t.reconcile b).noteExposure b before
  else if (s.bay b).state = .faulted ∧ st.output = 0 ∧ 0 < l.held then
    ((s.updLineBay b (fun l => { l with held := 0 })).noteExposure b before).decreaseDone b
  else s

/-- R141, R27: a valid status from a poll or a probe is taken by the Line controller, then by the Bay unit, then its van
frame; a bay that left Off is reconciled. An Off bay disabled after its probe was sent leaves Off at the answer all the
same: R29 also says that it stays Off, so this is the model's choice (entry 35). -/
def State.takeStatus (s : State) (b : BayNo) (st : PostStatus) : State :=
  let wasOff := (s.bay b).state == .off
  let s1 := (s.endExchange b).count b .accept
  let s2 := (s1.lineTakesStatus b st).bayTakesStatus b st
  let s3 := match st.plugIn, st.frame with
    | true, some f => s2.takeFrame b f
    | _, _ => s2
  if wasOff then s3.reconcile b else s3

/-- R127, R144: a post status answers what the line carries for a bay: discarded when it is not valid or when the line
carries no Poll of the bay. -/
def State.takePostStatus (s : State) (b : BayNo) (st : PostStatus) : State :=
  if statusValid st && s.carries b (fun x => x == .poll) then s.answer (fun t => t.takeStatus b st) else s

end Sys2Proof.Machine
end

