-- ==== Sys2Proof/Machine/Inputs.lean ====
section
/-! DEFINITION. The Input unit: entry into force and leaving of force (R163), the Stop and Derate conditions handed to
the Feeder unit (R164), the filter (R162), the latch (R165), a written configuration (R166); and the meanings of
LINE_CHANGE and FILTER_TIMER_EXPIRY. -/

namespace Sys2Proof.Machine

/-- R164: the Stop condition is handed to the Feeder unit if it has changed (R74). -/
def State.handStop (s : State) : State :=
  if s.roleInForce .stop = s.feeder.stop then s
  else State.recomputeCeiling { s with feeder := { s.feeder with stop := s.roleInForce .stop } }

/-- R164: the Derate condition is handed to the Feeder unit if it has changed (R74). -/
def State.handDerate (s : State) : State :=
  if s.roleInForce .derate = s.feeder.derate then s
  else State.recomputeCeiling { s with feeder := { s.feeder with derate := s.roleInForce .derate } }

/-- R163: the event of an input of a role that enters or leaves force. -/
def State.roleEvent (s : State) (role : InputRole) (y : InputNo) (edge : Edge) : State :=
  match role with
  | .event => s.append .inputEdge (some (.input y)) edge
  | .stop => s.append .stopActive (some (.input y)) edge
  | .derate => s

/-- R163: the condition that a role bears on is recomputed. -/
def State.handRole (s : State) : InputRole → State
  | .event => s
  | .stop => s.handStop
  | .derate => s.handDerate

/-- R163, R164: what the role of an input does at its entry into force or its leaving of force: first the event, then
the condition. -/
def State.actRole (s : State) (y : InputNo) (edge : Edge) : State :=
  (s.roleEvent (s.inputCfg y).role y edge).handRole (s.inputCfg y).role

/-- R163: the filtered state of an input takes a value. -/
def State.setFiltered (s : State) (y : InputNo) (active : Bool) : State :=
  let i := s.input y
  let t := s.updInput y (fun i => { i with active := active })
  if i.latched || i.active == active then t
  else if active then
    (t.updInput y (fun i => { i with latched := (s.inputCfg y).latch })).actRole y .raised
  else t.actRole y .cleared

/-- R162: the level of a line changes. -/
def State.lineLevel (s : State) (y : InputNo) (high : Bool) : State :=
  if (s.input y).levelHigh = high then s
  else
    let new := activeFor high (s.inputCfg y).activeHigh
    let t := s.updInput y (fun i => { i with levelHigh := high, pending := none })
    if new = (s.input y).active then t
    else if (s.inputCfg y).filter = .ms0 then t.setFiltered y new
    else t.updInput y (fun i => { i with pending := some ⟨new, s.elapsed + (s.inputCfg y).filter.ms⟩ })

/-- R162: a filter timer runs out. -/
def State.filterOver (s : State) (y : InputNo) (p : PendingChange) : State :=
  (s.updInput y (fun i => { i with pending := none })).setFiltered y p.active

/-- R165: a ClearLatch clears the latch of an Inactive input, which leaves force. -/
def State.clearInputLatch (s : State) (y : InputNo) : State :=
  if (s.input y).latched then (s.updInput y (fun i => { i with latched := false })).actRole y .cleared else s

/-! ### A written configuration (R166), its parts in the order of the table -/

/-- R166: the filter time. -/
def State.cfgFilter (s : State) (y : InputNo) (f : FilterTime) : State :=
  s.withInputCfg y { s.inputCfg y with filter := f }

/-- R166: the active level: the pending change is dropped and the filtered state taken afresh. -/
def State.cfgActive (s : State) (y : InputNo) (high : Bool) : State :=
  if (s.inputCfg y).activeHigh = high then s
  else
    let t := s.withInputCfg y { s.inputCfg y with activeHigh := high }
    (t.updInput y (fun i => { i with pending := none })).setFiltered y (activeFor (s.input y).levelHigh high)

/-- R166: the latch setting. -/
def State.cfgLatch (s : State) (y : InputNo) (latch : Bool) : State :=
  if (s.inputCfg y).latch = latch then s
  else
    let t := s.withInputCfg y { s.inputCfg y with latch := latch }
    if latch then t.updInput y (fun i => { i with latched := i.latched || i.active })
    else
      let u := t.updInput y (fun i => { i with latched := false })
      if (s.input y).latched && !(s.input y).active then u.actRole y .cleared else u

/-- R166: the role: an input in force leaves force under its old role, and an Active one enters it under the new. -/
def State.cfgRole (s : State) (y : InputNo) (role : InputRole) : State :=
  let old := (s.inputCfg y).role
  if old = role then s
  else
    let left := if (s.input y).inForce then s.roleEvent old y .cleared else s
    let t := (left.withInputCfg y { s.inputCfg y with role := role }).updInput y (fun i => { i with latched := false })
    let u := t.handRole old
    if (s.input y).active then
      (u.updInput y (fun i => { i with latched := (s.inputCfg y).latch })).actRole y .raised
    else u

/-- R166: a WriteSetting of an input configuration. -/
def State.reconfigure (s : State) (y : InputNo) (c : InputCfg) : State :=
  (((s.cfgFilter y c.filter).cfgActive y c.activeHigh).cfgLatch y c.latch).cfgRole y c.role

/-! ### Meanings -/

/-- LINE_CHANGE (R162): a level the line already has is no change. -/
def execLineChange (y : InputNo) (high : Bool) (s : State) : Host.Outcome State Fault Refusal :=
  .next (s.lineLevel y high).settle

/-- FILTER_TIMER_EXPIRY (R162): the filter timer of an input runs out; without one the command does nothing
(entry 2). -/
def execFilterTimerExpiry (y : InputNo) (s : State) : Host.Outcome State Fault Refusal :=
  match (s.input y).pending with
  | some p => .next ((s.runTo p.due).filterOver y p).settle
  | none => .next s

end Sys2Proof.Machine
end

