-- ==== Sys2Proof/Machine/Store.lean ====
section
/-! DEFINITION. The Settings store and the reset: what a written setting does at the request (R108, R166, R180), the
commit (R181, R182), the image check (R183) and the reset with its start-up (R184); and the meanings of COMMIT_END and
RESET. -/

namespace Sys2Proof.Machine

/-! ### Written settings -/

/-- R108: a raised post minimum takes every smaller nonzero target to 0, in ascending bay number. -/
def State.raisePostMin (s : State) : State :=
  allBays.foldl (fun t b => if 0 < t.target b ∧ t.target b < t.cfg.postMin then t.setTarget b 0 else t) s

/-- R108: a lowered post rating cuts the bay's stored cap and its target. -/
def State.lowerRating (s : State) (b : BayNo) (rating : Nat) : State :=
  let t := if rating < s.cap b then s.withCap b rating else s
  if rating < t.target b then t.setTarget b (if t.cfg.postMin ≤ rating then rating else 0) else t

/-- R180: a value that has passed its checks is put in the working copy and acts as the rule that owns it gives. -/
def State.applySetting (s : State) (id : SettingId) (v : SettingValue) : State :=
  let t := s.withWorking (s.cfg.write id v)
  match id, v with
  | .input y, .input c => s.reconfigure y c
  | .postMin, .num n => if s.cfg.postMin < n then t.raisePostMin else t
  | .rating b, .num n => if n < s.rating b then t.lowerRating b n else t
  | .safeCeiling, _ | .derateCeiling, _ => t.recomputeCeiling
  | _, _ => t

/-! ### Commit -/

/-- R181: a commit begins with the working copy as it stands. -/
def State.beginCommit (s : State) : State :=
  { s with store := { s.store with commit := some ⟨s.cfg, s.elapsed + Config.commitTime⟩ } }

/-- R181: the image a whole writing of a content leaves: format number 1 and a fresh check. -/
def wholeImage (content : Settings) : Image := ⟨content, 1, Config.imageCheck content 1⟩

/-- R182: an image whose check does not match it. Which check bits it holds is a free value (entry 9). -/
def badImage (content : Settings) (format : Nat) (bits : BitVec 16) : Image :=
  ⟨content, format, if bits = Config.imageCheck content format then ~~~bits else bits⟩

/-- R182: a commit in flight ends with its read-back good or not; a bad one leaves a bad image, whose check bits are a
free value. -/
def State.commitOver (s : State) (c : Commit) (good : Bool) : State :=
  State.append
    { s with
      freeCount := if good then s.freeCount else s.freeCount + 1
      store := { s.store with
        image := if good then wholeImage c.content else badImage c.content 1 (Config.brokenCheck s.freeCount)
        commit := none } }
    (if good then .storeDone else .settingsLost) none .raised

/-! ### Start-up and reset -/

/-- R183: the image is good when its check matches its content and its format number is 1. -/
def Image.good (i : Image) : Bool := i.check == Config.imageCheck i.content i.format && i.format == 1

/-- R183: the working copy a start-up loads. -/
def Image.load (i : Image) : Settings := if i.good then i.content else Settings.factory

/-- R182: the image after a reset cuts a commit: the old one whole, the new one whole, or neither, which is bad. -/
def cutImage (i : Image) (c : Commit) (bits : BitVec 16) : CutImage → Image
  | .oldWhole => i
  | .newWhole => wholeImage c.content
  | .neither => badImage i.content i.format bits

/-- The image a reset leaves; a cut commit uses the free values of one count (R182, entries 7 and 9). -/
def State.imageAfterReset (s : State) : Image :=
  match s.store.commit with
  | some c => cutImage s.store.image c (Config.brokenCheck s.freeCount) (Config.cutCommit s.freeCount)
  | none => s.store.image

/-- R160: an input taken afresh from its line level, with no filter, latching when found Active with latch Yes. -/
def freshInput (levelHigh : Bool) (c : InputCfg) : InputState :=
  ⟨levelHigh, activeFor levelHigh c.activeHigh, none, activeFor levelHigh c.activeHigh && c.latch⟩

/-- R184, steps 1 to 4: every piece of state at its reset value, the working copy loaded from an image, the masks
given, the inputs taken afresh, the conditions handed over and the effective ceiling computed. -/
def State.resetTo (s : State) (image : Image) (freeCount : Nat) : State :=
  let w := image.load
  let base : State :=
    { pending := s.pending
      elapsed := 0
      freeCount := freeCount
      planner := ⟨.listening, w.maskPlanner, false⟩
      site := ⟨.listening, w.maskSite, false⟩
      service := ⟨.listening, w.maskService, false⟩
      roster := []
      waitingLine := []
      log := []
      bays := Vector.replicate 24 BayRec.reset
      feeder := Feeder.reset
      alloc := Alloc.reset
      line := LineCtl.reset
      events := ⟨[], false⟩
      inputs := Vector.ofFn (fun y => freshInput (s.input y).levelHigh w.inputs[y])
      store := ⟨image, w, none⟩ }
  let f := { Feeder.reset with stop := base.roleInForce .stop, derate := base.roleInForce .derate }
  { base with feeder := { f with effective := ceilingOf f w } }

/-- R184, steps 5 and 6: SettingsLost for a bad image, and the attention lines. -/
def State.endStartUp (s : State) (image : Image) : State :=
  State.refreshAttention (if image.good then s else s.append .settingsLost none .raised)

/-- R184: a reset, its start-up, and the first selection of the Line controller. -/
def State.doReset (s : State) : State :=
  let image := s.imageAfterReset
  let used := if s.store.commit.isSome then 1 else 0
  ((s.resetTo image (s.freeCount + used)).endStartUp image).settle

/-! ### Meanings -/

/-- COMMIT_END (R182): the writing of a commit ends; without one the command does nothing. -/
def execCommitEnd (good : Bool) (s : State) : Host.Outcome State Fault Refusal :=
  match s.store.commit with
  | some c => .next (s.commitOver c good)
  | none => .next s

/-- RESET (R184): power-on, the reset input and the end of a Restart answer have the same effect. -/
def execReset (_cause : ResetCause) (s : State) : Host.Outcome State Fault Refusal := .next s.doReset

end Sys2Proof.Machine
end

