-- ==== Sys2Proof/Machine/Ports.lean ====
section
/-! DEFINITION. The Port unit: how a request is tested, handed to its owner and answered (R173 to R175), and the
meanings of the frame events of a port (R169 to R172, R176). -/

namespace Sys2Proof.Machine

/-- What the owner of a request answers: a status and a body (R174). -/
structure Reply where
  status : Status
  body : List Byte
  deriving DecidableEq, Repr

/-- R174: a Done answer carries the body of the catalogue. -/
def Reply.done (body : List Byte) : Reply := ⟨.done, body⟩

/-- R174: an answer with any other status has an empty body. -/
def Reply.refuse (status : Status) : Reply := ⟨status, []⟩

/-! ### Roles (R175) -/

def anyRole (_p : Port) : Bool := true

def plannerOnly : Port → Bool
  | .planner => true
  | .site | .service => false

def siteOnly : Port → Bool
  | .site => true
  | .planner | .service => false

def serviceOnly : Port → Bool
  | .service => true
  | .planner | .site => false

def plannerOrService : Port → Bool
  | .planner | .service => true
  | .site => false

def plannerOrSite : Port → Bool
  | .planner | .site => true
  | .service => false

/-- The kind byte of an answer: the request code with its top bit set (R170). -/
def answerKind (code : Byte) : Byte := code ||| 0x80

/-- R172, R173: a request whose check is good. While the slot is Held its bytes are discarded. Otherwise the slot
becomes Held: the role is tested, then the owner, which answers BadValue to a body of the wrong length, takes the
request whole, and the answer is sent on the port it came in on. -/
def State.serve (s : State) (r : Req) (code : Byte) (permits : Port → Bool)
    (owner : List Byte → State → State × Reply) : State :=
  match (s.port r.port).slot with
  | .held _ => s
  | .listening | .receiving =>
    let res := if permits r.port then owner r.body s else (s, Reply.refuse .notPermitted)
    res.1.withSlot r.port (.held ⟨r.seq, answerKind code, res.2.status, res.2.body⟩)

/-- A frame that ends without a request: the slot returns to Listening, unless it is Held and the bytes are discarded
(R170 to R172). -/
def State.dropFrame (s : State) (p : Port) : State :=
  match (s.port p).slot with
  | .held _ => s
  | .listening | .receiving => s.withSlot p .listening

/-- R170: a byte in Listening: the start byte moves the slot to Receiving, any other is discarded. In Receiving a start
byte is an ordinary byte, in Held every byte is discarded (R172). -/
def State.listenByte (s : State) (p : Port) (b : Byte) : State :=
  match (s.port p).slot with
  | .listening => if b = 0xA5 then s.withSlot p .receiving else s
  | .receiving | .held _ => s

/-- R176: whether an answer is the Done answer of a Restart. -/
def Answer.restarts (a : Answer) : Bool := a.kind == answerKind 0x1E && a.status == .done

/-! ### Meanings -/

/-- UNKNOWN_REQUEST (R173): the kind is no request code of the catalogue: BadValue, whatever the role. -/
def execUnknownRequest (r : Req) (kind : Byte) (s : State) : Host.Outcome State Fault Refusal :=
  .next (s.serve r kind anyRole (fun _ t => (t, Reply.refuse .badValue)))

/-- FRAME_CHECK_FAIL (R171): the frame is discarded; no answer is sent and no event is appended. -/
def execFrameCheckFail (p : Port) (s : State) : Host.Outcome State Fault Refusal := .next (s.dropFrame p)

/-- FRAME_GAP (R170): the partial frame is discarded, and the byte that ends the gap, if one has come, is taken as in
Listening. Only a frame in Receiving can have a gap. -/
def execFrameGap (p : Port) (ending : Option Byte) (s : State) : Host.Outcome State Fault Refusal :=
  match (s.port p).slot with
  | .receiving =>
    let t := s.withSlot p .listening
    match ending with
    | some b => .next (t.listenByte p b)
    | none => .next t
  | .listening | .held _ => .next s

/-- ANSWER_END (R169, R176): the last byte of an answer has been sent: the slot returns to Listening, and after a
Restart the device is reset. -/
def execAnswerEnd (p : Port) (s : State) : Host.Outcome State Fault Refusal :=
  match (s.port p).slot with
  | .held a => if a.restarts then .next s.doReset else .next (s.withSlot p .listening)
  | .listening | .receiving => .next s

/-- START_BYTE (R170): the byte A5 on a port. -/
def execStartByte (p : Port) (s : State) : Host.Outcome State Fault Refusal := .next (s.listenByte p 0xA5)

/-- BAD_LENGTH (R170): a length byte below 2 ends the frame at once; a length of 2 or more is no bad length. -/
def execBadLength (p : Port) (len : Byte) (s : State) : Host.Outcome State Fault Refusal :=
  .next (if len.toNat < 2 then s.dropFrame p else s)

end Sys2Proof.Machine
end

