-- ==== Sys2Proof/Machine/Reads.lean ====
section
/-! DEFINITION. The requests every role may send (R175): the reads, TakeEvents and SetAttention, each as its owner answers
it, with the record layouts of R178; and their meanings. -/

namespace Sys2Proof.Machine

/-! ### ReadIdentity (R177) -/

def readIdentityOwner (p : Port) (body : List Byte) (s : State) : State × Reply :=
  match body with
  | [] => (s, .done (be16 Config.vendorCode ++ [byte Config.familyCode, byte Config.partCode, byte Config.revision,
      byte (portCode p), yesNo s.now?.isSome] ++ be32 (s.now?.getD 0) ++ be32 s.elapsedSeconds))
  | _ => (s, .refuse .badValue)

/-! ### ReadOrder and ListRoster (R24) -/

/-- R24: the remaining energy a read reports: 0 for a Waiting or Closed order, else that of R4. -/
def State.reportedRemaining (s : State) (o : Order) : Nat :=
  match o.boundBay with
  | some b => if o.state.isBound then s.remaining b o else 0
  | none => 0

/-- The order body (R178). -/
def State.orderBody (s : State) (o : Order) : List Byte :=
  be16 o.tag ++ be32 o.key ++ be32 o.departure ++ o.addedAt.bytes ++
    (match o.closedAt with
      | some t => t.bytes
      | none => be32 0) ++
    be16 o.delivered ++ be16 (s.reportedRemaining o) ++
    [byte o.targetSoc, byte o.conditioning.code, byte o.lead, byte o.cls.rank,
      optBayByte o.assigned, optBayByte o.boundBay, byte o.state.code,
      byte (match o.outcome with
        | some out => out.code
        | none => 0),
      flagByte [o.wakePermitted, o.atRisk, o.deferred, o.wakeFailed, o.begun, o.released, o.addedAt.isUnset,
        (o.closedAt.map Stamp.isUnset).getD false],
      byte (s.position o.tag)]

def readOrderOwner (body : List Byte) (s : State) : State × Reply :=
  match body with
  | [t1, t0] =>
    match s.order? (val16 t1 t0) with
    | some o => (s, .done (s.orderBody o))
    | none => (s, .refuse .notFound)
  | _ => (s, .refuse .badValue)

def listRosterOwner (body : List Byte) (s : State) : State × Reply :=
  match body with
  | [start] =>
    if 1 ≤ start.toNat ∧ start.toNat ≤ 40 then
      let tags := ((s.roster.drop (start.toNat - 1)).take 8).map (fun o => o.tag)
      (s, .done ([byte s.roster.length, byte tags.length] ++ tags.flatMap be16))
    else (s, .refuse .badValue)
  | _ => (s, .refuse .badValue)

/-! ### ReadBay (R48, R124) -/

/-- R124: whether a Wake is on the line for a bay: the bay's open exchange is a Wake that is not deferred. A Wake that a
ClearBay has abandoned is no longer open although the line still carries it (R144), so it reads No, the model's choice
(entry 42). -/
def LineBay.wakeOnLine (l : LineBay) : Bool :=
  match l.opn with
  | some ⟨.wake _ _, none, _, _⟩ => true
  | _ => false

/-- R124: the seconds to a moment that lies ahead. -/
def State.secondsAhead (s : State) (t : Nat) : Option Nat := if s.elapsed < t then some (s.secondsTo t) else none

/-- The bay body (R178). The bound order tag of a bay with no bound order reads 0, the model's choice (entry 38). -/
def State.bayBody (s : State) (b : BayNo) : List Byte :=
  let r := s.bay b
  let l := s.lineBay b
  [bayByte b, byte r.state.code,
    flagByte [r.plugIn, s.enabled b, r.pack.isSome, r.boundOrder.isSome, r.identity.isSome, r.packSlot.isSome,
      r.lockSlot, r.conflict],
    flagByte [r.ovr.mode == .manual, r.ovr.releaseAnytime, r.wakePending, l.wakeOnLine, r.barred],
    byte (s.rating b), byte (stepCode r.step)] ++
    be32 (r.identity.getD 0) ++
    optTime16 (r.admTimer.map s.secondsTo) ++
    (match r.pack with
      | some p => [byte p.soc, tempByte p.temp] ++ be16 p.capacity
      | none => [0, 0] ++ be16 0) ++
    optTime16 (if r.pack.isSome then r.lastFrame.map s.secondsSince else none) ++
    [byte r.output, byte r.limit] ++
    be16 r.counter ++ be16 (r.boundOrder.getD 0) ++ be16 r.baseline ++
    [byte (s.target b), byte (s.cap b), byte l.held, byte l.exposure, byte l.silent, byte l.refuse] ++
    optTime16 (r.dormTimer.map s.secondsTo) ++ optTime16 (r.dormantSince.map s.secondsSince) ++
    [byte r.tryCount, optTime8 (r.retryAt.bind s.secondsAhead), optTime8 (r.wakeWindow.map s.secondsTo),
      optByte r.ovr.manualCap, optByte r.ovr.fixedIndex]

def readBayOwner (body : List Byte) (s : State) : State × Reply :=
  match body with
  | [n] =>
    match bay? n with
    | some b => (s, .done (s.bayBody b))
    | none => (s, .refuse .badValue)
  | _ => (s, .refuse .badValue)

/-! ### ReadFeeder (R83) -/

/-- Feeder flags A (R178). -/
def State.feederFlagsA (s : State) : Byte :=
  flagByte [s.feeder.site.isSome, s.feeder.stale, s.feeder.warnCond, s.feeder.alarmCond, s.feeder.warnFlag,
    s.feeder.alarmFlag, s.cfg.warnLatch, s.cfg.alarmLatch]

/-- The feeder body (R83, R178). A site ceiling that is not set reads 0, the model's choice (entry 39). -/
def State.feederBody (s : State) : List Byte :=
  let f := s.feeder
  be16 f.effective ++ be16 (f.site.getD 0) ++ be16 s.cfg.safeCeiling ++ be16 s.cfg.derateCeiling ++ be16 f.load ++
    be16 f.cut ++ be16 s.exposureSum ++
    [optTime8 (f.staleTimer.map s.secondsTo), byte f.hold.code, byte s.holdCount, byte s.band.code,
      s.feederFlagsA, flagByte [f.stop, f.derate], byte f.tariff.length] ++
    f.tariff.flatMap Window.bytes

def readFeederOwner (body : List Byte) (s : State) : State × Reply :=
  match body with
  | [] => (s, .done s.feederBody)
  | _ => (s, .refuse .badValue)

/-! ### ReadTable (R61) -/

/-- The table a byte names: Rate, Conditioning (R178). -/
def State.table? (s : State) (t : Byte) : Option (Vector Nat 41) :=
  match t.toNat with
  | 0 => some s.cfg.rateTable
  | 1 => some s.cfg.condTable
  | _ => none

def readTableOwner (body : List Byte) (s : State) : State × Reply :=
  match body with
  | [t, start, count] =>
    match s.table? t with
    | some table =>
      if start.toNat ≤ 40 ∧ 1 ≤ count.toNat ∧ count.toNat ≤ 41 then
        let entries := (table.toList.drop start.toNat).take count.toNat
        (s, .done ([t, start, byte entries.length, byte s.cfg.cabinHeater] ++ entries.map byte))
      else (s, .refuse .badValue)
    | none => (s, .refuse .badValue)
  | _ => (s, .refuse .badValue)

/-! ### ReadSetting (R180) -/

def readSettingOwner (body : List Byte) (s : State) : State × Reply :=
  match body with
  | [i1, i0] =>
    match settingId? (val16 i1 i0) with
    | some id => (s, .done ([i1, i0] ++ s.cfg.valueBytes id))
    | none => (s, .refuse .badValue)
  | _ => (s, .refuse .badValue)

/-! ### PeekCompletions (R152) and TakeEvents (R156) -/

/-- The body of PeekCompletions and TakeCompletions: the records, then what the log and the waiting line hold. -/
def completionsBody (records : List Completion) (logCount waitingCount : Nat) : List Byte :=
  [byte records.length, byte logCount, byte waitingCount] ++ records.flatMap Completion.bytes

def peekCompletionsOwner (body : List Byte) (s : State) : State × Reply :=
  match body with
  | [] => (s, .done (completionsBody (s.log.take 4) s.log.length s.waitingLine.length))
  | _ => (s, .refuse .badValue)

/-- R156: up to 8 of the oldest records are removed, the overflow flag is cleared, the attention lines follow. -/
def State.takeEvents (s : State) : State :=
  State.refreshAttention { s with events := ⟨s.events.queue.drop 8, false⟩ }

def takeEventsOwner (body : List Byte) (s : State) : State × Reply :=
  match body with
  | [] =>
    let taken := s.events.queue.take 8
    (s.takeEvents, .done ([yesNo s.events.overflow, byte taken.length, byte (s.events.queue.drop 8).length] ++
      taken.flatMap EventRec.bytes))
  | _ => (s, .refuse .badValue)

/-! ### SetAttention (R158) -/

/-- R158: the mask of a port is replaced whole and the attention lines are recomputed. -/
def State.setMask (s : State) (p : Port) (m : Mask) : State :=
  (s.withPort p { s.port p with mask := m }).refreshAttention

def setAttentionOwner (p : Port) (body : List Byte) (s : State) : State × Reply :=
  match body with
  | [classes, completions] =>
    match mask? classes completions with
    | some m => (s.setMask p m, .done [classes, completions])
    | none => (s, .refuse .badValue)
  | _ => (s, .refuse .badValue)

/-! ### Meanings -/

/-- READ_IDENTITY (R177). -/
def execReadIdentity (r : Req) (s : State) : Host.Outcome State Fault Refusal :=
  .next (s.serve r 0x01 anyRole (readIdentityOwner r.port))

/-- READ_ORDER (R24). -/
def execReadOrder (r : Req) (s : State) : Host.Outcome State Fault Refusal :=
  .next (s.serve r 0x02 anyRole readOrderOwner)

/-- LIST_ROSTER (R24). -/
def execListRoster (r : Req) (s : State) : Host.Outcome State Fault Refusal :=
  .next (s.serve r 0x03 anyRole listRosterOwner)

/-- READ_BAY (R48). -/
def execReadBay (r : Req) (s : State) : Host.Outcome State Fault Refusal :=
  .next (s.serve r 0x04 anyRole readBayOwner)

/-- READ_FEEDER (R83). -/
def execReadFeeder (r : Req) (s : State) : Host.Outcome State Fault Refusal :=
  .next (s.serve r 0x05 anyRole readFeederOwner)

/-- READ_TABLE (R61). -/
def execReadTable (r : Req) (s : State) : Host.Outcome State Fault Refusal :=
  .next (s.serve r 0x06 anyRole readTableOwner)

/-- READ_SETTING (R180). -/
def execReadSetting (r : Req) (s : State) : Host.Outcome State Fault Refusal :=
  .next (s.serve r 0x07 anyRole readSettingOwner)

/-- PEEK_COMPLETIONS (R152). -/
def execPeekCompletions (r : Req) (s : State) : Host.Outcome State Fault Refusal :=
  .next (s.serve r 0x08 anyRole peekCompletionsOwner)

/-- TAKE_EVENTS (R156). -/
def execTakeEvents (r : Req) (s : State) : Host.Outcome State Fault Refusal :=
  .next (s.serve r 0x09 anyRole takeEventsOwner)

/-- SET_ATTENTION (R158). -/
def execSetAttention (r : Req) (s : State) : Host.Outcome State Fault Refusal :=
  .next (s.serve r 0x0A anyRole (setAttentionOwner r.port))

end Sys2Proof.Machine
end

