-- ==== Sys2Proof/Machine/Round.lean ====
section
/-! DEFINITION. The allocation round: the twelve steps of R87, in their order, each a function of the state that the
steps before it have left. The temperature index, charge cap and slack of a bay do not change once step 4 has set the
phases, so each step asks for them anew (R56: they are computed on demand). -/

namespace Sys2Proof.Machine

/-- The bays whose orders a round takes in roster order: those whose bay a test accepts, each with its order (R87,
"within steps 4, 6 and 7, orders are taken in roster order"). -/
def State.roundOrders (s : State) (test : BayNo → Bool) : List (BayNo × Nat) :=
  s.roster.filterMap (fun o =>
    match o.boundBay with
    | some b => if test b && (s.bay b).boundOrder == some o.tag then some (b, o.tag) else none
    | none => none)

/-! ### Step 1 -/

/-- R16: the Waiting orders past departure plus missed grace, in roster order. -/
def State.missedOrders (s : State) (now : Nat) : List Nat :=
  (s.roster.filter (fun o => o.state == .waiting && decide (o.departure + s.cfg.missedGrace ≤ now))).map (fun o => o.tag)

/-- R16: they are closed Missed. -/
def State.closeMissed (s : State) (now : Nat) : State :=
  (s.missedOrders now).foldl (fun t tag => t.closeOrder tag .missed) s

/-- R73: the ended tariff windows are dropped. -/
def State.dropWindows (s : State) (now : Nat) : State :=
  { s with feeder := { s.feeder with tariff := s.feeder.tariff.filter (fun w => decide (now < w.stop)) } }

/-! ### Step 2 -/

/-- R89: the Deferred flags of the orders of reckoned Dormant bays are cleared. -/
def State.clearDormantDeferred (s : State) : State :=
  (s.roundOrders s.reckoned).foldl (fun t x => t.updOrder x.2 (fun o => { o with deferred := false })) s

/-! ### Step 4 -/

/-- R13, R14: the state an eligible order takes at a round, absent when it keeps its own. -/
def phaseAfter (o : Order) (remaining cap now : Nat) : Option OrderState :=
  match o.state with
  | .charging =>
    if o.conditioning ≠ .none ∧ o.leadReached now = true then some .conditioning
    else if 0 < remaining ∧ (o.conditioning = .pack ∨ o.conditioning = .both) ∧ cap = 0 then some .conditioning
    else if remaining = 0 ∧ o.conditioning = .none then some .ready
    else none
  | .conditioning =>
    if remaining = 0 then some .ready
    else if o.conditioning = .none then some .charging
    else none
  | .ready =>
    if o.conditioning ≠ .none ∧ o.begun = false ∧ o.leadReached now = true then some .conditioning
    else if 0 < remaining ∧ o.begun = true then some .conditioning
    else if 0 < remaining then some .charging
    else none
  | .waiting | .closing | .closed => none

/-- R90: the phase of one order of an eligible bay; entry into Conditioning sets conditioning begun, entry into Ready
appends OrderReady. -/
def State.changePhase (s : State) (now : Nat) (x : BayNo × Nat) : State :=
  match s.order? x.2 with
  | none => s
  | some o =>
    match phaseAfter o (s.remaining x.1 o) (s.chargeCap x.1) now with
    | none => s
    | some st =>
      let t := s.updOrder x.2 (fun o =>
        { o with state := st, begun := if st = .conditioning then true else o.begun })
      if st = .ready then t.append .orderReady (some (.order x.2)) .raised else t

/-- Step 4 over the orders of the eligible bays. -/
def State.changePhases (s : State) (now : Nat) : State :=
  (s.roundOrders s.eligible).foldl (fun t x => t.changePhase now x) s

/-! ### Step 5 -/

/-- R91: the stored caps of the eligible bays and of the reckoned Dormant bays. -/
def State.storeCaps (s : State) : State :=
  allBays.foldl (fun t b =>
    if s.eligible b || s.reckoned b then
      match s.orderOf? b with
      | some o => t.withCap b (s.capOf b o)
      | none => t
    else t) s

/-! ### Step 6 -/

/-- R94: AtRisk of one reckoned order. -/
def State.setAtRisk (s : State) (now : Nat) (x : BayNo × Nat) : State :=
  match s.order? x.2 with
  | none => s
  | some o =>
    let late := decide (s.slack x.1 o now < 0)
    if late = o.atRisk then s
    else (s.updOrder x.2 (fun o => { o with atRisk := late })).append .orderAtRisk (some (.order x.2))
      (if late then .raised else .cleared)

/-- Step 6 over the orders of the eligible bays and of the reckoned Dormant bays. -/
def State.setAtRisks (s : State) (now : Nat) : State :=
  (s.roundOrders (fun b => s.eligible b || s.reckoned b)).foldl (fun t x => t.setAtRisk now x) s

/-! ### Step 7 -/

/-- R114: the trigger of the wake decision: the slack, or the warming about to fall due. -/
def State.wakeTrigger (s : State) (b : BayNo) (o : Order) (now : Nat) : Bool :=
  decide (s.slack b o now ≤ s.cfg.wakeSlack) ||
    (o.conditioning != .none && decide (o.departure ≤ now + o.lead * 60 + Config.wakeLead))

/-- R114: the tests of the wake decision that come before the wake permitted test. -/
def State.wakeNeeded (s : State) (b : BayNo) (o : Order) (now : Nat) : Bool :=
  !(o.state == .ready && o.conditioning == .none) && !o.wakeFailed && !(s.bay b).wakePending &&
    (match (s.bay b).dormantSince with
      | some t => decide (t + Config.wakeSettle ≤ s.elapsed)
      | none => false) &&
    (match (s.bay b).retryAt with
      | some t => decide (t ≤ s.elapsed)
      | none => true) &&
    s.wakeTrigger b o now

/-- R116: a Wake is handed to the Line controller. -/
def State.handWake (s : State) (b : BayNo) : State :=
  let t := s.updLineBay b (fun l =>
    { l with pWake := some ⟨s.cfg.wakePulse, s.line.nextAge, ((s.bay b).dormantSince).getD 0⟩ })
  State.updBay { t with line := { t.line with nextAge := s.line.nextAge + 1 } } b
    (fun r => { r with wakePending := true })

/-- R114, R115: the wake decision of one reckoned Dormant bay. -/
def State.wakeDecision (s : State) (now : Nat) (x : BayNo × Nat) : State :=
  match s.order? x.2 with
  | none => s
  | some o =>
    if s.wakeNeeded x.1 o now then
      if o.wakePermitted = false then
        if (s.bay x.1).barred then s
        else (s.updBay x.1 (fun r => { r with barred := true })).append .wakeBarred (some (.order x.2)) .raised
      else if s.feeder.stop = true ∨ s.feeder.hold ≠ .running then s
      else s.handWake x.1
    else s

/-- Step 7 over the reckoned Dormant bays, in the roster order of their orders. -/
def State.wakeDecisions (s : State) (now : Nat) : State :=
  (s.roundOrders s.reckoned).foldl (fun t x => t.wakeDecision now x) s

/-! ### Step 8 -/

/-- R95: Deferred of the orders of the eligible bays. -/
def State.setDeferred (s : State) (now : Nat) : State :=
  (s.roundOrders s.eligible).foldl (fun t x =>
    match s.order? x.2 with
    | none => t
    | some o =>
      t.updOrder x.2 (fun p => { p with deferred := deferredAfter s.band o (s.slack x.1 o now) s.cfg.deferMargin })) s

/-! ### Steps 9 to 11 -/

/-- What step 10 ranks: each eligible bay with its class, slack and demand (R96 to R98). -/
def State.rankEntries (s : State) (now : Nat) : List RankEntry :=
  allBays.filterMap (fun b =>
    if s.eligible b then (s.orderOf? b).map (fun o => ⟨b, o.cls, s.slack b o now, s.demand b o⟩) else none)

/-- R98: the ranking of the eligible bays. -/
def State.ranked (s : State) (now : Nat) : List RankEntry := sortBy rankBefore (s.rankEntries now)

/-- R101: the grant of one bay of the walk from the power left. -/
def grantFor (demand : Nat) (limit : Option Nat) (left postMin : Nat) : Nat :=
  let g := min (min demand (limit.getD demand)) left
  if g < postMin ∧ g < demand then 0 else g

/-- R99, R101: the walk of the ranking. `met` says whether every Express and Standard bay so far has its whole demand;
a Spare bay is granted only when the band is Low or they all have. -/
def grantWalk (limits : Vector (Option Nat) 24) (low : Bool) (postMin : Nat) :
    List RankEntry → Nat → Bool → List (BayNo × Nat)
  | [], _, _ => []
  | e :: es, left, met =>
    if e.cls = .spare ∧ low = false ∧ met = false then (e.bay, 0) :: grantWalk limits low postMin es left met
    else
      let g := grantFor e.demand limits[e.bay] left postMin
      (e.bay, g) :: grantWalk limits low postMin es (left - g)
        (if e.cls = .spare then met else met && g == e.demand)

/-- The grant a walk gives a bay; 0 for a bay it does not rank (R102). -/
def grantOf (grants : List (BayNo × Nat)) (b : BayNo) : Nat :=
  match grants.find? (fun x => x.1 == b) with
  | some x => x.2
  | none => 0

/-! ### Step 12 -/

/-- R102: the changed targets are handed from the tail of the new ranking toward its head, then in ascending bay number
for the bays not in it. -/
def handOrder (ranking : List BayNo) : List BayNo :=
  ranking.reverse ++ allBays.filter (fun b => !ranking.contains b)

/-- R102: the round result: targets, ranking, refusal limits, and the changed targets handed to the Line controller. -/
def State.roundResult (s : State) (ranking : List BayNo) (grants : List (BayNo × Nat)) : State :=
  let t := { s with
    alloc := { s.alloc with
      targets := Vector.ofFn (fun b => grantOf grants b)
      ranking := ranking
      limits := Vector.replicate 24 none } }
  (handOrder ranking).foldl (fun u b => if s.target b = grantOf grants b then u else u.reconcile b) t

/-- Steps 9 to 12 (R96 to R102). -/
def State.grantRound (s : State) (now : Nat) : State :=
  let ranked := s.ranked now
  s.roundResult (ranked.map (fun e => e.bay))
    (grantWalk s.alloc.limits (s.band == .low) s.cfg.postMin ranked s.available true)

/-- R87: a round at a depot time. -/
def State.roundAt (s : State) (now : Nat) : State :=
  let s1 := (s.closeMissed now).dropWindows now
  let s2 := s1.clearDormantDeferred
  let s4 := s2.changePhases now
  let s5 := s4.storeCaps
  let s6 := s5.setAtRisks now
  let s7 := s6.wakeDecisions now
  let s8 := s7.setDeferred now
  s8.grantRound now

/-- R1, R87: a round; while the clock is unset no round runs. -/
def State.round (s : State) : State :=
  match s.now? with
  | some now => s.roundAt now
  | none => s

/-- R85: the round timer is started with the full round period. -/
def State.startRoundTimer (s : State) : State :=
  { s with alloc := { s.alloc with roundTimer := some (s.inSeconds s.cfg.roundPeriod) } }

end Sys2Proof.Machine
end

