-- ==== Sys2Proof/Machine/Planner.lean ====
section
/-! DEFINITION. The Planner port's requests (R175): SetClock, the order requests, ReleaseVan, TakeCompletions and
Reallocate, each as its owner carries it out, and their meanings. -/

namespace Sys2Proof.Machine

/-! ### SetClock (R2) -/

/-- R2: the clock takes the value; ClockSet is appended; the first SetClock runs a round and starts the round timer. -/
def State.setClock (s : State) (t : Nat) : State :=
  let u := State.append { s with alloc := { s.alloc with clock := some ⟨t, s.elapsed⟩ } } .clockSet none .raised
  if s.alloc.clock.isNone then u.round.startRoundTimer.settle else u

def setClockOwner (body : List Byte) (s : State) : State × Reply :=
  match body with
  | [t3, t2, t1, t0] => (s.setClock (val32 t3 t2 t1 t0), .done [t3, t2, t1, t0])
  | _ => (s, .refuse .badValue)

/-! ### AddOrder (R7, R8) -/

/-- R7: a record obeys its ranges; the optional and enumerated fields are among their values when they were read at
all. -/
def rangesOk (key targetSoc lead : Nat) (conditioning : Conditioning) : Bool :=
  decide (10 ≤ targetSoc) && decide (targetSoc ≤ 100) && decide (lead ≤ 90) &&
    (conditioning != .none || lead == 0) && key != 0

/-- R7, R9: a departure passes while the clock is unset, or when it is later than now. -/
def State.departureOk (s : State) (departure : Nat) : Bool :=
  match s.now? with
  | some now => decide (now < departure)
  | none => true

/-- R6: no order that is not Closed, other than the one with a tag, has the van key. -/
def State.keyTaken (s : State) (key : Nat) (except : Option Nat) : Bool :=
  s.roster.any (fun o => o.state != .closed && o.key == key && except != some o.tag)

/-- R8: the order record an AddOrder creates. -/
def newOrder (tag key departure targetSoc : Nat) (conditioning : Conditioning) (lead : Nat) (wake : Bool)
    (cls : OrderClass) (assigned : Option BayNo) (addedAt : Stamp) : Order where
  tag := tag
  key := key
  departure := departure
  targetSoc := targetSoc
  conditioning := conditioning
  lead := lead
  wakePermitted := wake
  cls := cls
  assigned := assigned
  state := .waiting
  boundBay := none
  atRisk := false
  deferred := false
  wakeFailed := false
  begun := false
  released := false
  outcome := none
  delivered := 0
  carried := 0
  addedAt := addedAt
  closedAt := none
  finalSoc := none

/-- R7: the order a body asks for when its fields are among their values and in their ranges. -/
def orderFrom (tag : Nat) (f : OrderFields) (addedAt : Stamp) : Option Order :=
  match f.conditioning, f.wakePermitted, f.cls, f.assigned with
  | some c, some w, some k, some a =>
    if rangesOk f.key f.targetSoc f.lead c then
      some (newOrder tag f.key f.departure f.targetSoc c f.lead w k a addedAt)
    else none
  | _, _, _, _ => none

/-- R8, R10: the answer body of AddOrder and AmendOrder: state, bound bay, position. -/
def State.orderPlace (s : State) (tag : Nat) : List Byte :=
  match s.order? tag with
  | some o => [byte o.state.code, optBayByte o.boundBay, byte (s.position tag)]
  | none => [0, 0, 0]

/-- R8: an order that has passed every check is put in its place, and the binding check is asked for. -/
def State.addOrder (s : State) (o : Order) : State :=
  State.bindingCheckOrder { s with roster := insertOrder o s.roster } o.tag

/-- R7: the checks of AddOrder after its ranges, in their order. -/
def State.addOrderStatus (s : State) (o : Order) : Status :=
  if !s.departureOk o.departure then .clockUnset
  else if (s.order? o.tag).isSome then .duplicate
  else if s.keyTaken o.key none then .duplicate
  else if s.roster.length < Config.rosterCapacity then .done
  else .full

def addOrderOwner (body : List Byte) (s : State) : State × Reply :=
  match body with
  | t1 :: t0 :: rest =>
    match orderFields? rest with
    | some f =>
      match orderFrom (val16 t1 t0) f s.stamp with
      | some o =>
        match s.addOrderStatus o with
        | .done => (s.addOrder o, .done ((s.addOrder o).orderPlace o.tag))
        | st => (s, .refuse st)
      | none => (s, .refuse .badValue)
    | none => (s, .refuse .badValue)
  | _ => (s, .refuse .badValue)

/-! ### AmendOrder (R9 to R11) -/

/-- The change set: one flag for each field in the order of the body (R178). -/
def changes (set : Byte) (i : Nat) : Bool := set.getLsbD i

/-- A field under a change set: the new value when its flag is set and the value could be read, the old one when the
flag is clear; absent when a new value is out of its list (R9). -/
def pick {α : Type} (flag : Bool) (new : Option α) (old : α) : Option α := if flag then new else some old

/-- R9: the record as it would stand after the change, when each new value is in range and the record obeys R7. -/
def amended (o : Order) (set : Byte) (f : OrderFields) : Option Order :=
  match pick (changes set 3) f.conditioning o.conditioning, pick (changes set 5) f.wakePermitted o.wakePermitted,
    pick (changes set 6) f.cls o.cls, pick (changes set 7) f.assigned o.assigned with
  | some c, some w, some k, some a =>
    let key := if changes set 0 then f.key else o.key
    let soc := if changes set 2 then f.targetSoc else o.targetSoc
    let lead := if changes set 4 then f.lead else o.lead
    if rangesOk key soc lead c then
      some { o with
        key := key
        departure := if changes set 1 then f.departure else o.departure
        targetSoc := soc
        conditioning := c
        lead := lead
        wakePermitted := w
        cls := k
        assigned := a }
    else none
  | _, _, _, _ => none

/-- R10 steps 1 to 4 on the order itself: the fields, WakeFailed cleared, and conditioning begun No when the
conditioning was changed to None. -/
def amendedRecord (o' : Order) (toNone : Bool) : Order :=
  { o' with wakeFailed := false, begun := if toNone then false else o'.begun }

/-- R10 steps 1 to 4: the order takes its new fields, moved to its new place when its departure changed. -/
def State.amendFields (s : State) (o o' : Order) (toNone : Bool) : State :=
  let o'' := amendedRecord o' toNone
  let t :=
    if o'.departure = o.departure then s.updOrder o.tag (fun _ => o'')
    else { s with roster := insertOrder o'' (s.roster.filter (fun x => x.tag != o.tag)) }
  match o.boundBay with
  | some b => t.updBay b (fun r => { r with tryCount := 0, retryAt := none })
  | none => t

/-- R11: a changed van key or assigned bay: a bound order is first unbound, then the binding check is asked for. -/
def State.rebind (s : State) (tag : Nat) : State :=
  match s.order? tag with
  | none => s
  | some o =>
    match o.boundBay with
    | some b =>
      let was := s.eligible b
      (((s.unbindOrder tag).unbindBay b).leaveEligibility was b).bindingCheckOrder tag
    | none => s.bindingCheckOrder tag

/-- R10: an AmendOrder that has passed its checks. -/
def State.amendOrder (s : State) (o o' : Order) (toNone : Bool) : State :=
  let t := s.amendFields o o' toNone
  if o'.key = o.key ∧ o'.assigned = o.assigned then t else t.rebind o.tag

/-- R9: the checks of AmendOrder after its ranges, in their order. -/
def State.amendStatus (s : State) (o o' : Order) : Status :=
  if o'.departure ≠ o.departure ∧ s.departureOk o'.departure = false then .clockUnset
  else if o'.key ≠ o.key ∧ s.keyTaken o'.key (some o.tag) = true then .duplicate
  else .done

def amendOrderOwner (body : List Byte) (s : State) : State × Reply :=
  match body with
  | t1 :: t0 :: set :: rest =>
    match orderFields? rest with
    | some f =>
      match s.order? (val16 t1 t0) with
      | none => (s, .refuse .notFound)
      | some o =>
        if o.state = .closing ∨ o.state = .closed then (s, .refuse .tooLate)
        else match amended o set f with
          | none => (s, .refuse .badValue)
          | some o' =>
            match s.amendStatus o o' with
            | .done =>
              let t := (s.amendOrder o o' (changes set 3 && o'.conditioning == .none)).settle
              (t, .done (t.orderPlace o.tag))
            | st => (s, .refuse st)
    | none => (s, .refuse .badValue)
  | _ => (s, .refuse .badValue)

/-! ### CancelOrder (R20) -/

/-- R20: a bound order becomes Closing, its bay's target 0, and R21 closes it when its bay's decrease is done. -/
def State.cancelBound (s : State) (tag : Nat) (b : BayNo) : State :=
  let was := s.eligible b
  let t := s.updOrder tag (fun o => { o with state := .closing, deferred := false })
  (t.leaveEligibility was b).decreaseDone b

/-- The state an order holds, Closed once it has left the roster (R20). -/
def State.stateAfter (s : State) (tag : Nat) : OrderState :=
  match s.order? tag with
  | some o => o.state
  | none => .closed

/-- R20: the effect of a CancelOrder by the order's state. -/
def State.cancelOrder (s : State) (o : Order) : State :=
  match o.state, o.boundBay with
  | .waiting, _ => s.closeOrder o.tag .cancelled
  | .charging, some b | .conditioning, some b | .ready, some b => s.cancelBound o.tag b
  | .charging, none | .conditioning, none | .ready, none => s
  | .closing, _ | .closed, _ => s

def cancelOrderOwner (body : List Byte) (s : State) : State × Reply :=
  match body with
  | [t1, t0] =>
    match s.order? (val16 t1 t0) with
    | none => (s, .refuse .notFound)
    | some o =>
      if o.state = .closed then (s, .refuse .tooLate)
      else
        let t := s.cancelOrder o
        (t.settle, .done [byte (t.stateAfter o.tag).code])
  | _ => (s, .refuse .badValue)

/-! ### ReleaseVan (R23) -/

/-- R23, R133: an Unlock is handed to the Line controller; a second one is merged and keeps the first one's age. -/
def State.handUnlock (s : State) (b : BayNo) : State :=
  if (s.lineBay b).pUnlock.isSome then s
  else
    let t := s.updLineBay b (fun l => { l with pUnlock := some s.line.nextAge })
    { t with line := { t.line with nextAge := s.line.nextAge + 1 } }

/-- R23: an order is released. -/
def State.releaseVan (s : State) (tag : Nat) (b : BayNo) : State :=
  let was := s.eligible b
  let t := s.updOrder tag (fun o => { o with released := true, deferred := false })
  (t.leaveEligibility was b).handUnlock b

def releaseVanOwner (body : List Byte) (s : State) : State × Reply :=
  match body with
  | [t1, t0] =>
    match s.order? (val16 t1 t0) with
    | none => (s, .refuse .notFound)
    | some o =>
      match o.state, o.boundBay with
      | .closed, _ => (s, .refuse .tooLate)
      | .waiting, _ => (s, .refuse .wrongState)
      | _, none => (s, .refuse .wrongState)
      | st, some b =>
        if o.released then (s, .done [bayByte b])
        else if st = .ready ∨ (s.bay b).ovr.releaseAnytime = true then
          ((s.releaseVan o.tag b).settle, .done [bayByte b])
        else (s, .refuse .wrongState)
  | _ => (s, .refuse .badValue)

/-! ### TakeCompletions (R151) -/

/-- R151 step 2: the oldest orders of the waiting line enter the log and leave the roster, for as long as there is room. -/
def moveWaiting : List Nat → State → State
  | [], s => s
  | tag :: rest, s =>
    if s.log.length < Config.logCapacity then
      match s.order? tag with
      | some o => moveWaiting rest (State.logOrder { s with waitingLine := rest } o)
      | none => moveWaiting rest { s with waitingLine := rest }
    else s

/-- R151: TakeCompletions. -/
def State.takeCompletions (s : State) : State :=
  let t := { s with log := s.log.drop 4 }
  (moveWaiting t.waitingLine t).refreshAttention

def takeCompletionsOwner (body : List Byte) (s : State) : State × Reply :=
  match body with
  | [] =>
    let t := s.takeCompletions
    (t, .done (completionsBody (s.log.take 4) t.log.length t.waitingLine.length))
  | _ => (s, .refuse .badValue)

/-! ### Reallocate (R86) -/

/-- R86: a round, and the round timer restarted. -/
def State.reallocate (s : State) : State := s.round.startRoundTimer

/-- R86: the answer body, as things stand after the round. -/
def State.reallocateBody (s : State) : List Byte :=
  be16 s.feeder.effective ++ be16 s.stranded ++ be16 s.available ++
    [byte (allBays.filter s.eligible).length] ++ be16 s.eligibleTargets

def reallocateOwner (body : List Byte) (s : State) : State × Reply :=
  match body with
  | [] =>
    if s.alloc.clock.isSome then
      let t := s.reallocate
      (t.settle, .done t.reallocateBody)
    else (s, .refuse .clockUnset)
  | _ => (s, .refuse .badValue)

/-! ### Meanings -/

/-- SET_CLOCK (R2). -/
def execSetClock (r : Req) (s : State) : Host.Outcome State Fault Refusal :=
  .next (s.serve r 0x0B plannerOnly setClockOwner)

/-- ADD_ORDER (R7, R8). -/
def execAddOrder (r : Req) (s : State) : Host.Outcome State Fault Refusal :=
  .next (s.serve r 0x0C plannerOnly addOrderOwner)

/-- AMEND_ORDER (R9 to R11). -/
def execAmendOrder (r : Req) (s : State) : Host.Outcome State Fault Refusal :=
  .next (s.serve r 0x0D plannerOnly amendOrderOwner)

/-- CANCEL_ORDER (R20). -/
def execCancelOrder (r : Req) (s : State) : Host.Outcome State Fault Refusal :=
  .next (s.serve r 0x0E plannerOnly cancelOrderOwner)

/-- RELEASE_VAN (R23). -/
def execReleaseVan (r : Req) (s : State) : Host.Outcome State Fault Refusal :=
  .next (s.serve r 0x0F plannerOnly releaseVanOwner)

/-- TAKE_COMPLETIONS (R151). -/
def execTakeCompletions (r : Req) (s : State) : Host.Outcome State Fault Refusal :=
  .next (s.serve r 0x10 plannerOrService takeCompletionsOwner)

/-- REALLOCATE (R86). -/
def execReallocate (r : Req) (s : State) : Host.Outcome State Fault Refusal :=
  .next (s.serve r 0x11 plannerOrSite reallocateOwner)

end Sys2Proof.Machine
end

