-- ==== Sys2Proof/Machine/Posts.lean ====
section
/-! DEFINITION. The meanings of the posts' answers (R127, R129, R131, R141, R143). An answer that fits no exchange on the
line is discarded (R127, R145), and a free line then makes its selection (R126). -/

namespace Sys2Proof.Machine

def Exchange.isGrant : Exchange → Bool
  | .grant _ => true
  | .poll | .wake _ _ | .unlock _ => false

def Exchange.isWake : Exchange → Bool
  | .wake _ _ => true
  | .poll | .grant _ | .unlock _ => false

def Exchange.isUnlock : Exchange → Bool
  | .unlock _ => true
  | .poll | .grant _ | .wake _ _ => false

/-- POST_STATUS (R141, R27): a status answers a poll or a probe. -/
def execPostStatus (b : BayNo) (st : PostStatus) (s : State) : Host.Outcome State Fault Refusal :=
  .next (s.takePostStatus b st).settle

/-- GRANT_OUTCOME (R131): the final outcome of a Grant. -/
def execGrantOutcome (b : BayNo) (o : PostOutcome) (s : State) : Host.Outcome State Fault Refusal :=
  .next (s.takeOutcome b Exchange.isGrant o).settle

/-- WAKE_OUTCOME (R143, R117, R118): the final outcome of a Wake. -/
def execWakeOutcome (b : BayNo) (o : PostOutcome) (s : State) : Host.Outcome State Fault Refusal :=
  .next (s.takeOutcome b Exchange.isWake o).settle

/-- UNLOCK_OUTCOME (R143): the final outcome of an Unlock. -/
def execUnlockOutcome (b : BayNo) (o : PostOutcome) (s : State) : Host.Outcome State Fault Refusal :=
  .next (s.takeOutcome b Exchange.isUnlock o).settle

/-- DEFER_ANSWER (R129): a Defer answers the exchange on the line. -/
def execDeferAnswer (b : BayNo) (s : State) : Host.Outcome State Fault Refusal :=
  .next (s.takeDefer b).settle

end Sys2Proof.Machine
end

