-- ==== Sys2Proof/Machine/Service.lean ====
section
/-! DEFINITION. The Service port's requests: the depot hold, the latches, the technician's bay requests, tables, settings
and Restart, each as its owner carries it out, and their meanings. -/

namespace Sys2Proof.Machine

/-! ### HoldDepot and ResumeDepot (R75, R77) -/

/-- R75: from Running the state becomes Draining, the effective ceiling 0, and the Held condition is checked. -/
def State.holdDepot (s : State) : State :=
  if s.feeder.hold = .running then
    (State.recomputeCeiling { s with feeder := { s.feeder with hold := .draining } }).heldCheck.settle
  else s

def holdDepotOwner (body : List Byte) (s : State) : State × Reply :=
  match body with
  | [] => (s.holdDepot, .done [byte s.holdDepot.feeder.hold.code])
  | _ => (s, .refuse .badValue)

/-- R77: from Draining or Held the state becomes Running; the ceiling is recomputed; with the clock set a round is run
and the round timer restarted. -/
def State.resumeDepot (s : State) : State :=
  if s.feeder.hold = .running then s
  else
    let t := State.recomputeCeiling { s with feeder := { s.feeder with hold := .running } }
    (if s.alloc.clock.isSome then t.round.startRoundTimer else t).settle

def resumeDepotOwner (body : List Byte) (s : State) : State × Reply :=
  match body with
  | [] => (s.resumeDepot, .done [byte s.resumeDepot.feeder.hold.code])
  | _ => (s, .refuse .badValue)

/-! ### ClearLatch (R69, R165) -/

/-- R69: each set flag whose condition is not in force becomes clear, with its Cleared event. R69 gives two Cleared events
of one request no order; FeederWarn before FeederAlarm is the model's choice (entry 37). -/
def State.clearFeederLatch (s : State) : State :=
  let f := s.feeder
  let warn := f.warnFlag && f.warnCond
  let alarm := f.alarmFlag && f.alarmCond
  let t := { s with feeder := { f with warnFlag := warn, alarmFlag := alarm } }
  let u := if f.warnFlag = warn then t else t.append .feederWarn none .cleared
  if f.alarmFlag = alarm then u else u.append .feederAlarm none .cleared

/-- The input a ClearLatch selector names, 1 to 6 (R178). -/
def input? (b : Byte) : Option InputNo :=
  if h : 1 ≤ b.toNat ∧ b.toNat ≤ 6 then some ⟨b.toNat - 1, by omega⟩ else none

/-- R165: filtered state and latched state of an input, as an answer carries them (R178). -/
def State.inputBody (s : State) (y : InputNo) : List Byte := [yesNo (s.input y).active, yesNo (s.input y).latched]

/-- R69, R165: ClearLatch by its selector: 0 the feeder, 1 to 6 an input. An input refused WrongState answers with its
states (R174). -/
def clearLatchOwner (body : List Byte) (s : State) : State × Reply :=
  match body with
  | [sel] =>
    if sel = 0 then (s.clearFeederLatch, .done [s.clearFeederLatch.feederFlagsA])
    else match input? sel with
      | some y =>
        if (s.input y).active then (s, ⟨.wrongState, s.inputBody y⟩)
        else
          let t := s.clearInputLatch y
          (t.settle, .done (t.inputBody y))
      | none => (s, .refuse .badValue)
  | _ => (s, .refuse .badValue)

/-! ### ClearBay, RetryAdmission, SetOverride (R45, R46, R58) -/

def clearBayOwner (body : List Byte) (s : State) : State × Reply :=
  match body with
  | [n] =>
    match bay? n with
    | some b => ((s.clearBay b).settle, .done [byte BayState.off.code])
    | none => (s, .refuse .badValue)
  | _ => (s, .refuse .badValue)

/-- R46: an Unmatched bay becomes Attached with its slots and pack data cleared. -/
def State.retryAdmission (s : State) (b : BayNo) : State :=
  s.updBay b (fun r => { r.clearSlots.clearPack with state := .attached })

def retryAdmissionOwner (body : List Byte) (s : State) : State × Reply :=
  match body with
  | [n] =>
    match bay? n with
    | some b =>
      if (s.bay b).state = .unmatched then (s.retryAdmission b, .done [byte BayState.attached.code])
      else (s, .refuse .wrongState)
    | none => (s, .refuse .badValue)
  | _ => (s, .refuse .badValue)

/-- R58: the override record a body gives, when its fields are in range and Manual mode has its manual cap. The
release-anytime byte is taken as a Yes/No field of R178, 1 for On and 0 for Off, any other byte BadValue: the model's
choice, since R178 spells no On and Off (entry 43). -/
def override? (mode cap index release : Byte) : Option Override :=
  match overrideMode? mode, optByte? 60 cap, optByte? 40 index, yesNo? release with
  | some m, some c, some i, some a => if m = .manual ∧ c = none then none else some ⟨m, c, i, a⟩
  | _, _, _, _ => none

/-- R58: the whole override record and release-anytime flag of a bay are replaced. -/
def State.setOverride (s : State) (b : BayNo) (o : Override) : State := s.updBay b (fun r => { r with ovr := o })

def setOverrideOwner (body : List Byte) (s : State) : State × Reply :=
  match body with
  | [n, mode, cap, index, release] =>
    match bay? n, override? mode cap index release with
    | some b, some o => (s.setOverride b o, .done [n, mode, cap, index, release])
    | _, _ => (s, .refuse .badValue)
  | _ => (s, .refuse .badValue)

/-! ### WriteTable (R60) -/

/-- R60: one entry of a table of the working copy. -/
def Settings.writeTable (w : Settings) (rate : Bool) (i : Fin 41) (v : Nat) : Settings :=
  if rate then { w with rateTable := w.rateTable.set i v } else { w with condTable := w.condTable.set i v }

/-- R60: the table a write names, Rate or Conditioning, with its greatest value. -/
def writeTable? (t : Byte) : Option (Bool × Nat) :=
  match t.toNat with
  | 0 => some (true, 100)
  | 1 => some (false, 15)
  | _ => none

def writeTableOwner (body : List Byte) (s : State) : State × Reply :=
  match body with
  | [t, index, value] =>
    match writeTable? t with
    | some (rate, top) =>
      if h : index.toNat < 41 then
        if value.toNat ≤ top then
          if s.store.commit.isSome then (s, .refuse .busy)
          else (s.withWorking (s.cfg.writeTable rate ⟨index.toNat, h⟩ value.toNat), .done [t, index, value])
        else (s, .refuse .badValue)
      else (s, .refuse .badValue)
    | none => (s, .refuse .badValue)
  | _ => (s, .refuse .badValue)

/-! ### WriteSetting (R180) and StoreSettings (R181) -/

def writeSettingOwner (body : List Byte) (s : State) : State × Reply :=
  match body with
  | [i1, i0, v3, v2, v1, v0] =>
    match settingId? (val16 i1 i0) with
    | some id =>
      match settingValue? id v3 v2 v1 v0 with
      | some v =>
        if s.store.commit.isSome then (s, .refuse .busy)
        else
          let t := s.applySetting id v
          (t.settle, .done ([i1, i0] ++ t.cfg.valueBytes id))
      | none => (s, .refuse .badValue)
    | none => (s, .refuse .badValue)
  | _ => (s, .refuse .badValue)

def storeSettingsOwner (body : List Byte) (s : State) : State × Reply :=
  match body with
  | [] => if s.store.commit.isSome then (s, .refuse .busy) else (s.beginCommit, .done [])
  | _ => (s, .refuse .badValue)

/-! ### Restart (R176) -/

/-- R176: Restart is answered Done; the reset falls when the last byte of the answer has been sent (ANSWER_END). -/
def restartOwner (body : List Byte) (s : State) : State × Reply :=
  match body with
  | [] => (s, .done [])
  | _ => (s, .refuse .badValue)

/-! ### Meanings -/

/-- HOLD_DEPOT (R75). -/
def execHoldDepot (r : Req) (s : State) : Host.Outcome State Fault Refusal :=
  .next (s.serve r 0x15 serviceOnly holdDepotOwner)

/-- RESUME_DEPOT (R77). -/
def execResumeDepot (r : Req) (s : State) : Host.Outcome State Fault Refusal :=
  .next (s.serve r 0x16 serviceOnly resumeDepotOwner)

/-- CLEAR_LATCH_FEEDER (R69): a ClearLatch whose selector is the feeder. -/
def execClearLatchFeeder (r : Req) (s : State) : Host.Outcome State Fault Refusal :=
  .next (s.serve r 0x17 serviceOnly clearLatchOwner)

/-- CLEAR_LATCH_INPUT (R165): a ClearLatch whose selector is an input. -/
def execClearLatchInput (r : Req) (s : State) : Host.Outcome State Fault Refusal :=
  .next (s.serve r 0x17 serviceOnly clearLatchOwner)

/-- CLEAR_BAY (R45). -/
def execClearBay (r : Req) (s : State) : Host.Outcome State Fault Refusal :=
  .next (s.serve r 0x18 serviceOnly clearBayOwner)

/-- RETRY_ADMISSION (R46). -/
def execRetryAdmission (r : Req) (s : State) : Host.Outcome State Fault Refusal :=
  .next (s.serve r 0x19 serviceOnly retryAdmissionOwner)

/-- SET_OVERRIDE (R58). -/
def execSetOverride (r : Req) (s : State) : Host.Outcome State Fault Refusal :=
  .next (s.serve r 0x1A serviceOnly setOverrideOwner)

/-- WRITE_TABLE (R60). -/
def execWriteTable (r : Req) (s : State) : Host.Outcome State Fault Refusal :=
  .next (s.serve r 0x1B serviceOnly writeTableOwner)

/-- WRITE_SETTING (R180). -/
def execWriteSetting (r : Req) (s : State) : Host.Outcome State Fault Refusal :=
  .next (s.serve r 0x1C serviceOnly writeSettingOwner)

/-- STORE_SETTINGS (R181). -/
def execStoreSettings (r : Req) (s : State) : Host.Outcome State Fault Refusal :=
  .next (s.serve r 0x1D serviceOnly storeSettingsOwner)

/-- RESTART (R176). -/
def execRestart (r : Req) (s : State) : Host.Outcome State Fault Refusal :=
  .next (s.serve r 0x1E serviceOnly restartOwner)

end Sys2Proof.Machine
end

