-- ==== Sys2Proof/Machine/Site.lean ====
section
/-! DEFINITION. The Site port's requests: SetCeiling, ReportMeter and SetTariff, each as the Feeder unit carries it out,
and their meanings. -/

namespace Sys2Proof.Machine

/-! ### SetCeiling (R64) -/

/-- R64: the site ceiling takes the value, and the effective ceiling is recomputed. -/
def State.setCeiling (s : State) (kw : Nat) : State :=
  State.recomputeCeiling { s with feeder := { s.feeder with site := some kw } }

def setCeilingOwner (body : List Byte) (s : State) : State × Reply :=
  match body with
  | [c1, c0] =>
    if val16 c1 c0 ≤ 2000 then
      let t := s.setCeiling (val16 c1 c0)
      (t.settle, .done (be16 (val16 c1 c0) ++ be16 t.feeder.effective))
    else (s, .refuse .badValue)
  | _ => (s, .refuse .badValue)

/-! ### ReportMeter (R65, R67, R68, R70) -/

/-- R68: a flag takes a new value, with its event when it changes. -/
def State.flagEvent (s : State) (kind : EventKind) (old new : Bool) : State :=
  if old = new then s else s.append kind none (if new then .raised else .cleared)

/-- R65 steps 1 to 3: the load, the stale timer, and a stale meter that becomes fresh with MeterBack. -/
def State.meterArrives (s : State) (load : Nat) : State :=
  let t := { s with
    feeder := { s.feeder with load := load, stale := false, staleTimer := some (s.elapsed + Config.staleTime) } }
  if s.feeder.stale then t.append .meterBack none .raised else t

/-- R67, R68: the conditions are evaluated and the flags and their events follow, FeederWarn before FeederAlarm. -/
def State.evaluateMeter (s : State) (load : Nat) : State :=
  let f := s.feeder
  let warn := conditionAfter f.warnCond load s.cfg.warnThreshold s.cfg.hysteresis
  let alarm := conditionAfter f.alarmCond load s.cfg.alarmThreshold s.cfg.hysteresis
  let warnFlag := flagAfter s.cfg.warnLatch warn f.warnFlag
  let alarmFlag := flagAfter s.cfg.alarmLatch alarm f.alarmFlag
  let t := { s with
    feeder := { f with warnCond := warn, alarmCond := alarm, warnFlag := warnFlag, alarmFlag := alarmFlag } }
  (t.flagEvent .feederWarn f.warnFlag warnFlag).flagEvent .feederAlarm f.alarmFlag alarmFlag

/-- R70: the alarm cut is recomputed from the load and the alarm threshold. -/
def State.recomputeCut (s : State) (load : Nat) : State :=
  { s with feeder := { s.feeder with cut := load - s.cfg.alarmThreshold } }

/-- R65: an accepted report, in the order of its steps. -/
def State.reportMeter (s : State) (load : Nat) : State :=
  (((s.meterArrives load).evaluateMeter load).recomputeCut load).recomputeCeiling

def reportMeterOwner (body : List Byte) (s : State) : State × Reply :=
  match body with
  | [l1, l0] =>
    if val16 l1 l0 ≤ 4000 then
      let t := s.reportMeter (val16 l1 l0)
      (t.settle, .done (be16 (val16 l1 l0) ++ [t.feederFlagsA] ++ be16 t.feeder.effective))
    else (s, .refuse .badValue)
  | _ => (s, .refuse .badValue)

/-! ### SetTariff (R72) -/

/-- R72: the list replaces the whole list, sorted by start. -/
def State.setTariff (s : State) (ws : List Window) : State :=
  { s with feeder := { s.feeder with tariff := sortWindows ws } }

def setTariffOwner (body : List Byte) (s : State) : State × Reply :=
  match body with
  | n :: rest =>
    if n.toNat ≤ 8 ∧ rest.length = 9 * n.toNat then
      match windows? n.toNat rest with
      | some ws => if noOverlap ws then (s.setTariff ws, .done [n]) else (s, .refuse .badValue)
      | none => (s, .refuse .badValue)
    else (s, .refuse .badValue)
  | [] => (s, .refuse .badValue)

/-! ### Meanings -/

/-- SET_CEILING (R64). -/
def execSetCeiling (r : Req) (s : State) : Host.Outcome State Fault Refusal :=
  .next (s.serve r 0x12 siteOnly setCeilingOwner)

/-- REPORT_METER (R65). -/
def execReportMeter (r : Req) (s : State) : Host.Outcome State Fault Refusal :=
  .next (s.serve r 0x13 siteOnly reportMeterOwner)

/-- SET_TARIFF (R72). -/
def execSetTariff (r : Req) (s : State) : Host.Outcome State Fault Refusal :=
  .next (s.serve r 0x14 siteOnly setTariffOwner)

end Sys2Proof.Machine
end

