-- ==== Sys2Proof/Machine/Timers.lean ====
section
/-! DEFINITION. The meanings of the timer expiries. An expiry runs time forward to the moment its timer runs out, if that
lies ahead (entry 2); a timer that has been stopped does not expire, and the command then does nothing. -/

namespace Sys2Proof.Machine

/-- ROUND_TIMER_EXPIRY (R85): one round, and the timer starts again. -/
def execRoundTimerExpiry (s : State) : Host.Outcome State Fault Refusal :=
  match s.alloc.roundTimer with
  | some due => .next ((s.runTo due).round.startRoundTimer).settle
  | none => .next s

/-- R66: the meter becomes stale, MeterStale is appended, and the safe ceiling enters the minimum. -/
def State.meterStale (s : State) : State :=
  (State.append { s with feeder := { s.feeder with stale := true, staleTimer := none } } .meterStale none
    .raised).recomputeCeiling

/-- STALE_TIMER_EXPIRY (R66). -/
def execStaleTimerExpiry (s : State) : Host.Outcome State Fault Refusal :=
  match s.feeder.staleTimer with
  | some due => .next ((s.runTo due).meterStale).settle
  | none => .next s

/-- ADMISSION_TIMER_EXPIRY (R36): the admission of an Admitting bay whose timer runs has failed. -/
def execAdmissionTimerExpiry (b : BayNo) (s : State) : Host.Outcome State Fault Refusal :=
  match (s.bay b).state, (s.bay b).admTimer with
  | .admitting, some due => .next ((s.runTo due).admissionTimeout b)
  | _, _ => .next s

/-- DORMANCY_EXPIRY (R112): a Bound bay whose dormancy timer runs becomes Dormant. -/
def execDormancyExpiry (b : BayNo) (s : State) : Host.Outcome State Fault Refusal :=
  match (s.bay b).state, (s.bay b).dormTimer with
  | .bound, some due => .next ((s.runTo due).becomeDormant b).settle
  | _, _ => .next s

/-- WAKE_WINDOW_EXPIRY (R120): the wake window of a Waking bay runs out. -/
def execWakeWindowExpiry (b : BayNo) (s : State) : Host.Outcome State Fault Refusal :=
  match (s.bay b).state, (s.bay b).wakeWindow with
  | .waking, some due => .next ((s.runTo due).wakeWindowOver b)
  | _, _ => .next s

/-- ANSWER_WINDOW_EXPIRY (R128): the answer window of the exchange on the line runs out. -/
def execAnswerWindowExpiry (s : State) : Host.Outcome State Fault Refusal := .next s.runWindow.settle

/-- DEFER_RETRY_DUE (R129): the retry of a deferred exchange falls due; a free line makes its selection. -/
def execDeferRetryDue (b : BayNo) (s : State) : Host.Outcome State Fault Refusal :=
  match (s.lineBay b).opn with
  | some ⟨_, some due, _, _⟩ => .next (s.runTo due).settle
  | _ => .next s

/-- KEEP_ALIVE_DUE (R138): the keep-alive due time of a bay comes; a free line makes its selection. -/
def execKeepAliveDue (b : BayNo) (s : State) : Host.Outcome State Fault Refusal :=
  match (s.lineBay b).keepDue with
  | some due => .next (s.runTo due).settle
  | none => .next s

/-- PROBE_SPACING_END (R140): the 5 s spacing runs out with a probe owed; a free line makes its selection. -/
def execProbeSpacingEnd (s : State) : Host.Outcome State Fault Refusal :=
  if s.line.probeOwed then
    match s.line.lastProbe with
    | some t => .next (s.runTo (t + Config.probeSpacing)).settle
    | none => .next s.settle
  else .next s

end Sys2Proof.Machine
end

