-- ==== Sys2Proof/Machine/Dispatch.lean ====
section
/-! DEFINITION. One arm per command. -/

namespace Sys2Proof.Machine

/-- The effect of a command on everything but the queue. -/
def exec (i : Instr) (s : State) : Host.Outcome State Fault Refusal :=
  match i with
  | .readIdentity r => Sys2Proof.Machine.execReadIdentity r s
  | .readOrder r => Sys2Proof.Machine.execReadOrder r s
  | .listRoster r => Sys2Proof.Machine.execListRoster r s
  | .readBay r => Sys2Proof.Machine.execReadBay r s
  | .readFeeder r => Sys2Proof.Machine.execReadFeeder r s
  | .readTable r => Sys2Proof.Machine.execReadTable r s
  | .readSetting r => Sys2Proof.Machine.execReadSetting r s
  | .peekCompletions r => Sys2Proof.Machine.execPeekCompletions r s
  | .takeEvents r => Sys2Proof.Machine.execTakeEvents r s
  | .setAttention r => Sys2Proof.Machine.execSetAttention r s
  | .setClock r => Sys2Proof.Machine.execSetClock r s
  | .addOrder r => Sys2Proof.Machine.execAddOrder r s
  | .amendOrder r => Sys2Proof.Machine.execAmendOrder r s
  | .cancelOrder r => Sys2Proof.Machine.execCancelOrder r s
  | .releaseVan r => Sys2Proof.Machine.execReleaseVan r s
  | .takeCompletions r => Sys2Proof.Machine.execTakeCompletions r s
  | .reallocate r => Sys2Proof.Machine.execReallocate r s
  | .setCeiling r => Sys2Proof.Machine.execSetCeiling r s
  | .reportMeter r => Sys2Proof.Machine.execReportMeter r s
  | .setTariff r => Sys2Proof.Machine.execSetTariff r s
  | .holdDepot r => Sys2Proof.Machine.execHoldDepot r s
  | .resumeDepot r => Sys2Proof.Machine.execResumeDepot r s
  | .clearLatchFeeder r => Sys2Proof.Machine.execClearLatchFeeder r s
  | .clearLatchInput r => Sys2Proof.Machine.execClearLatchInput r s
  | .clearBay r => Sys2Proof.Machine.execClearBay r s
  | .retryAdmission r => Sys2Proof.Machine.execRetryAdmission r s
  | .setOverride r => Sys2Proof.Machine.execSetOverride r s
  | .writeTable r => Sys2Proof.Machine.execWriteTable r s
  | .writeSetting r => Sys2Proof.Machine.execWriteSetting r s
  | .storeSettings r => Sys2Proof.Machine.execStoreSettings r s
  | .restart r => Sys2Proof.Machine.execRestart r s
  | .unknownRequest r kind => Sys2Proof.Machine.execUnknownRequest r kind s
  | .frameCheckFail p => Sys2Proof.Machine.execFrameCheckFail p s
  | .frameGap p ending => Sys2Proof.Machine.execFrameGap p ending s
  | .answerEnd p => Sys2Proof.Machine.execAnswerEnd p s
  | .reset cause => Sys2Proof.Machine.execReset cause s
  | .roundTimerExpiry => Sys2Proof.Machine.execRoundTimerExpiry s
  | .staleTimerExpiry => Sys2Proof.Machine.execStaleTimerExpiry s
  | .admissionTimerExpiry b => Sys2Proof.Machine.execAdmissionTimerExpiry b s
  | .dormancyExpiry b => Sys2Proof.Machine.execDormancyExpiry b s
  | .wakeWindowExpiry b => Sys2Proof.Machine.execWakeWindowExpiry b s
  | .answerWindowExpiry => Sys2Proof.Machine.execAnswerWindowExpiry s
  | .deferRetryDue b => Sys2Proof.Machine.execDeferRetryDue b s
  | .keepAliveDue b => Sys2Proof.Machine.execKeepAliveDue b s
  | .probeSpacingEnd => Sys2Proof.Machine.execProbeSpacingEnd s
  | .filterTimerExpiry y => Sys2Proof.Machine.execFilterTimerExpiry y s
  | .lineChange y high => Sys2Proof.Machine.execLineChange y high s
  | .commitEnd good => Sys2Proof.Machine.execCommitEnd good s
  | .postStatus b st => Sys2Proof.Machine.execPostStatus b st s
  | .grantOutcome b o => Sys2Proof.Machine.execGrantOutcome b o s
  | .wakeOutcome b o => Sys2Proof.Machine.execWakeOutcome b o s
  | .unlockOutcome b o => Sys2Proof.Machine.execUnlockOutcome b o s
  | .deferAnswer b => Sys2Proof.Machine.execDeferAnswer b s
  | .startByte p => Sys2Proof.Machine.execStartByte p s
  | .badLength p len => Sys2Proof.Machine.execBadLength p len s

end Sys2Proof.Machine
end

