-- ==== Sys2Proof/Machine/Timeline.lean ====
section
/-! DEFINITION. What time does on its own: which expiry an idle block owes, and the tick of an idle step (entry 1). -/

namespace Sys2Proof.Machine

/-- Whether a timer that runs out at a moment has done so. -/
def State.isDue (s : State) (due : Option Nat) : Bool :=
  match due with
  | some t => decide (t ≤ s.elapsed)
  | none => false

/-- The first bay whose timer is due, with the command of its expiry. -/
def State.dueBay (s : State) (timer : BayNo → Option Nat) (command : BayNo → Instr) : Option Instr :=
  (allBays.find? (fun b => s.isDue (timer b))).map command

/-- The timer of a bay, running only in the state its rule names. -/
def State.bayTimer (s : State) (st : BayState) (timer : BayRec → Option Nat) (b : BayNo) : Option Nat :=
  if (s.bay b).state = st then timer (s.bay b) else none

/-- The end of the answer window of what the line carries (R127). -/
def State.windowDue (s : State) : Option Nat := s.line.carrying.map (fun c => c.windowDue)

/-- The expiry the free line owes: a due retry, a due keep-alive, or the end of the probe spacing with a probe owed
(R126). -/
def State.lineDue (s : State) : Option Instr :=
  if s.line.carrying.isSome then none
  else match allBays.find? s.retryIsDue with
    | some b => some (.deferRetryDue b)
    | none => match allBays.find? s.keepAliveReady with
      | some b => some (.keepAliveDue b)
      | none =>
        if s.line.probeOwed && s.spacingOver && allBays.any s.probeable then some .probeSpacingEnd else none

/-- The expiry of the commit in flight, at the longest time a commit takes; its read-back is a free value (R181, R182,
entry 8). -/
def State.commitDue (s : State) : Option Instr :=
  match s.store.commit with
  | some c => if c.due ≤ s.elapsed then some (.commitEnd (Config.readBackGood s.freeCount)) else none
  | none => none

/-- The expiry that is due at the present moment, absent when none is. Expiries that fall together are taken in this
order on idle steps; every other order is that of commands in the queue (entry 1). -/
def State.dueCommand (s : State) : Option Instr :=
  (allInputs.find? (fun y => s.isDue ((s.input y).pending.map (fun p => p.due)))).map Instr.filterTimerExpiry
    <|> (if s.isDue s.windowDue then some .answerWindowExpiry else none)
    <|> s.lineDue
    <|> (if s.isDue s.feeder.staleTimer then some .staleTimerExpiry else none)
    <|> s.dueBay (s.bayTimer .admitting (fun r => r.admTimer)) .admissionTimerExpiry
    <|> s.dueBay (s.bayTimer .bound (fun r => r.dormTimer)) .dormancyExpiry
    <|> s.dueBay (s.bayTimer .waking (fun r => r.wakeWindow)) .wakeWindowExpiry
    <|> (if s.isDue s.alloc.roundTimer then some .roundTimerExpiry else none)
    <|> s.commitDue

/-- A tick: one millisecond of elapsed time. -/
def State.tick (s : State) : State := { s with elapsed := s.elapsed + 1 }

/-- The free value a command from `dueCommand` has used is counted. -/
def State.countFree (s : State) (c : Instr) : State :=
  match c with
  | .commitEnd _ => { s with freeCount := s.freeCount + 1 }
  | _ => s

/-- What a step does on an empty queue: the expiry that is due, as its command does it, or a tick. -/
def State.idle (s : State) : Host.Outcome State Fault Refusal :=
  match s.dueCommand with
  | some c => exec c (s.countFree c)
  | none => .next s.tick

end Sys2Proof.Machine
end

