-- ==== Sys2Proof/Safety.lean ====
section
/-! DEFINITION. What the statements speak of: when a port takes a frame and what an answered request leaves, the
catalogue's tables as the manual lists them, and the laws the manual says hold at every moment. No step of the machine
reads anything of this file. -/

namespace Sys2Proof

/-! ### The request catalogue (R175, R178) -/

/-- The request a command carries, with its request code. -/
def Instr.request? : Instr → Option (Byte × Req)
  | .readIdentity r => some (0x01, r)
  | .readOrder r => some (0x02, r)
  | .listRoster r => some (0x03, r)
  | .readBay r => some (0x04, r)
  | .readFeeder r => some (0x05, r)
  | .readTable r => some (0x06, r)
  | .readSetting r => some (0x07, r)
  | .peekCompletions r => some (0x08, r)
  | .takeEvents r => some (0x09, r)
  | .setAttention r => some (0x0A, r)
  | .setClock r => some (0x0B, r)
  | .addOrder r => some (0x0C, r)
  | .amendOrder r => some (0x0D, r)
  | .cancelOrder r => some (0x0E, r)
  | .releaseVan r => some (0x0F, r)
  | .takeCompletions r => some (0x10, r)
  | .reallocate r => some (0x11, r)
  | .setCeiling r => some (0x12, r)
  | .reportMeter r => some (0x13, r)
  | .setTariff r => some (0x14, r)
  | .holdDepot r => some (0x15, r)
  | .resumeDepot r => some (0x16, r)
  | .clearLatchFeeder r | .clearLatchInput r => some (0x17, r)
  | .clearBay r => some (0x18, r)
  | .retryAdmission r => some (0x19, r)
  | .setOverride r => some (0x1A, r)
  | .writeTable r => some (0x1B, r)
  | .writeSetting r => some (0x1C, r)
  | .storeSettings r => some (0x1D, r)
  | .restart r => some (0x1E, r)
  | .unknownRequest _ _ | .frameCheckFail _ | .frameGap _ _ | .answerEnd _ | .reset _ | .roundTimerExpiry
  | .staleTimerExpiry | .admissionTimerExpiry _ | .dormancyExpiry _ | .wakeWindowExpiry _ | .answerWindowExpiry
  | .deferRetryDue _ | .keepAliveDue _ | .probeSpacingEnd | .filterTimerExpiry _ | .lineChange _ _ | .commitEnd _
  | .postStatus _ _ | .grantOutcome _ _ | .wakeOutcome _ _ | .unlockOutcome _ _ | .deferAnswer _ | .startByte _
  | .badLength _ _ => none

/-- The roles the table of R175 gives a request code, Planner, Site and Service. -/
def rolesOf (code : Nat) : List Port :=
  if code ≤ 0x0A then [.planner, .site, .service]
  else if code ≤ 0x0F then [.planner]
  else if code = 0x10 then [.planner, .service]
  else if code = 0x11 then [.planner, .site]
  else if code ≤ 0x14 then [.site]
  else [.service]

/-- The size the catalogue gives the body of a request code; SetTariff's follows from its count. -/
def bodySize (code : Nat) : Option Nat :=
  [none, some 0, some 2, some 1, some 1, some 0, some 3, some 2, some 0, some 0, some 2, some 4, some 16, some 17,
    some 2, some 2, some 0, some 0, some 2, some 2, none, some 0, some 0, some 1, some 1, some 1, some 5, some 3,
    some 6, some 0, some 0].getD code none

/-- The flags of a flag byte, from the least significant bit up (R178). -/
def bitsOf (b : Byte) : List Bool := (List.range 8).map b.getLsbD

namespace Machine

/-! ### Answered requests (R169, R174) -/

/-- A receive slot that takes a frame: Listening, or Receiving the frame itself (R169, R172). -/
def Slot.takes : Slot → Bool
  | .listening | .receiving => true
  | .held _ => false

/-- The port takes a frame. -/
def State.takes (s : State) (p : Port) : Bool := (s.port p).slot.takes

/-- The state with the slot of a request's port Held by an answer: the request's sequence byte, its code with the top
bit set, a status and a body (R174). -/
def State.answered (s : State) (r : Req) (code : Byte) (status : Status) (body : List Byte) : State :=
  s.withSlot r.port (.held ⟨r.seq, code ||| 0x80, status, body⟩)

/-! ### Laws that hold at every moment -/

/-- The collections keep their capacities: the event queue (R155, with its overflow law), the completion log and the
waiting line (R149, R150), the roster (R6) and the tariff list (R71). -/
abbrev State.collectionsBounded (s : State) : Prop :=
  s.events.queue.length ≤ 16 ∧ (s.events.overflow = true → s.events.queue.length = 16) ∧ s.log.length ≤ 32 ∧
    (s.waitingLine ≠ [] → s.log.length = 32) ∧ s.roster.length ≤ 40 ∧ s.feeder.tariff.length ≤ 8

/-- R159: a port's line is asserted while the queue holds a record of a class in its mask, or its completions flag is Yes
and the log is not empty; deasserted otherwise. -/
abbrev State.attentionRight (s : State) : Prop :=
  s.planner.attention = attentionFor s.planner.mask s.events.queue s.log ∧
    s.site.attention = attentionFor s.site.mask s.events.queue s.log ∧
    s.service.attention = attentionFor s.service.mask s.events.queue s.log

/-- R79, R80: the effective ceiling is the one its inputs compose. -/
abbrev State.ceilingRight (s : State) : Prop := s.feeder.effective = ceilingOf s.feeder s.cfg

/-- R164: the Feeder unit's Stop and Derate conditions are those of the inputs in force. -/
abbrev State.conditionsRight (s : State) : Prop :=
  s.feeder.stop = s.roleInForce .stop ∧ s.feeder.derate = s.roleInForce .derate

/-- R71, R72: every window starts before it ends, and the list is in order with no overlap. -/
abbrev State.tariffInOrder (s : State) : Prop :=
  (∀ w ∈ s.feeder.tariff, w.start < w.stop) ∧ s.feeder.tariff.Pairwise (fun v w => v.stop ≤ w.start)

/-- R5, R6: the roster is in ascending order of departure, and no two orders have one tag. -/
abbrev State.rosterInOrder (s : State) : Prop :=
  s.roster.Pairwise (fun o p => o.departure ≤ p.departure) ∧ s.roster.Pairwise (fun o p => o.tag ≠ p.tag)

/-- R6: no two orders that are not Closed have one van key. -/
abbrev State.keysUnique (s : State) : Prop :=
  s.roster.Pairwise (fun o p => o.state ≠ .closed → p.state ≠ .closed → o.key ≠ p.key)

/-- R12, R25: the order a bay is bound to is in the roster, in a bound state, and bound to that bay. -/
abbrev State.bindingsRight (s : State) : Prop :=
  ∀ b : BayNo, ∀ tag ∈ (s.bay b).boundOrder, ∃ o ∈ s.roster, o.tag = tag ∧ o.state.isBound = true ∧ o.boundBay = some b

/-- R150: the waiting line holds Closed orders of the roster, each once. -/
abbrev State.waitingLineRight (s : State) : Prop :=
  s.waitingLine.Nodup ∧ ∀ tag ∈ s.waitingLine, ∃ o ∈ s.roster, o.tag = tag ∧ o.state = .closed

/-- The records of the orders agree with each other and with the bays and the waiting line. -/
abbrev State.recordsRight (s : State) : Prop :=
  s.rosterInOrder ∧ s.keysUnique ∧ s.bindingsRight ∧ s.waitingLineRight

/-- R103, its first two laws: the targets of the eligible bays fit in the available power; a bay that is not eligible has
target 0; a nonzero target lies between the post minimum and the stored cap, its bay in the stored ranking, and a stored
cap does not exceed the post rating. -/
abbrev State.targetsRight (s : State) : Prop :=
  s.eligibleTargets ≤ s.available ∧
    ∀ b : BayNo, (s.eligible b = false → s.target b = 0) ∧ s.cap b ≤ s.rating b ∧
      (0 < s.target b → s.cfg.postMin ≤ s.target b ∧ s.target b ≤ s.cap b ∧ b ∈ s.alloc.ranking)

end Machine

end Sys2Proof
end

