-- ==== Sys2Proof/Certificates/Slice0/Obligations.lean ====
section
/-! DEFINITION. The statements for the provers, each under its name; OBLIGATIONS.json says what each claims and which
rule it rests on. They speak of every state, reached or not; where one needs more of the state it says so. -/

section

open Sys2Proof Sys2Proof.Machine

/-! ### The block and its queue -/

/-- A step with a command at the front of the queue is that command on the queue's rest. -/
def Obligations.StepRunsFrontCommand : Prop :=
  ∀ (c : Instr) (s : State), step { s with pending := c :: s.pending } = exec c s

/-- Model's choice (entry 1): on an empty queue the expiry that is due acts as its command does, a free value it uses
being counted, and with none due one millisecond passes. -/
def Obligations.EmptyQueueLetsTimeRun : Prop :=
  ∀ s : State, s.pending = [] →
    (∀ c, s.dueCommand = some c → step s = exec c (s.countFree c)) ∧
      (s.dueCommand = none → step s = .next { s with elapsed := s.elapsed + 1 })

/-- Model's choice: no command stops the device (entry 34), and none touches the commands that wait behind it, a reset
included (entry 33). -/
def Obligations.EveryCommandRunsAndKeepsTheQueue : Prop :=
  ∀ (i : Instr) (s : State), ∃ t, exec i s = .next t ∧ t.pending = s.pending

/-! ### Laws that hold at every moment -/

/-- R155, R149, R150, R6, R71: every collection keeps its capacity, R159: every attention line is right, R79, R80: the
effective ceiling is always the one its inputs compose, and R164: the Stop and Derate conditions are always those of the
inputs in force. -/
def Obligations.StepKeepsCollectionsAttentionAndCeiling : Prop :=
  ∀ s t : State, step s = .next t → (s.collectionsBounded → t.collectionsBounded) ∧
    (s.attentionRight → t.attentionRight) ∧ (s.ceilingRight → t.ceilingRight) ∧ (s.conditionsRight → t.conditionsRight)

/-- R6, R12, R150: the roster keeps its order and its tags unique, and with them no two orders that are not Closed ever
have one van key, a bay's bound order stays a bound order of the roster, and the waiting line holds Closed orders. -/
def Obligations.StepKeepsOrderRecords : Prop :=
  ∀ s t : State, step s = .next t → s.recordsRight → t.recordsRight

/-- R5, R6: the roster stays in order with unique tags, and R71, R72: the tariff list in order with no overlap. -/
def Obligations.StepKeepsListsInOrder : Prop :=
  ∀ s t : State, step s = .next t → (s.rosterInOrder → t.rosterInOrder) ∧ (s.tariffInOrder → t.tariffInOrder)

/-- R103: the laws of the targets. Where the records of the orders agree, every step keeps the first two: the targets of
the eligible bays and the stranded exposure fit under the effective ceiling, or the stranded exposure alone exceeds it and
every target is 0. With the effective ceiling the one its inputs compose they give the third: under a hold or a Stop every
target is 0. -/
def Obligations.StepKeepsTargetLaws : Prop :=
  (∀ s t : State, step s = .next t → s.recordsRight → s.targetsRight → t.targetsRight) ∧
  ∀ s : State, s.targetsRight →
    (s.eligibleTargets + s.stranded ≤ s.feeder.effective ∨
      (s.feeder.effective < s.stranded ∧ ∀ b : BayNo, s.target b = 0)) ∧
    (s.ceilingRight → s.feeder.hold ≠ .running ∨ s.feeder.stop = true → ∀ b : BayNo, s.target b = 0)

/-! ### Reset -/

/-- What the machine holds right after reset, which meets every law. The model's choice: the image's content and with it
the settings (entry 5), the line levels (entry 6), that the first probe of R184 and R140 is on the line already (entry 4),
and that start-up takes no elapsed time, so that it was sent at 0 (entry 29). The image's check is the free value of
entry 9. -/
def Obligations.ResetStateValuesMeetTheLaws : Prop :=
  let z := State.reset
  (z.collectionsBounded ∧ z.attentionRight ∧ z.ceilingRight ∧ z.conditionsRight ∧ z.tariffInOrder ∧ z.recordsRight ∧
    z.targetsRight) ∧
  (z.pending = [] ∧ z.elapsed = 0 ∧ z.roster = [] ∧ z.waitingLine = [] ∧ z.log = [] ∧ z.events = ⟨[], false⟩) ∧
    (∀ b : BayNo, z.bay b =
      { state := .off, identity := none, packSlot := none, lockSlot := false, step := none, admTimer := none, pack := none,
        lastFrame := none, plugIn := false, output := 0, counter := 0, limit := 0, boundOrder := none, baseline := 0,
        conflict := false, dormTimer := none, dormantSince := none, tryCount := 0, retryAt := none, wakePending := false,
        wakeWindow := none, barred := false, ovr := ⟨.table, none, none, false⟩ }) ∧
    (z.feeder =
      { site := none, load := 0, stale := true, staleTimer := none, warnCond := false, alarmCond := false,
        warnFlag := false, alarmFlag := false, cut := 0, tariff := [], hold := .running, stop := false, derate := false,
        effective := 150 }) ∧
    (z.alloc.clock = none ∧ z.alloc.roundTimer = none ∧ z.alloc.ranking = [] ∧
      ∀ b : BayNo, z.target b = 0 ∧ z.cap b = 0 ∧ z.alloc.limits[b] = none) ∧
    (∀ b : BayNo, (z.lineBay b).held = 0 ∧ (z.lineBay b).pGrant = none ∧ (z.lineBay b).pWake = none ∧
      (z.lineBay b).pUnlock = none ∧ (z.lineBay b).silent = 0 ∧ (z.lineBay b).refuse = 0 ∧
      (z.lineBay b).keepDue = none ∧ (z.lineBay b).increase = false ∧
      (z.lineBay b).opn = if b = 0 then some ⟨.poll, none, 0, 0⟩ else none) ∧
    (z.line.carrying = some ⟨0, .poll, 50, false, false⟩ ∧ z.line.pollPos = 0 ∧ z.line.probePos = 1 ∧
      z.line.probeOwed = false ∧ z.line.lastProbe = some 0) ∧
    (z.planner = ⟨.listening, ⟨0x21, true⟩, false⟩ ∧ z.site = ⟨.listening, ⟨0x04, false⟩, false⟩ ∧
      z.service = ⟨.listening, ⟨0x3E, false⟩, false⟩) ∧
    (∀ y : InputNo, z.input y = ⟨false, false, none, false⟩) ∧
    (z.store.commit = none ∧ z.store.working = Settings.factory ∧
      z.store.image = ⟨Settings.factory, 1, Config.imageCheck Settings.factory 1⟩)

/-- R184 with R183, R182, R125 and R140: what any reset makes of any state, up to the first selection, which probes the
first enabled bay. The model's choice: the queue is kept (entry 33), the first selection is made within the reset, at
elapsed time 0 (entries 4 and 29), and with no enabled bay the empty pass leaves the probe owed (entry 19). -/
def Obligations.ResetClearsEveryUnit : Prop :=
  ∀ (cause : ResetCause) (s : State), ∃ t, exec (.reset cause) s = .next t ∧
    (t.pending = s.pending ∧ t.elapsed = 0 ∧ t.roster = [] ∧ t.waitingLine = [] ∧ t.log = []) ∧
    (∀ b, t.bay b = State.reset.bay b) ∧ t.alloc = State.reset.alloc ∧
    (s.store.commit = none → t.store.image = s.store.image) ∧
    (let image := t.store.image
    let good : Bool := image.check == Config.imageCheck image.content image.format && image.format == 1
    (∀ c, s.store.commit = some c → image = s.store.image ∨
        image = ⟨c.content, 1, Config.imageCheck c.content 1⟩ ∨
        image.check ≠ Config.imageCheck image.content image.format) ∧
      t.store.commit = none ∧ t.store.working = (if good then image.content else Settings.factory) ∧
      t.events = ⟨if good then [] else [⟨.settingsLost, none, .raised, .elapsed 0⟩], false⟩) ∧
    (t.planner.slot = .listening ∧ t.site.slot = .listening ∧ t.service.slot = .listening ∧
      t.planner.mask = t.cfg.maskPlanner ∧ t.site.mask = t.cfg.maskSite ∧ t.service.mask = t.cfg.maskService) ∧
    t.attentionRight ∧
    (∀ y, (t.input y).levelHigh = (s.input y).levelHigh ∧
      (t.input y).active = ((s.input y).levelHigh == (t.inputCfg y).activeHigh) ∧ (t.input y).pending = none ∧
      (t.input y).latched = ((t.input y).active && (t.inputCfg y).latch)) ∧
    t.conditionsRight ∧ t.ceilingRight ∧
    (t.feeder.site = none ∧ t.feeder.load = 0 ∧ t.feeder.stale = true ∧ t.feeder.staleTimer = none ∧
      t.feeder.warnCond = false ∧ t.feeder.alarmCond = false ∧ t.feeder.warnFlag = false ∧
      t.feeder.alarmFlag = false ∧ t.feeder.cut = 0 ∧ t.feeder.tariff = [] ∧ t.feeder.hold = .running) ∧
    (let first := (List.finRange 24).find? t.enabled
    (∀ b, t.lineBay b =
      { held := 0, opn := if first = some b then some ⟨.poll, none, 0, 0⟩ else none, pGrant := none, pWake := none,
        pUnlock := none, silent := 0, refuse := 0, keepDue := none, increase := false }) ∧
    t.line.carrying = first.map (fun b => ⟨b, .poll, 50, false, false⟩) ∧ t.line.pollPos = 0 ∧
    t.line.probePos = (match first with
      | some b => b + 1
      | none => 0) ∧
    t.line.probeOwed = first.isNone ∧ t.line.lastProbe = first.map (fun _ => 0))

/-! ### Frames and requests -/

/-- R170 to R172: the start byte, a bad length, a gap and a failed check move the slot and nothing else, and a Held slot
takes nothing at all. -/
def Obligations.FrameBytesMoveTheSlot : Prop :=
  (∀ (p : Port) (s : State), s.takes p = false →
    (∀ i code r, i.request? = some (code, r) → r.port = p → exec i s = .next s) ∧
      (∀ r kind, r.port = p → exec (.unknownRequest r kind) s = .next s) ∧
      exec (.startByte p) s = .next s ∧ (∀ len, exec (.badLength p len) s = .next s) ∧
      exec (.frameCheckFail p) s = .next s ∧ ∀ ending, exec (.frameGap p ending) s = .next s) ∧
  ∀ (p : Port) (s : State),
    ((s.port p).slot = .listening → exec (.startByte p) s = .next (s.withSlot p .receiving) ∧
      (∀ len, exec (.badLength p len) s = .next s) ∧
      exec (.frameCheckFail p) s = .next s ∧ ∀ ending, exec (.frameGap p ending) s = .next s) ∧
    ((s.port p).slot = .receiving →
      exec (.startByte p) s = .next s ∧
      (∀ len : Byte, 2 ≤ len.toNat → exec (.badLength p len) s = .next s) ∧
      (∀ len : Byte, len.toNat < 2 → exec (.badLength p len) s = .next (s.withSlot p .listening)) ∧
      exec (.frameCheckFail p) s = .next (s.withSlot p .listening) ∧
      exec (.frameGap p none) s = .next (s.withSlot p .listening) ∧
      ∀ b : Byte, exec (.frameGap p (some b)) s =
        .next (s.withSlot p (if b = 0xA5 then .receiving else .listening)))

/-- R169, R176: the slot is Listening again when the last byte of the answer has been sent; Restart is answered Done and
nothing else, and the end of that answer resets the device. -/
def Obligations.AnswerEndFreesTheSlotOrRestarts : Prop :=
  (∀ (p : Port) (a : Answer) (s : State), (s.port p).slot = .held a → ¬ (a.kind = 0x9E ∧ a.status = .done) →
    exec (.answerEnd p) s = .next (s.withSlot p .listening)) ∧
  (∀ (p : Port) (s : State), s.takes p = true → exec (.answerEnd p) s = .next s) ∧
  ∀ (r : Req) (s : State), s.takes r.port = true → r.port = .service → r.body = [] →
    exec (.restart r) s = .next (s.answered r 0x1E .done []) ∧
      exec (.answerEnd .service) (s.answered r 0x1E .done []) =
        exec (.reset .restart) (s.answered r 0x1E .done [])

/-- R175: the role table. A barred request has no effect but its answer, a permitted one is not answered NotPermitted,
and SetAttention leaves the masks of the other ports. -/
def Obligations.RoleTableIsKept : Prop :=
  (∀ (i : Instr) (code : Byte) (r : Req) (s : State), i.request? = some (code, r) → s.takes r.port = true →
    (r.port ∉ rolesOf code.toNat → exec i s = .next (s.answered r code .notPermitted [])) ∧
      (r.port ∈ rolesOf code.toNat →
        ∃ t status body, exec i s = .next (State.answered t r code status body) ∧ status ≠ .notPermitted)) ∧
  ∀ (r : Req) (s t : State), exec (.setAttention r) s = .next t → ∀ p, p ≠ r.port →
    (t.port p).mask = (s.port p).mask

/-- R173: an unknown kind is answered BadValue before the role is tested, and a body of the wrong length after it;
SetTariff's length is the one its count gives. -/
def Obligations.UnknownKindOrLengthIsBadValue : Prop :=
  (∀ (r : Req) (kind : Byte) (s : State), s.takes r.port = true →
    exec (.unknownRequest r kind) s = .next (s.answered r kind .badValue [])) ∧
  ∀ (i : Instr) (code : Byte) (r : Req) (s : State), i.request? = some (code, r) → s.takes r.port = true →
    r.port ∈ rolesOf code.toNat →
    ((∃ n, bodySize code.toNat = some n ∧ r.body.length ≠ n) ∨
      (code = 0x14 ∧ (r.body = [] ∨ ∃ n rest, r.body = n :: rest ∧ rest.length ≠ 9 * n.toNat))) →
    exec i s = .next (s.answered r code .badValue [])

/-- R174: an answer other than Done changes no state; its body is empty but for a ClearLatch of an input. -/
def Obligations.RefusedRequestChangesNothing : Prop :=
  ∀ (i : Instr) (code : Byte) (r : Req) (s : State), i.request? = some (code, r) → s.takes r.port = true →
    ∃ t status body, exec i s = .next (State.answered t r code status body) ∧
      (status ≠ .done → t = s ∧ (body = [] ∨ (code = 0x17 ∧ status = .wrongState)))

/-! ### Reads -/

/-- R177. -/
def Obligations.ReadIdentityAnswers : Prop :=
  ∀ (r : Req) (s : State), s.takes r.port = true → r.body = [] →
    exec (.readIdentity r) s = .next (s.answered r 0x01 .done
      (([0x48, 0x43, 0x4A, 24, 1, (match r.port with
          | .planner => 1
          | .site => 2
          | .service => 3),
        if s.alloc.clock.isSome then 1 else 0] : List Byte) ++ be32 (s.now?.getD 0) ++ be32 (min 4294967295 (s.elapsed / 1000))))

/-- R24, R178: ReadOrder's 32 bytes, ListRoster, and R5: the position of an order. -/
def Obligations.RosterReadsAnswer : Prop :=
  (∀ (r : Req) (t1 t0 : Byte) (s : State), s.takes r.port = true → r.body = [t1, t0] →
    (s.order? (val16 t1 t0) = none → exec (.readOrder r) s = .next (s.answered r 0x02 .notFound [])) ∧
      ∀ o, s.order? (val16 t1 t0) = some o → ∃ body, body.length = 32 ∧
        exec (.readOrder r) s = .next (s.answered r 0x02 .done body) ∧
        body.take 10 = be16 o.tag ++ be32 o.key ++ be32 o.departure ∧
        (body.drop 10).take 4 = (match o.addedAt with
          | .depot t => be32 t
          | .clockUnset => be32 0) ∧
        (body.drop 14).take 4 = (match o.closedAt with
          | some (.depot t) => be32 t
          | _ => be32 0) ∧
        (body.drop 18).take 4 = be16 o.delivered ++ be16 (s.reportedRemaining o) ∧
        (body.drop 22).take 4 = [byte o.targetSoc, byte o.conditioning.code, byte o.lead, byte o.cls.rank] ∧
        (body.drop 26).take 4 = [optBayByte o.assigned, optBayByte o.boundBay, byte o.state.code,
          match o.outcome with
          | none => 0
          | some .departed => 1
          | some .short => 2
          | some .cancelled => 3
          | some .missed => 4] ∧
        ((body.drop 30).take 1).flatMap bitsOf = [o.wakePermitted, o.atRisk, o.deferred, o.wakeFailed, o.begun, o.released,
          o.addedAt == .clockUnset, o.closedAt == some .clockUnset] ∧
        body.drop 31 = [byte (s.position o.tag)]) ∧
  (∀ (o : Order) (s : State), s.reportedRemaining o = match o.boundBay with
    | some b => if o.state.isBound then s.remaining b o else 0
    | none => 0) ∧
  (∀ (front back : List Order) (o : Order) (s : State), s.roster = front ++ o :: back → (∀ x ∈ front, x.tag ≠ o.tag) →
    s.position o.tag = front.length + 1) ∧
  ∀ (r : Req) (start : Byte) (s : State), s.takes r.port = true → r.body = [start] →
    exec (.listRoster r) s = .next
      (if 1 ≤ start.toNat ∧ start.toNat ≤ 40 then
        let tags := ((s.roster.map (fun o => o.tag)).drop (start.toNat - 1)).take 8
        s.answered r 0x03 .done ([byte s.roster.length, byte tags.length] ++ tags.flatMap be16)
      else s.answered r 0x03 .badValue [])

/-- R48, R124, R83, R178: ReadBay's 41 bytes, and ReadFeeder's 21 bytes and windows. The model's choice: seconds are
rounded down (entry 31), a bound order tag (entry 38) or a site ceiling (entry 39) that is absent reads 0, and a Wake
abandoned by a ClearBay reads as not on the line (entry 42). -/
def Obligations.BayAndFeederReadsAnswer : Prop :=
  let time16 : Option Nat → List Byte := fun t => be16 (match t with
    | none => 0xFFFF
    | some n => min n 0xFFFE)
  let time8 : Option Nat → Byte := fun t => byte (match t with
    | none => 0xFF
    | some n => min n 0xFE)
  (∀ (r : Req) (n : Byte) (s : State), s.takes r.port = true → r.body = [n] →
    (bay? n = none → exec (.readBay r) s = .next (s.answered r 0x04 .badValue [])) ∧
      ∀ b, bay? n = some b → ∃ body, body.length = 41 ∧
        exec (.readBay r) s = .next (s.answered r 0x04 .done body) ∧
        (let x := s.bay b
        let l := s.lineBay b
        let left : Nat → Nat := fun due => (due - s.elapsed) / 1000
        let since : Nat → Nat := fun moment => (s.elapsed - moment) / 1000
        body.take 2 = [n, byte x.state.code] ∧
        ((body.drop 2).take 1).flatMap bitsOf = [x.plugIn, s.enabled b, x.pack.isSome, x.boundOrder.isSome,
          x.identity.isSome, x.packSlot.isSome, x.lockSlot, x.conflict] ∧
        ((body.drop 3).take 1).flatMap bitsOf = [x.ovr.mode == .manual, x.ovr.releaseAnytime, x.wakePending,
          (match l.opn with
            | some ⟨.wake _ _, none, _, _⟩ => true
            | _ => false), x.barred, false, false, false] ∧
        (body.drop 4).take 2 = [byte (s.rating b), byte (stepCode x.step)] ∧
        (body.drop 6).take 4 = be32 (x.identity.getD 0) ∧
        (body.drop 10).take 2 = time16 (x.admTimer.map left) ∧
        (body.drop 12).take 4 = (match x.pack with
          | none => [0, 0, 0, 0]
          | some p => [byte p.soc, BitVec.ofInt 8 p.temp] ++ be16 p.capacity) ∧
        (body.drop 16).take 2 = time16 (if x.pack.isSome then x.lastFrame.map since else none) ∧
        (body.drop 18).take 8 = [byte x.output, byte x.limit] ++ be16 x.counter ++ be16 (x.boundOrder.getD 0) ++
          be16 x.baseline ∧
        (body.drop 26).take 6 = [byte (s.target b), byte (s.cap b), byte l.held, byte (s.exposure b), byte l.silent,
          byte l.refuse] ∧
        (body.drop 32).take 4 = time16 (x.dormTimer.map left) ++ time16 (x.dormantSince.map since) ∧
        body.drop 36 = [byte x.tryCount,
          time8 (x.retryAt.bind (fun m => if s.elapsed < m then some (left m) else none)),
          time8 (x.wakeWindow.map left), byte (x.ovr.manualCap.getD 0xFF), byte (x.ovr.fixedIndex.getD 0xFF)])) ∧
  (∀ (r : Req) (s : State), s.takes r.port = true → r.body = [] → ∃ body,
    exec (.readFeeder r) s = .next (s.answered r 0x05 .done body) ∧ body.length = 21 + 9 * s.feeder.tariff.length ∧
      (let f := s.feeder
      body.take 14 = be16 f.effective ++ be16 (f.site.getD 0) ++ be16 s.cfg.safeCeiling ++ be16 s.cfg.derateCeiling ++
        be16 f.load ++ be16 f.cut ++ be16 s.exposureSum ∧
      (body.drop 14).take 4 = [time8 (f.staleTimer.map (fun due => (due - s.elapsed) / 1000)), byte f.hold.code,
        byte s.holdCount, byte s.band.code] ∧
      ((body.drop 18).take 2).flatMap bitsOf = [f.site.isSome, f.stale, f.warnCond, f.alarmCond, f.warnFlag, f.alarmFlag,
        s.cfg.warnLatch, s.cfg.alarmLatch, f.stop, f.derate, false, false, false, false, false, false] ∧
      body.drop 20 = byte f.tariff.length :: f.tariff.flatMap (fun w =>
        be32 w.start ++ be32 w.stop ++ [byte w.band.code]))) ∧
  [none, some AdmStep.expectIdentity, some .expectPack, some .expectLock].map stepCode = [0, 1, 2, 3] ∧
  ∀ s : State, s.holdCount = match s.feeder.hold with
    | .running => 0
    | .draining => ((List.finRange 24).filter (fun b => (s.bay b).state ≠ .faulted ∧ 0 < s.exposure b)).length
    | .held => ((List.finRange 24).filter (fun b => (s.bay b).state = .faulted ∧ 0 < (s.lineBay b).held)).length

/-- R61, R180: ReadTable and ReadSetting, with R179's identifiers and the defaults they read as in the factory settings. -/
def Obligations.TableAndSettingReadsAnswer : Prop :=
  (∀ (r : Req) (table start count : Byte) (s : State), s.takes r.port = true → r.body = [table, start, count] →
    exec (.readTable r) s = .next
      (if table.toNat ≤ 1 ∧ start.toNat ≤ 40 ∧ 1 ≤ count.toNat ∧ count.toNat ≤ 41 then
        let entries := if table = 0 then s.cfg.rateTable.toList else s.cfg.condTable.toList
        s.answered r 0x06 .done ([table, start, byte (min count.toNat (41 - start.toNat)), byte s.cfg.cabinHeater] ++
          ((entries.drop start.toNat).take count.toNat).map byte)
      else s.answered r 0x06 .badValue [])) ∧
  (∀ (r : Req) (i1 i0 : Byte) (s : State), s.takes r.port = true → r.body = [i1, i0] →
    exec (.readSetting r) s = .next (match settingId? (val16 i1 i0) with
      | some id => s.answered r 0x07 .done ([i1, i0] ++ s.cfg.valueBytes id)
      | none => s.answered r 0x07 .badValue [])) ∧
  (∀ (n : Nat) (id : SettingId), settingId? n = some id ↔ n = match id with
    | .enabled b => 0x0101 + b.val
    | .rating b => 0x0201 + b.val
    | .postMin => 0x0301
    | .cabinHeater => 0x0302
    | .safeCeiling => 0x0303
    | .derateCeiling => 0x0304
    | .warnThreshold => 0x0305
    | .alarmThreshold => 0x0306
    | .hysteresis => 0x0307
    | .warnLatch => 0x0308
    | .alarmLatch => 0x0309
    | .roundPeriod => 0x0401
    | .deferMargin => 0x0402
    | .wakeSlack => 0x0403
    | .dormancyTime => 0x0404
    | .wakePulse => 0x0405
    | .admTimeout => 0x0406
    | .missedGrace => 0x0407
    | .input y => 0x0501 + y.val
    | .mask .planner => 0x0601
    | .mask .site => 0x0602
    | .mask .service => 0x0603) ∧
  ∀ id : SettingId, Settings.factory.valueBytes id = match id with
    | .enabled _ => [0, 0, 0, 1]
    | .rating _ => be32 50
    | .postMin | .cabinHeater => be32 4
    | .safeCeiling => be32 150
    | .derateCeiling => be32 100
    | .warnThreshold => be32 380
    | .alarmThreshold => be32 420
    | .hysteresis => be32 10
    | .warnLatch | .alarmLatch => [0, 0, 0, 0]
    | .roundPeriod => be32 30
    | .deferMargin => be32 60
    | .wakeSlack => be32 20
    | .dormancyTime => be32 300
    | .wakePulse => be32 5
    | .admTimeout => be32 60
    | .missedGrace => be32 900
    | .input _ => [0, 0, 2, 0]
    | .mask .planner => [0b100001, 1, 0, 0]
    | .mask .site => [0b000100, 0, 0, 0]
    | .mask .service => [0b111110, 0, 0, 0]

/-! ### Completions, events and attention -/

/-- R178: the completion body. R151, R152: PeekCompletions reads the log; TakeCompletions removes the four oldest records and, with a full log
behind a waiting line, lets the oldest waiting orders, as many as were removed, into the log. -/
def Obligations.CompletionsArePeekedAndTaken : Prop :=
  (∀ c : Completion, c.bytes.length = 16 ∧
    c.bytes.take 14 = be16 c.tag ++ be32 c.key ++ (match c.closedAt with
      | .depot t => be32 t
      | .clockUnset => be32 0) ++ be16 c.delivered ++ [optBayByte c.bay, match c.outcome with
      | .departed => 1
      | .short => 2
      | .cancelled => 3
      | .missed => 4] ∧
    ((c.bytes.drop 14).take 1 = [byte (c.finalSoc.getD 0xFF)]) ∧
    (c.bytes.drop 15).flatMap bitsOf =
      [c.atRisk, c.wakeFailed, c.closedAt == .clockUnset, false, false, false, false, false]) ∧
  (∀ (r : Req) (s : State), s.takes r.port = true → r.body = [] →
    exec (.peekCompletions r) s = .next (s.answered r 0x08 .done
      ([byte (min 4 s.log.length), byte s.log.length, byte s.waitingLine.length] ++
        (s.log.take 4).flatMap Completion.bytes))) ∧
  ∀ (r : Req) (s : State), s.takes r.port = true → r.port ≠ .site → r.body = [] → s.log.length ≤ 32 →
    (s.waitingLine ≠ [] → s.log.length = 32) → s.waitingLine.Nodup →
    (∀ tag ∈ s.waitingLine, (s.order? tag).isSome = true) →
    let moved := s.waitingLine.take 4
    let t := State.refreshAttention { s with
      log := s.log.drop 4 ++ moved.filterMap (fun tag => (s.order? tag).map Order.completion)
      waitingLine := s.waitingLine.drop 4
      roster := s.roster.filter (fun o => o.tag ∉ moved) }
    exec (.takeCompletions r) s = .next (State.answered t r 0x10 .done
      ([byte (min 4 s.log.length), byte t.log.length, byte t.waitingLine.length] ++
        (s.log.take 4).flatMap Completion.bytes))

/-- R156: TakeEvents, and R154, R178: the numbers and classes of the event kinds and the event body. -/
def Obligations.TakeEventsRemovesTheOldest : Prop :=
  (let kinds : List EventKind := [.orderAtRisk, .orderReady, .orderMissed, .orderClosed, .wakeFailed, .wakeBarred,
    .bayAttached, .bayUnplugged, .admitTimeout, .noOrder, .wrongBay, .identityConflict, .bayDormant, .bayFaulted,
    .feederWarn, .feederAlarm, .meterStale, .meterBack, .holdReached, .inputEdge, .stopActive, .settingsLost, .storeDone,
    .clockSet]
  kinds.map EventKind.code = List.range' 1 24 ∧
    kinds.map EventKind.cls = List.replicate 6 .order ++ List.replicate 7 .bay ++ [.line] ++ List.replicate 5 .feeder ++
      [.input, .input, .system, .system, .system]) ∧
  (∀ e : EventRec, e.bytes.length = 9 ∧
    e.bytes.take 2 = [byte e.kind.code, match e.kind.cls with
      | .order => 1
      | .bay => 2
      | .feeder => 3
      | .line => 4
      | .input => 5
      | .system => 6] ∧
    ((e.bytes.drop 2).take 1).flatMap bitsOf = [e.subject.isSome, e.edge == .cleared, (match e.time with
      | .depot _ => false
      | .elapsed _ => true), false, false, false, false, false] ∧
    e.bytes.drop 3 = (match e.subject with
      | none => be16 0
      | some (.order tag) => be16 tag
      | some (.bay b) => be16 (b.val + 1)
      | some (.input y) => be16 (y.val + 1)) ++ (match e.time with
      | .depot t => be32 t
      | .elapsed t => be32 t)) ∧
  ∀ (r : Req) (s : State), s.takes r.port = true → r.body = [] →
    exec (.takeEvents r) s = .next (State.answered
      (State.refreshAttention { s with events := ⟨s.events.queue.drop 8, false⟩ }) r 0x09 .done
      ([if s.events.overflow then 1 else 0, byte (min 8 s.events.queue.length), byte (s.events.queue.length - 8)] ++
        (s.events.queue.take 8).flatMap EventRec.bytes))

/-- R155, R159: an append joins the young end and recomputes the lines while there is room, and is lost otherwise; what
each attention line is recomputed to. -/
def Obligations.AppendOverflows : Prop :=
  (∀ s : State,
    let asserted : Mask → Bool := fun m =>
      s.events.queue.any (fun e => m.classes.getLsbD e.kind.cls.bit) || (m.completions && !s.log.isEmpty)
    s.refreshAttention = { s with
      planner := { s.planner with attention := asserted s.planner.mask }
      site := { s.site with attention := asserted s.site.mask }
      service := { s.service with attention := asserted s.service.mask } }) ∧
  [EventClass.order, .bay, .feeder, .line, .input, .system].map EventClass.bit = [0, 1, 2, 3, 4, 5] ∧
  ∀ (kind : EventKind) (subject : Option Subject) (edge : Edge) (s : State),
    s.append kind subject edge =
      if s.events.queue.length < 16 then
        let time : EventTime := match s.now? with
          | some t => .depot t
          | none => .elapsed (min 4294967295 (s.elapsed / 1000))
        State.refreshAttention
          { s with events := { s.events with queue := s.events.queue ++ [⟨kind, subject, edge, time⟩] } }
      else { s with events := { s.events with overflow := true } }

/-- R158: SetAttention replaces the mask of its own port and recomputes the three lines. -/
def Obligations.SetAttentionSetsOwnMask : Prop :=
  ∀ (r : Req) (classes completions : Byte) (s : State), s.takes r.port = true → r.body = [classes, completions] →
    exec (.setAttention r) s = .next
      (if classes.toNat < 64 ∧ completions.toNat ≤ 1 then
        State.answered (State.refreshAttention
          (s.withPort r.port { s.port r.port with mask := ⟨classes, completions == 1⟩ })) r 0x0A .done r.body
      else s.answered r 0x0A .badValue [])

/-! ### The clock and the roster -/

/-- R1, R2: the depot time runs on from the SetClock that set it and stops at its greatest value; the first SetClock
after a reset runs a round and starts the round timer. -/
def Obligations.ClockIsSetAndRuns : Prop :=
  (∀ s : State, (s.alloc.clock = none → s.now? = none) ∧
    ∀ c, s.alloc.clock = some c → s.now? = some (min 4294967295 (c.time + (s.elapsed - c.since) / 1000))) ∧
  ∀ (r : Req) (t3 t2 t1 t0 : Byte) (s : State), s.takes r.port = true → r.port = .planner → r.body = [t3, t2, t1, t0] →
    let u := State.append { s with alloc := { s.alloc with clock := some ⟨val32 t3 t2 t1 t0, s.elapsed⟩ } }
      .clockSet none .raised
    let v := u.round
    let w := State.settle { v with
      alloc := { v.alloc with roundTimer := some (v.elapsed + v.cfg.roundPeriod * 1000) } }
    exec (.setClock r) s = .next (State.answered (if s.alloc.clock.isSome then u else w) r 0x0B .done r.body)

/-- R7, R8, R5: the checks of AddOrder in their order, the record an accepted one creates, its place in the roster,
the binding check asked for and the answer: state, bound bay and position. -/
def Obligations.AddOrderIsCheckedAndPlaced : Prop :=
  (∀ (tag : Nat) (o : Order) (s : State), s.order? tag = some o →
    s.orderPlace tag = [byte o.state.code, optBayByte o.boundBay, byte (s.position tag)]) ∧
  ∀ (r : Req) (t1 t0 k3 k2 k1 k0 d3 d2 d1 d0 soc cond lead wake cls bay : Byte) (s : State),
    s.takes r.port = true → r.port = .planner →
    r.body = [t1, t0, k3, k2, k1, k0, d3, d2, d1, d0, soc, cond, lead, wake, cls, bay] → s.rosterInOrder →
    ((conditioning? cond = none ∨ yesNo? wake = none ∨ orderClass? cls = none ∨ optBay? bay = none) →
      exec (.addOrder r) s = .next (s.answered r 0x0C .badValue [])) ∧
    ∀ c w k a, conditioning? cond = some c → yesNo? wake = some w → orderClass? cls = some k → optBay? bay = some a →
      let o : Order :=
        { tag := val16 t1 t0, key := val32 k3 k2 k1 k0, departure := val32 d3 d2 d1 d0, targetSoc := soc.toNat,
          conditioning := c, lead := lead.toNat, wakePermitted := w, cls := k, assigned := a, state := .waiting,
          boundBay := none, atRisk := false, deferred := false, wakeFailed := false, begun := false, released := false,
          outcome := none, delivered := 0, carried := 0, addedAt := s.stamp, closedAt := none, finalSoc := none }
      exec (.addOrder r) s = .next
        (if o.targetSoc < 10 ∨ 100 < o.targetSoc ∨ 90 < o.lead ∨ (c = .none ∧ o.lead ≠ 0) ∨ o.key = 0 then
          s.answered r 0x0C .badValue []
        else if s.now?.any (fun now => o.departure ≤ now) then s.answered r 0x0C .clockUnset []
        else if ∃ x ∈ s.roster, x.tag = o.tag then s.answered r 0x0C .duplicate []
        else if ∃ x ∈ s.roster, x.state ≠ .closed ∧ x.key = o.key then s.answered r 0x0C .duplicate []
        else if 40 ≤ s.roster.length then s.answered r 0x0C .full []
        else
          let t := State.bindingCheckOrder { s with
            roster := s.roster.filter (fun x => x.departure ≤ o.departure) ++
              o :: s.roster.filter (fun x => o.departure < x.departure) } o.tag
          t.answered r 0x0C .done (t.orderPlace o.tag))

/-- R9: the checks of AmendOrder in their order; one that passes is carried out and answered with the order's place. -/
def Obligations.AmendOrderIsCheckedInOrder : Prop :=
  ∀ (r : Req) (t1 t0 set k3 k2 k1 k0 d3 d2 d1 d0 soc cond lead wake cls bay : Byte) (s : State),
    s.takes r.port = true → r.port = .planner →
    r.body = [t1, t0, set, k3, k2, k1, k0, d3, d2, d1, d0, soc, cond, lead, wake, cls, bay] →
    (s.order? (val16 t1 t0) = none → exec (.amendOrder r) s = .next (s.answered r 0x0D .notFound [])) ∧
    ∀ o, s.order? (val16 t1 t0) = some o →
      (o.state = .closing ∨ o.state = .closed → exec (.amendOrder r) s = .next (s.answered r 0x0D .tooLate [])) ∧
      (o.state ≠ .closing → o.state ≠ .closed →
        let cond' := if set.getLsbD 3 then conditioning? cond else some o.conditioning
        let wake' := if set.getLsbD 5 then yesNo? wake else some o.wakePermitted
        let cls' := if set.getLsbD 6 then orderClass? cls else some o.cls
        let bay' := if set.getLsbD 7 then optBay? bay else some o.assigned
        ((cond' = none ∨ wake' = none ∨ cls' = none ∨ bay' = none) →
          exec (.amendOrder r) s = .next (s.answered r 0x0D .badValue [])) ∧
        ∀ c w k a, cond' = some c → wake' = some w → cls' = some k → bay' = some a →
          let o' : Order := { o with
            key := if set.getLsbD 0 then val32 k3 k2 k1 k0 else o.key
            departure := if set.getLsbD 1 then val32 d3 d2 d1 d0 else o.departure
            targetSoc := if set.getLsbD 2 then soc.toNat else o.targetSoc
            conditioning := c
            lead := if set.getLsbD 4 then lead.toNat else o.lead
            wakePermitted := w
            cls := k
            assigned := a }
          exec (.amendOrder r) s = .next
            (if o'.targetSoc < 10 ∨ 100 < o'.targetSoc ∨ 90 < o'.lead ∨ (c = .none ∧ o'.lead ≠ 0) ∨ o'.key = 0 then
              s.answered r 0x0D .badValue []
            else if o'.departure ≠ o.departure ∧ s.now?.any (fun now => o'.departure ≤ now) then
              s.answered r 0x0D .clockUnset []
            else if o'.key ≠ o.key ∧ ∃ x ∈ s.roster, x.state ≠ .closed ∧ x.key = o'.key ∧ x.tag ≠ o.tag then
              s.answered r 0x0D .duplicate []
            else
              let t := (s.amendOrder o o' (set.getLsbD 3 && c == .none)).settle
              t.answered r 0x0D .done (t.orderPlace o.tag)))

/-- R10, R11, R5, R18, R42: what an accepted AmendOrder does. A changed departure moves the order behind those of its new
one; the bound bay's wake tries start afresh; a changed van key or assigned bay unbinds a bound order and asks for the
binding check. An unbound order is Waiting again, and its bay Unmatched with its key and pack data kept; a Faulted bay stays Faulted,
with its binding cleared and all else as it was. -/
def Obligations.AmendOrderActsAndUnbinds : Prop :=
  (∀ (o o' : Order) (toNone : Bool) (s : State), s.order? o.tag = some o → o'.tag = o.tag → o'.boundBay = o.boundBay →
    s.rosterInOrder →
    let o2 : Order := { o' with wakeFailed := false, begun := if toNone then false else o'.begun }
    let others := s.roster.filter (fun x => x.tag ≠ o.tag)
    let t : State := { s with
      roster := if o'.departure = o.departure then s.roster.map (fun x => if x.tag = o.tag then o2 else x)
        else others.filter (fun x => x.departure ≤ o'.departure) ++
          o2 :: others.filter (fun x => o'.departure < x.departure) }
    let u : State := match o.boundBay with
      | some b => t.updBay b (fun r => { r with tryCount := 0, retryAt := none })
      | none => t
    s.amendOrder o o' toNone =
      if o'.key = o.key ∧ o'.assigned = o.assigned then u
      else match o.boundBay with
        | some b => (((u.unbindOrder o.tag).unbindBay b).leaveEligibility (u.eligible b) b).bindingCheckOrder o.tag
        | none => u.bindingCheckOrder o.tag) ∧
  (∀ (tag : Nat) (o : Order) (s : State), s.order? tag = some o →
    let t : State := { s with
      roster := s.roster.map (fun x => if x.tag = tag then { x with
        state := .waiting, boundBay := none, begun := false, released := false, deferred := false, atRisk := false }
        else x) }
    s.unbindOrder tag = if o.atRisk then t.append .orderAtRisk (some (.order tag)) .cleared else t) ∧
  (∀ (b : BayNo) (s : State), (s.bay b).state = .faulted →
    s.unbindBay b = { s with
      bays := s.bays.set b { s.bay b with boundOrder := none, baseline := 0, conflict := false } }) ∧
  ∀ (b : BayNo) (s : State), (s.bay b).state ≠ .faulted →
    (s.unbindBay b).bay b = { s.bay b with
      state := .unmatched, boundOrder := none, baseline := 0, conflict := false, dormTimer := none,
      dormantSince := none, retryAt := none, barred := false, wakeWindow := none,
      wakePending := match (s.lineBay b).opn with
        | some ⟨.wake _ _, _, _, _⟩ => true
        | _ => false } ∧
    (s.unbindBay b).lineBay b = { s.lineBay b with pWake := none } ∧
    ∀ c, c ≠ b → (s.unbindBay b).bay c = s.bay c

/-- R39, R40, R12: the binding check on behalf of an order, and what a bind changes on the bay and on the order. The
model's choice: the WrongBay records of one check come in ascending bay number (entry 22), and a bay disabled since it left
Off binds like any other (entry 40). -/
def Obligations.BindingCheckBinds : Prop :=
  (∀ (tag : Nat) (o : Order) (s : State), s.order? tag = some o →
    let holds : BayNo → Prop := fun b => (s.bay b).state = .unmatched ∧ (s.bay b).identity = some o.key
    (∀ b, holds b → o.assigned = some b → s.bindingCheckOrder tag = s.bind b tag) ∧
    (∀ b, holds b → (∀ c, holds c → b ≤ c) → o.assigned = none → s.bindingCheckOrder tag = s.bind b tag) ∧
    ((∀ b, ¬ holds b) → s.bindingCheckOrder tag = s) ∧
    (∀ b, o.assigned = some b → ¬ holds b →
      s.bindingCheckOrder tag =
        ((List.finRange 24).filter (fun c => (s.bay c).state = .unmatched ∧ (s.bay c).identity = some o.key)).foldl
          (fun t c => t.append .wrongBay (some (.bay c)) .raised) s)) ∧
  ∀ (b : BayNo) (tag : Nat) (s : State),
    s.bind b tag = { s with
      bays := s.bays.set b { s.bay b with
        state := .bound
        boundOrder := some tag
        baseline := (s.bay b).counter
        conflict := false
        dormTimer := some (s.elapsed + s.cfg.dormancyTime * 1000)
        tryCount := 0 }
      roster := s.roster.map (fun x => if x.tag = tag then
        { x with state := .charging, boundBay := some b, carried := x.delivered } else x) }

/-- R15, R148, R150: a closure freezes the order, appends its event, and logs its record or puts it in the waiting
line. -/
def Obligations.ClosureLogsOrWaits : Prop :=
  ∀ (tag : Nat) (out : CloseOutcome) (o : Order) (s : State), s.order? tag = some o →
    let soc := o.boundBay.bind (fun b => (s.bay b).pack.map (fun p => p.soc))
    let o2 : Order := { o with
      state := .closed, outcome := some out, closedAt := some s.stamp, deferred := false, finalSoc := soc }
    let t := State.append { s with roster := s.roster.map (fun x => if x.tag = tag then o2 else x) }
      (if out = .missed then .orderMissed else .orderClosed) (some (.order tag)) .raised
    s.closeOrder tag out =
      if s.log.length < 32 ∧ s.waitingLine = [] then
        State.refreshAttention { t with
          log := s.log ++ [⟨o.tag, o.key, o.boundBay, out, o.delivered, soc, s.stamp, o.atRisk, o.wakeFailed⟩]
          roster := t.roster.filter (fun x => x.tag ≠ tag) }
      else { t with waitingLine := s.waitingLine ++ [tag] }

/-- R20, R21: CancelOrder by the order's state, and the decrease-done test that closes a Closing order and unbinds its
bay. -/
def Obligations.CancelOrderActs : Prop :=
  (∀ (r : Req) (t1 t0 : Byte) (s : State), s.takes r.port = true → r.port = .planner → r.body = [t1, t0] →
    (s.order? (val16 t1 t0) = none → exec (.cancelOrder r) s = .next (s.answered r 0x0E .notFound [])) ∧
    ∀ o, s.order? (val16 t1 t0) = some o →
      (o.state = .closed → exec (.cancelOrder r) s = .next (s.answered r 0x0E .tooLate [])) ∧
      (o.state = .closing → exec (.cancelOrder r) s = .next (s.settle.answered r 0x0E .done [4])) ∧
      (o.state = .waiting →
        exec (.cancelOrder r) s = .next ((s.closeOrder o.tag .cancelled).settle.answered r 0x0E .done [5])) ∧
      ∀ b, o.state.live = true → o.boundBay = some b →
        let t := State.leaveEligibility { s with
          roster := s.roster.map (fun x => if x.tag = o.tag then { x with state := .closing, deferred := false } else x) }
          (s.eligible b) b
        let u := t.decreaseDone b
        exec (.cancelOrder r) s = .next (u.settle.answered r 0x0E .done
          [byte (match u.order? o.tag with
            | some x => x.state.code
            | none => 5)])) ∧
  ∀ (b : BayNo) (s : State), (s.orderOf? b = none → s.decreaseDone b = s) ∧ ∀ o, s.orderOf? b = some o →
    let grantOpen : Bool := match (s.lineBay b).opn with
      | some ⟨.grant _, _, _, _⟩ => true
      | _ => false
    s.decreaseDone b =
      if o.state = .closing ∧ (s.lineBay b).held = 0 ∧ grantOpen = false then
        (s.closeOrder o.tag .cancelled).unbindBay b
      else s

/-- R23: ReleaseVan, its rows in table order. -/
def Obligations.ReleaseVanActs : Prop :=
  ∀ (r : Req) (t1 t0 : Byte) (s : State), s.takes r.port = true → r.port = .planner → r.body = [t1, t0] →
    (s.order? (val16 t1 t0) = none → exec (.releaseVan r) s = .next (s.answered r 0x0F .notFound [])) ∧
    ∀ o, s.order? (val16 t1 t0) = some o →
      (o.state = .closed → exec (.releaseVan r) s = .next (s.answered r 0x0F .tooLate [])) ∧
      (o.state = .waiting → exec (.releaseVan r) s = .next (s.answered r 0x0F .wrongState [])) ∧
      ∀ b, o.state.isBound = true → o.boundBay = some b →
        let t := State.leaveEligibility { s with
          roster := s.roster.map (fun x => if x.tag = o.tag then { x with released := true, deferred := false } else x) }
          (s.eligible b) b
        let u := if (t.lineBay b).pUnlock.isSome then t else
          { t with line := { t.line with
            bays := t.line.bays.set b { t.lineBay b with pUnlock := some t.line.nextAge }
            nextAge := t.line.nextAge + 1 } }
        exec (.releaseVan r) s = .next
          (if o.released then s.answered r 0x0F .done [byte (b.val + 1)]
          else if o.state = .ready ∨ (s.bay b).ovr.releaseAnytime = true then
            u.settle.answered r 0x0F .done [byte (b.val + 1)]
          else s.answered r 0x0F .wrongState [])

/-! ### Bays -/

/-- R33 to R35, R38: the frames of an admission, by its step; the locked Lock frame completes it, and the binding check
decides its bay. The model's choice: a bay disabled since it left Off binds like any other (entry 40). -/
def Obligations.AdmissionFollowsItsSteps : Prop :=
  (∀ (b : BayNo) (s : State),
    (∀ key, 1 ≤ key → key ≤ 4294967295 → (s.bay b).state = .attached →
      s.takeFrame b (.identity key) = s.updBay b (fun r => { r with
        state := .admitting, identity := some key, packSlot := none, lockSlot := false, step := some .expectPack,
        admTimer := some (s.elapsed + s.cfg.admTimeout * 1000) })) ∧
    ((s.bay b).state = .admitting →
      (∀ key, 1 ≤ key → key ≤ 4294967295 →
        ((s.bay b).step = some .expectIdentity → s.takeFrame b (.identity key) =
          s.updBay b (fun r => { r with identity := some key, step := some .expectPack })) ∧
        ((s.bay b).step = some .expectPack ∨ (s.bay b).step = some .expectLock → s.takeFrame b (.identity key) =
          s.updBay b (fun r => { r with
            identity := some key, packSlot := none, lockSlot := false, step := some .expectPack }))) ∧
      (∀ soc temp capacity, frameValid (.pack soc temp capacity) = true →
        ((s.bay b).step = some .expectIdentity → s.takeFrame b (.pack soc temp capacity) = s) ∧
        ((s.bay b).step = some .expectPack ∨ (s.bay b).step = some .expectLock →
          s.takeFrame b (.pack soc temp capacity) =
            s.updBay b (fun r => { r with packSlot := some ⟨soc, temp, capacity⟩, step := some .expectLock }))) ∧
      (∀ locked,
        ((s.bay b).step = some .expectIdentity → s.takeFrame b (.lock locked) = s) ∧
        ((s.bay b).step = some .expectPack → s.takeFrame b (.lock locked) =
          s.updBay b (fun r => { r with
            identity := none, packSlot := none, lockSlot := false, step := some .expectIdentity }))) ∧
      ((s.bay b).step = some .expectLock → s.takeFrame b (.lock false) = s))) ∧
  ∀ (b : BayNo) (key : Nat) (s : State), (s.bay b).state = .admitting → (s.bay b).step = some .expectLock →
    (s.bay b).identity = some key →
    let t := s.updBay b (fun r => { r with
      lockSlot := true, step := none, admTimer := none, pack := r.packSlot, lastFrame := some s.elapsed })
    let u := t.updBay b (fun r => { r with state := .unmatched })
    s.takeFrame b (.lock true) =
      match s.roster.find? (fun o => o.state == .waiting && o.key == key) with
      | none => u.append .noOrder (some (.bay b)) .raised
      | some o => if o.assigned = none ∨ o.assigned = some b then t.bind b o.tag
        else u.append .wrongBay (some (.bay b)) .raised

/-- R28, R33, R37, R41, R44, R113, R119, R121: the frames of an Unmatched, a Bound, a Dormant and a Waking bay, and the
frames that are discarded for their ranges or for the bay's state. A frame that counts clears the bound order's WakeFailed;
from a Dormant bay, or a Pack frame from a Waking one, it first returns the bay to Bound. -/
def Obligations.VanFramesActByBayState : Prop :=
  let cleared : BayNo → State → State := fun b s => match (s.bay b).boundOrder with
    | none => s
    | some tag => { s with roster := s.roster.map (fun x => if x.tag = tag then { x with wakeFailed := false } else x) }
  let returned : BayNo → State → State := fun b s => State.append { cleared b s with
    bays := s.bays.set b { s.bay b with
      state := .bound, dormTimer := some (s.elapsed + s.cfg.dormancyTime * 1000), dormantSince := none, retryAt := none,
      barred := false, wakeWindow := none, tryCount := 0,
      wakePending := match (s.lineBay b).opn with
        | some ⟨.wake _ _, _, _, _⟩ => true
        | _ => false }
    line := { s.line with bays := s.line.bays.set b { s.lineBay b with pWake := none } } }
    .bayDormant (some (.bay b)) .cleared
  ∀ (b : BayNo) (s : State),
    ((∀ key, frameValid (.identity key) = true ↔ 1 ≤ key ∧ key ≤ 4294967295) ∧
      (∀ soc temp capacity, frameValid (.pack soc temp capacity) = true ↔
        soc ≤ 100 ∧ -40 ≤ temp ∧ temp ≤ 85 ∧ 100 ≤ capacity ∧ capacity ≤ 2000) ∧
      ∀ locked, frameValid (.lock locked) = true) ∧
    (∀ f, frameValid f = false ∨ (s.bay b).state = .off ∨ (s.bay b).state = .vacant ∨ (s.bay b).state = .faulted →
      s.takeFrame b f = s) ∧
    ((s.bay b).state = .attached → (∀ soc temp capacity, s.takeFrame b (.pack soc temp capacity) = s) ∧
      ∀ locked, s.takeFrame b (.lock locked) = s) ∧
    ((s.bay b).state = .unmatched →
      (∀ soc temp capacity, frameValid (.pack soc temp capacity) = true →
        s.takeFrame b (.pack soc temp capacity) = if (s.bay b).identity = none then s
          else s.updBay b (fun r => { r with pack := some ⟨soc, temp, capacity⟩, lastFrame := some s.elapsed })) ∧
      (∀ key, s.takeFrame b (.identity key) = s) ∧ ∀ locked, s.takeFrame b (.lock locked) = s) ∧
    ((s.bay b).state = .bound →
      let again : BayRec → BayRec := fun r => { r with
        dormTimer := some (s.elapsed + s.cfg.dormancyTime * 1000), lastFrame := some s.elapsed }
      (∀ soc temp capacity, frameValid (.pack soc temp capacity) = true →
        s.takeFrame b (.pack soc temp capacity) =
          (cleared b s).updBay b (fun r => { again r with pack := some ⟨soc, temp, capacity⟩ })) ∧
      (∀ locked, s.takeFrame b (.lock locked) = (cleared b s).updBay b again) ∧
      ∀ key, 1 ≤ key → key ≤ 4294967295 → (s.bay b).identity = some key →
        s.takeFrame b (.identity key) = (cleared b s).updBay b again) ∧
    ((s.bay b).state = .dormant →
      (∀ soc temp capacity, frameValid (.pack soc temp capacity) = true →
        s.takeFrame b (.pack soc temp capacity) = (returned b s).takeFrame b (.pack soc temp capacity)) ∧
      (∀ locked, s.takeFrame b (.lock locked) = (returned b s).takeFrame b (.lock locked)) ∧
      ∀ key, 1 ≤ key → key ≤ 4294967295 → (s.bay b).identity = some key →
        s.takeFrame b (.identity key) = (returned b s).takeFrame b (.identity key)) ∧
    ((s.bay b).state = .waking →
      (∀ soc temp capacity, frameValid (.pack soc temp capacity) = true →
        s.takeFrame b (.pack soc temp capacity) = (returned b s).takeFrame b (.pack soc temp capacity)) ∧
      (∀ locked, s.takeFrame b (.lock locked) = s) ∧
      ∀ key, (s.bay b).identity = some key → s.takeFrame b (.identity key) = s) ∧
    ((returned b s).bay b).state = .bound ∧
    ((s.bay b).state = .bound ∨ (s.bay b).state = .dormant ∨ (s.bay b).state = .waking →
      ∀ key, 1 ≤ key → key ≤ 4294967295 → (s.bay b).identity ≠ some key →
        s.takeFrame b (.identity key) = if (s.bay b).conflict then s
          else (s.updBay b (fun r => { r with conflict := true })).append .identityConflict (some (.bay b)) .raised)

/-! ### Rounds -/

/-- R1, R85, R86: a round runs at the expiry of the round timer and at a Reallocate, the timer starts again after it, and
none runs while the clock is unset. The model's choice (entry 2): the expiry runs time to the due moment, and one of a
stopped timer does nothing. -/
def Obligations.RoundRunsAtItsEvents : Prop :=
  let restarted : State → State := fun u =>
    { u with alloc := { u.alloc with roundTimer := some (u.elapsed + u.cfg.roundPeriod * 1000) } }
  (∀ s : State, s.alloc.clock = none → s.round = s) ∧
  (∀ s : State, (s.alloc.roundTimer = none → exec .roundTimerExpiry s = .next s) ∧
    ∀ due, s.alloc.roundTimer = some due →
      exec .roundTimerExpiry s = .next (restarted (State.round { s with elapsed := max s.elapsed due })).settle) ∧
  ∀ (r : Req) (s : State), s.takes r.port = true → r.port ≠ .service → r.body = [] →
    (s.alloc.clock = none → exec (.reallocate r) s = .next (s.answered r 0x11 .clockUnset [])) ∧
    (s.alloc.clock ≠ none →
      let t := restarted s.round
      exec (.reallocate r) s = .next (t.settle.answered r 0x11 .done
        (be16 t.feeder.effective ++ be16 t.stranded ++ be16 t.available ++
          [byte (allBays.filter t.eligible).length] ++ be16 t.eligibleTargets)))

/-- R87, R88, R89, R16, R73, R91, R95, R100, R102: the steps of a round in their order, each said once: which orders are
closed Missed and which windows dropped, what an eligible and a reckoned bay is, whose orders the later steps take and in
which order. It leaves the grants of its walk as the targets, 0 for every bay that is not eligible, stores its ranking,
clears the refusal limits, and hands each changed target to the Line controller, from the tail of the new ranking to its
head and then in ascending bay number; nothing else of the state is changed by it. -/
def Obligations.RoundTakesItsStepsAndSetsTargets : Prop :=
  (∀ (now : Nat) (s : State), s.now? = some now →
    let m := ((((((((s.closeMissed now).dropWindows now).clearDormantDeferred).changePhases now).storeCaps).setAtRisks
      now).wakeDecisions now).setDeferred now)
    let ranked := m.ranked now
    let grants := grantWalk m.alloc.limits (m.band == .low) m.cfg.postMin ranked m.available true
    let t := s.round
    t.alloc.ranking = ranked.map (fun e => e.bay) ∧ (∀ b, t.target b = grantOf grants b) ∧
      (∀ b, m.eligible b = false → t.target b = 0) ∧ (∀ b : BayNo, t.alloc.limits[b] = none) ∧
      t.roster = m.roster ∧ t.bays = m.bays ∧ t.feeder = m.feeder ∧ t.events = m.events ∧
      t = (t.alloc.ranking.reverse ++ (List.finRange 24).filter (fun b => b ∉ t.alloc.ranking)).foldl
        (fun u b => if m.target b = grantOf grants b then u else u.reconcile b)
        { m with alloc := { m.alloc with
          targets := Vector.ofFn (fun b => grantOf grants b)
          ranking := ranked.map (fun e => e.bay)
          limits := Vector.replicate 24 none } }) ∧
  (∀ (now : Nat) (s : State), s.closeMissed now =
      ((s.roster.filter (fun o => o.state = .waiting ∧ o.departure + s.cfg.missedGrace ≤ now)).map (fun o => o.tag)).foldl
        (fun t tag => t.closeOrder tag .missed) s ∧
    s.dropWindows now = { s with feeder := { s.feeder with
      tariff := s.feeder.tariff.filter (fun w => now < w.stop) } }) ∧
  (∀ (b : BayNo) (s : State),
    (s.eligible b = true ↔ (s.bay b).state = .bound ∧
      ∃ o, s.orderOf? b = some o ∧ o.state.live = true ∧ o.released = false) ∧
    (s.reckoned b = true ↔ (s.bay b).state = .dormant ∧
      ∃ o, s.orderOf? b = some o ∧ o.state.live = true ∧ o.released = false)) ∧
  (∀ (test : BayNo → Bool) (s : State),
    ((s.roundOrders test).map (fun x => x.2)).Sublist (s.roster.map (fun o => o.tag)) ∧
    ∀ (b : BayNo) (tag : Nat), (b, tag) ∈ s.roundOrders test ↔ test b = true ∧ (s.bay b).boundOrder = some tag ∧
      ∃ o ∈ s.roster, o.tag = tag ∧ o.boundBay = some b) ∧
  ∀ (now : Nat) (s : State),
    (let put : State → Nat → Bool → State := fun t tag v =>
      { t with roster := t.roster.map (fun x => if x.tag = tag then { x with deferred := v } else x) }
    s.clearDormantDeferred = (s.roundOrders s.reckoned).foldl (fun t x => put t x.2 false) s ∧
    s.setDeferred now = (s.roundOrders s.eligible).foldl (fun t x => match s.order? x.2 with
      | none => t
      | some o => put t x.2 (deferredAfter s.band o (s.slack x.1 o now) s.cfg.deferMargin)) s) ∧
    s.changePhases now = (s.roundOrders s.eligible).foldl (fun t x => t.changePhase now x) s ∧
    s.setAtRisks now =
      (s.roundOrders (fun b => s.eligible b || s.reckoned b)).foldl (fun t x => t.setAtRisk now x) s ∧
    s.wakeDecisions now = (s.roundOrders s.reckoned).foldl (fun t x => t.wakeDecision now x) s ∧
    s.storeCaps = { s with alloc := { s.alloc with caps := s.storeCaps.alloc.caps } } ∧
    ∀ b : BayNo, s.storeCaps.cap b = match s.orderOf? b with
      | some o => if s.eligible b = true ∨ s.reckoned b = true then s.capOf b o else s.cap b
      | none => s.cap b

/-- R13, R14, R90: the phase an order of an eligible bay takes at a round, and what taking it changes. -/
def Obligations.RoundMovesPhases : Prop :=
  (∀ (o : Order) (remaining cap now : Nat),
    let reached : Prop := o.departure ≤ now + o.lead * 60
    (o.state = .charging →
      (o.conditioning ≠ .none → reached → phaseAfter o remaining cap now = some .conditioning) ∧
      (0 < remaining → o.conditioning = .pack ∨ o.conditioning = .both → cap = 0 →
        phaseAfter o remaining cap now = some .conditioning) ∧
      (remaining = 0 → o.conditioning = .none → phaseAfter o remaining cap now = some .ready) ∧
      (remaining = 0 → o.conditioning ≠ .none → ¬ reached → phaseAfter o remaining cap now = none) ∧
      (0 < remaining → o.conditioning = .none ∨ ¬ reached → o.conditioning = .none ∨ o.conditioning = .cabin ∨ 0 < cap →
        phaseAfter o remaining cap now = none)) ∧
    (o.state = .conditioning → phaseAfter o remaining cap now =
      if remaining = 0 then some .ready else if o.conditioning = .none then some .charging else none) ∧
    (o.state = .ready → phaseAfter o remaining cap now =
      if o.conditioning ≠ .none ∧ o.begun = false ∧ reached then some .conditioning
      else if 0 < remaining then some (if o.begun then .conditioning else .charging) else none)) ∧
  ∀ (now tag : Nat) (b : BayNo) (o : Order) (s : State), s.order? tag = some o →
    (phaseAfter o (s.remaining b o) (s.chargeCap b) now = none → s.changePhase now (b, tag) = s) ∧
    ∀ st, phaseAfter o (s.remaining b o) (s.chargeCap b) now = some st →
      let t : State := { s with roster := s.roster.map (fun x => if x.tag = tag then
        { x with state := st, begun := if st = .conditioning then true else x.begun } else x) }
      s.changePhase now (b, tag) = if st = .ready then t.append .orderReady (some (.order tag)) .raised else t

/-- R4, R92 to R95: remaining energy, minutes left and needed, slack, AtRisk with its event, and Deferred. -/
def Obligations.SlackSetsAtRiskAndDeferred : Prop :=
  (∀ (target : Nat) (p : PackData), remainingOf target p = (target - p.soc) * p.capacity / 100) ∧
  (∀ (b : BayNo) (o : Order) (p : PackData) (s : State), (s.bay b).pack = some p →
    s.remaining b o = remainingOf o.targetSoc p) ∧
  (∀ departure now : Nat, 60 * minutesLeft departure now ≤ (departure : Int) - now ∧
    (departure : Int) - now < 60 * minutesLeft departure now + 60) ∧
  (∀ remaining cap : Nat, 0 < remaining → 0 < cap → remaining * 6 ≤ minutesNeeded remaining cap * cap ∧
    minutesNeeded remaining cap * cap < remaining * 6 + cap) ∧
  (∀ (remaining cap lead : Nat) (left : Int),
    (remaining = 0 → slackOf remaining cap left lead = 32767) ∧
    (0 < remaining → cap = 0 → slackOf remaining cap left lead = -32768) ∧
    (0 < remaining → 0 < cap → slackOf remaining cap left lead =
      max (-32768) (min 32767 (left - (minutesNeeded remaining cap : Int) - (lead : Int))))) ∧
  (∀ (now tag : Nat) (b : BayNo) (o : Order) (s : State), s.order? tag = some o →
    let slack := slackOf (s.remaining b o) (s.chargeCap b) (minutesLeft o.departure now)
      (if o.state = .charging then o.lead else 0)
    let late := decide (slack < 0)
    s.slack b o now = slack ∧
    s.setAtRisk now (b, tag) =
      if late = o.atRisk then s
      else State.append { s with roster := s.roster.map (fun x => if x.tag = tag then { x with atRisk := late } else x) }
        .orderAtRisk (some (.order tag)) (if late then .raised else .cleared)) ∧
  ∀ (band : Band) (o : Order) (slack : Int) (margin : Nat),
    deferredAfter band o slack margin = true ↔ band = .peak ∧ o.state = .charging ∧ (margin : Int) ≤ slack

/-- R114 to R116: the wake decision of one Dormant bay, its tests in table order, WakeBarred, and the Wake handed over. -/
def Obligations.WakeDecisionFollowsItsTests : Prop :=
  ∀ (now tag : Nat) (b : BayNo) (o : Order) (s : State), s.order? tag = some o →
    let needed : Prop := ¬ (o.state = .ready ∧ o.conditioning = .none) ∧ o.wakeFailed = false ∧
      (s.bay b).wakePending = false ∧ (∃ t, (s.bay b).dormantSince = some t ∧ t + 60000 ≤ s.elapsed) ∧
      (∀ t, (s.bay b).retryAt = some t → t ≤ s.elapsed) ∧
      (s.slack b o now ≤ s.cfg.wakeSlack ∨
        (o.conditioning ≠ .none ∧ o.departure ≤ now + o.lead * 60 + 300))
    (¬ needed → s.wakeDecision now (b, tag) = s) ∧
    (needed → o.wakePermitted = false → (s.bay b).barred = true → s.wakeDecision now (b, tag) = s) ∧
    (needed → o.wakePermitted = false → (s.bay b).barred = false → s.wakeDecision now (b, tag) =
      (s.updBay b (fun r => { r with barred := true })).append .wakeBarred (some (.order tag)) .raised) ∧
    (needed → o.wakePermitted = true → s.feeder.stop = true ∨ s.feeder.hold ≠ .running →
      s.wakeDecision now (b, tag) = s) ∧
    (needed → o.wakePermitted = true → s.feeder.stop = false → s.feeder.hold = .running →
      ∀ since, (s.bay b).dormantSince = some since →
        s.wakeDecision now (b, tag) = { s with
          bays := s.bays.set b { s.bay b with wakePending := true }
          line := { s.line with
            bays := s.line.bays.set b { s.lineBay b with pWake := some ⟨s.cfg.wakePulse, s.line.nextAge, since⟩ }
            nextAge := s.line.nextAge + 1 } })

/-- R96: the demand of an eligible bay before rounding. -/
def Obligations.DemandFollowsThePhase : Prop :=
  ∀ (b : BayNo) (o : Order) (s : State),
    (o.state = .charging → 0 < s.remaining b o → o.deferred = false → s.rawDemand b o = s.capOf b o) ∧
    (o.state = .charging → s.remaining b o = 0 ∨ o.deferred = true → s.rawDemand b o = 0) ∧
    (o.state = .conditioning → 0 < s.remaining b o → s.rawDemand b o = s.capOf b o) ∧
    (o.state = .conditioning → s.remaining b o = 0 → s.rawDemand b o = min (s.capOf b o) (s.heater b o)) ∧
    (o.state = .ready → o.conditioning ≠ .none → o.begun = true →
      s.rawDemand b o = min (s.capOf b o) (s.heater b o)) ∧
    (o.state = .ready → o.conditioning = .none ∨ o.begun = false → s.rawDemand b o = 0) ∧
    s.rawDemand b o ≤ s.capOf b o

/-- R97: the post minimum, its default and range, and the rounding of a demand, which stays within the cap. -/
def Obligations.PostMinimumRoundsDemand : Prop :=
  Settings.factory.postMin = 4 ∧ SettingId.range .postMin = some (2, 10) ∧
  ∀ (b : BayNo) (o : Order) (s : State),
    (s.rawDemand b o = 0 → s.demand b o = 0) ∧
    (0 < s.rawDemand b o → s.rawDemand b o < s.cfg.postMin → s.cfg.postMin ≤ s.capOf b o →
      s.demand b o = s.cfg.postMin) ∧
    (0 < s.rawDemand b o → s.rawDemand b o < s.cfg.postMin → s.capOf b o < s.cfg.postMin → s.demand b o = 0) ∧
    (s.cfg.postMin ≤ s.rawDemand b o → s.demand b o = s.rawDemand b o) ∧
    s.demand b o ≤ s.capOf b o

/-- R50: the temperature index. -/
def Obligations.TemperatureIndexIsClamped : Prop :=
  (∀ t : Int, ((t + 30) / 2 < 0 → tempIndex t = 0) ∧ (40 < (t + 30) / 2 → tempIndex t = 40) ∧
    (0 ≤ (t + 30) / 2 → (t + 30) / 2 ≤ 40 → (tempIndex t : Int) = (t + 30) / 2)) ∧
  (∀ t : Int, t ≤ -29 → tempIndex t = 0) ∧ (∀ t : Int, 50 ≤ t → tempIndex t = 40) ∧
  (∀ i : Nat, 0 < i → i < 40 → tempIndex (-30 + 2 * i) = i ∧ tempIndex (-29 + 2 * i) = i) ∧
  ∀ (soc : Nat) (t : Int) (capacity : Nat), t < -40 ∨ 85 < t → frameValid (.pack soc t capacity) = false

/-- R51, R53 to R55: the index, charge cap, heater power and cap of a bay, and R52: the factory tables. -/
def Obligations.CapIsTheLeastOfThree : Prop :=
  (∀ i : Fin 41,
    Settings.factory.rateTable[i] = (if i.val ≤ 4 then 0 else if i.val ≤ 9 then 20 else if i.val ≤ 14 then 50
      else if i.val ≤ 32 then 100 else 60) ∧
    Settings.factory.condTable[i] = if i.val < 24 then 12 - i.val / 2 else 0) ∧
  Settings.factory.cabinHeater = 4 ∧
  (∀ (b : BayNo) (s : State),
    (∀ i, (s.bay b).ovr.fixedIndex = some i → (s.bay b).index = i) ∧
    (∀ p, (s.bay b).ovr.fixedIndex = none → (s.bay b).pack = some p → (s.bay b).index = tempIndex p.temp) ∧
    ((s.bay b).ovr.fixedIndex = none → (s.bay b).pack = none → (s.bay b).index = 0) ∧
    (∀ h : (s.bay b).index < 41, (s.bay b).ovr.mode = .table →
      s.chargeCap b = s.rating b * s.cfg.rateTable[(s.bay b).index] / 100) ∧
    (∀ c, (s.bay b).ovr.mode = .manual → (s.bay b).ovr.manualCap = some c → s.chargeCap b = c) ∧
    ∀ o : Order,
      (∀ h : (s.bay b).index < 41, (o.state = .conditioning ∨
        (o.state = .ready ∧ o.conditioning ≠ .none ∧ o.begun = true)) →
        s.heater b o =
          (if o.conditioning = .pack ∨ o.conditioning = .both then s.cfg.condTable[(s.bay b).index] else 0) +
          (if o.conditioning = .cabin ∨ o.conditioning = .both then s.cfg.cabinHeater else 0)) ∧
      (o.state = .charging ∨ (o.state = .ready ∧ (o.conditioning = .none ∨ o.begun = false)) → s.heater b o = 0) ∧
      s.capOf b o = min (s.rating b) (min (s.bay b).limit (s.chargeCap b + s.heater b o)))

/-- R98, R99, R101: the ranking holds each eligible bay once, by class, then slack, then bay number. Its walk gives each bay
the least of its demand, its refusal limit and what the bays before it have left, 0 for a sliver, and 0 to a Spare bay
unless the band is Low or every Express and Standard bay before it has its whole demand. So it grants no more than it has,
and nothing between 0 and the post minimum. -/
def Obligations.RankingAndWalkKeepTheirRules : Prop :=
  (∀ (limits : Vector (Option Nat) 24) (low : Bool) (postMin available : Nat) (front back : List RankEntry)
      (e : RankEntry),
    let before := grantWalk limits low postMin front available true
    let left := available - (before.map (fun g => g.2)).sum
    let least := min (min e.demand (limits[e.bay].getD e.demand)) left
    let grant := if least < postMin ∧ least < e.demand then 0 else least
    (grantWalk limits low postMin (front ++ e :: back) available true).take (front.length + 1) = before ++ [(e.bay,
      if e.cls = .spare ∧ low = false ∧ (∃ p ∈ front.zip before, p.1.cls ≠ .spare ∧ p.2.2 ≠ p.1.demand) then 0
      else grant)]) ∧
  (∀ (grants : List (BayNo × Nat)) (b : BayNo), (grants.map (fun g => g.1)).Nodup →
    (∀ g, (b, g) ∈ grants → grantOf grants b = g) ∧ (b ∉ grants.map (fun g => g.1) → grantOf grants b = 0)) ∧
  (∀ (now : Nat) (s : State),
    let ranked := s.ranked now
    (ranked.map (fun e => e.bay)).Nodup ∧ (∀ b, b ∈ ranked.map (fun e => e.bay) ↔ s.eligible b = true) ∧
    (∀ e ∈ ranked, ∃ o, s.orderOf? e.bay = some o ∧ e.cls = o.cls ∧ e.slack = s.slack e.bay o now ∧
      e.demand = s.demand e.bay o) ∧
    ranked.Pairwise (fun x y => x.cls.rank < y.cls.rank ∨
      (x.cls = y.cls ∧ (x.slack < y.slack ∨ (x.slack = y.slack ∧ x.bay < y.bay))))) ∧
  ∀ (limits : Vector (Option Nat) 24) (low : Bool) (postMin left : Nat) (ranked : List RankEntry),
    (∀ e ∈ ranked, e.demand = 0 ∨ postMin ≤ e.demand) →
    ranked.Pairwise (fun x y => x.cls.rank ≤ y.cls.rank) →
    let grants := grantWalk limits low postMin ranked left true
    grants.map (fun g => g.1) = ranked.map (fun e => e.bay) ∧ (grants.map (fun g => g.2)).sum ≤ left ∧
    (∀ p ∈ ranked.zip grants, p.2.2 ≤ p.1.demand ∧ (∀ m, limits[p.1.bay] = some m → p.2.2 ≤ m) ∧
      (p.2.2 = 0 ∨ postMin ≤ p.2.2)) ∧
    ∀ p ∈ ranked.zip grants, p.1.cls = .spare → low = false →
      (∃ q ∈ ranked.zip grants, q.1.cls ≠ .spare ∧ q.2.2 ≠ q.1.demand) → p.2.2 = 0

/-! ### The feeder -/

/-- R79: what the effective ceiling is composed of. -/
def Obligations.EffectiveCeilingIsComposed : Prop :=
  ∀ (f : Feeder) (w : Settings),
    (f.hold = .draining ∨ f.hold = .held ∨ f.stop = true → ceilingOf f w = 0) ∧
    (f.hold = .running → f.stop = false →
      let inForce : Nat → Prop := fun c => f.site = some c ∨ (c = w.safeCeiling ∧ (f.site = none ∨ f.stale = true)) ∨
        (c = w.derateCeiling ∧ f.derate = true)
      ∃ least, inForce least ∧ (∀ c, inForce c → least ≤ c) ∧ ceilingOf f w = least - f.cut)

/-- R80, R81, R104 to R106: a recomputed ceiling that falls trims the targets, and so does a bay that leaves eligibility,
whose own target becomes 0, handed on as a decrease. A trim takes the bays of the stored ranking from its tail, each losing
the excess or all it has. Where every eligible bay with a target is ranked, it brings their sum within the available power;
it raises no target, and changes nothing but targets and pending Grants. -/
def Obligations.CeilingFallTrimsTargets : Prop :=
  (let handed : State → BayNo → Nat → State := fun s b v =>
    State.reconcile { s with alloc := { s.alloc with targets := s.alloc.targets.set b v } } b
  (∀ s : State, s.trimCheck = s.alloc.ranking.reverse.foldl (fun t b =>
    let excess := t.eligibleTargets - t.available
    if t.eligibleTargets ≤ t.available ∨ t.target b = 0 then t
    else handed t b (if t.cfg.postMin ≤ t.target b - excess ∧ excess ≤ t.target b then t.target b - excess else 0)) s) ∧
  ∀ (b : BayNo) (s : State), s.leaveEligibility false b = s ∧
    s.leaveEligibility true b = (if s.target b = 0 then s else handed s b 0).trimCheck) ∧
  (∀ s : State, s.stranded = (((List.finRange 24).filter (fun b => !s.eligible b)).map s.exposure).sum ∧
    s.available = s.feeder.effective - s.stranded ∧
    s.eligibleTargets = (((List.finRange 24).filter s.eligible).map s.target).sum) ∧
  (∀ s : State,
    let t := { s with feeder := { s.feeder with effective := ceilingOf s.feeder s.cfg } }
    s.recomputeCeiling = if ceilingOf s.feeder s.cfg < s.feeder.effective then t.trimCheck else t) ∧
  ∀ s : State,
    let t := s.trimCheck
    (s.eligibleTargets ≤ s.available → t = s) ∧
    ((∀ b, s.eligible b = true → 0 < s.target b → b ∈ s.alloc.ranking) → t.eligibleTargets ≤ t.available) ∧
    (∀ b, t.target b ≤ s.target b) ∧ (∀ b, b ∉ s.alloc.ranking → t.target b = s.target b) ∧
    (∀ b, t.lineBay b = { s.lineBay b with pGrant := (t.lineBay b).pGrant }) ∧
    t = { s with
      alloc := { s.alloc with targets := t.alloc.targets }
      line := { s.line with bays := t.line.bays, nextAge := t.line.nextAge } }

/-- R64, R65, R67, R68, R70: SetCeiling and ReportMeter. -/
def Obligations.SiteReportsAct : Prop :=
  (∀ s : State, bitsOf s.feederFlagsA = [s.feeder.site.isSome, s.feeder.stale, s.feeder.warnCond, s.feeder.alarmCond,
    s.feeder.warnFlag, s.feeder.alarmFlag, s.cfg.warnLatch, s.cfg.alarmLatch]) ∧
  (∀ (r : Req) (c1 c0 : Byte) (s : State), s.takes r.port = true → r.port = .site → r.body = [c1, c0] →
    (2000 < val16 c1 c0 → exec (.setCeiling r) s = .next (s.answered r 0x12 .badValue [])) ∧
    (val16 c1 c0 ≤ 2000 →
      let t := State.recomputeCeiling { s with feeder := { s.feeder with site := some (val16 c1 c0) } }
      exec (.setCeiling r) s = .next (t.settle.answered r 0x12 .done ([c1, c0] ++ be16 t.feeder.effective)))) ∧
  ∀ (r : Req) (l1 l0 : Byte) (s : State), s.takes r.port = true → r.port = .site → r.body = [l1, l0] →
    (4000 < val16 l1 l0 → exec (.reportMeter r) s = .next (s.answered r 0x13 .badValue [])) ∧
    (val16 l1 l0 ≤ 4000 →
      let load := val16 l1 l0
      let inForce : Bool → Nat → Bool := fun before threshold =>
        if before then decide ((threshold : Int) - s.cfg.hysteresis ≤ load) else decide (threshold < load)
      let warn := inForce s.feeder.warnCond s.cfg.warnThreshold
      let alarm := inForce s.feeder.alarmCond s.cfg.alarmThreshold
      let warnFlag := warn || (s.cfg.warnLatch && s.feeder.warnFlag)
      let alarmFlag := alarm || (s.cfg.alarmLatch && s.feeder.alarmFlag)
      let fresh := { s with feeder := { s.feeder with
        load := load, stale := false, staleTimer := some (s.elapsed + 30000) } }
      let back := if s.feeder.stale then fresh.append .meterBack none .raised else fresh
      let judged := { back with feeder := { back.feeder with
        warnCond := warn, alarmCond := alarm, warnFlag := warnFlag, alarmFlag := alarmFlag } }
      let warned := if warnFlag = s.feeder.warnFlag then judged
        else judged.append .feederWarn none (if warnFlag then .raised else .cleared)
      let alarmed := if alarmFlag = s.feeder.alarmFlag then warned
        else warned.append .feederAlarm none (if alarmFlag then .raised else .cleared)
      let t := State.recomputeCeiling { alarmed with feeder := { alarmed.feeder with
        cut := if s.cfg.alarmThreshold < load then load - s.cfg.alarmThreshold else 0 } }
      exec (.reportMeter r) s = .next (t.settle.answered r 0x13 .done
        ([l1, l0] ++ [t.feederFlagsA] ++ be16 t.feeder.effective)))

/-- R72: SetTariff, the windows laid out as R178 gives, and R71: the current band. -/
def Obligations.SetTariffReplacesTheList : Prop :=
  (∀ s : State, (s.now? = none → s.band = .normal) ∧ ∀ now, s.now? = some now →
    ((∀ w ∈ s.feeder.tariff, ¬ (w.start ≤ now ∧ now < w.stop)) → s.band = .normal) ∧
    (s.tariffInOrder → ∀ w ∈ s.feeder.tariff, w.start ≤ now → now < w.stop → s.band = w.band)) ∧
  (∀ (r : Req) (n : Byte) (rest : List Byte) (s : State), s.takes r.port = true → r.port = .site →
    r.body = n :: rest → 8 < n.toNat → exec (.setTariff r) s = .next (s.answered r 0x14 .badValue [])) ∧
  ∀ (r : Req) (ws : List Window) (s : State), s.takes r.port = true → r.port = .site → ws.length ≤ 8 →
    (∀ w ∈ ws, w.start < 4294967296 ∧ w.stop < 4294967296) →
    r.body = byte ws.length :: ws.flatMap Window.bytes →
    let passes : Prop := (∀ w ∈ ws, w.band ≠ .normal ∧ w.start < w.stop) ∧
      ws.Pairwise (fun v w => v.stop ≤ w.start ∨ w.stop ≤ v.start)
    (¬ passes → exec (.setTariff r) s = .next (s.answered r 0x14 .badValue [])) ∧
    (passes → ∃ sorted : List Window, sorted.Perm ws ∧ sorted.Pairwise (fun v w => v.start < w.start) ∧
      exec (.setTariff r) s = .next (State.answered { s with feeder := { s.feeder with tariff := sorted } } r 0x14 .done
        [byte ws.length]))

/-- R75 to R77: HoldDepot, the Held condition and ResumeDepot. -/
def Obligations.DepotHoldsAndResumes : Prop :=
  (∀ (r : Req) (s : State), s.takes r.port = true → r.port = .service → r.body = [] →
    (s.feeder.hold ≠ .running →
      exec (.holdDepot r) s = .next (s.answered r 0x15 .done [byte s.feeder.hold.code])) ∧
    (s.feeder.hold = .running →
      let t := (State.recomputeCeiling { s with feeder := { s.feeder with hold := .draining } }).heldCheck.settle
      exec (.holdDepot r) s = .next (t.answered r 0x15 .done [byte t.feeder.hold.code])) ∧
    (s.feeder.hold = .running → exec (.resumeDepot r) s = .next (s.answered r 0x16 .done [0])) ∧
    (s.feeder.hold ≠ .running →
      let t := State.recomputeCeiling { s with feeder := { s.feeder with hold := .running } }
      let u := t.round
      let v := { u with alloc := { u.alloc with roundTimer := some (u.elapsed + u.cfg.roundPeriod * 1000) } }
      exec (.resumeDepot r) s = .next
        ((if s.alloc.clock = none then t else v).settle.answered r 0x16 .done [0]))) ∧
  ∀ s : State,
    let quiet : Prop := ∀ b, (s.bay b).state ≠ .faulted → s.exposure b = 0
    (s.feeder.hold = .draining → quiet → s.heldCheck =
      State.append { s with feeder := { s.feeder with hold := .held } } .holdReached none .raised) ∧
    (s.feeder.hold = .held → ¬ quiet → s.heldCheck = { s with feeder := { s.feeder with hold := .draining } }) ∧
    (s.feeder.hold = .running ∨ (s.feeder.hold = .draining ∧ ¬ quiet) ∨ (s.feeder.hold = .held ∧ quiet) →
      s.heldCheck = s)

/-- R69, R165: ClearLatch of the feeder and of an input. The model's choice: of two Cleared events of one request FeederWarn
comes first (entry 37). -/
def Obligations.ClearLatchActs : Prop :=
  ∀ (r : Req) (s : State), s.takes r.port = true → r.port = .service →
    (r.body = [0] →
      let warn := s.feeder.warnFlag && s.feeder.warnCond
      let alarm := s.feeder.alarmFlag && s.feeder.alarmCond
      let t := { s with feeder := { s.feeder with warnFlag := warn, alarmFlag := alarm } }
      let u := if s.feeder.warnFlag ∧ ¬ s.feeder.warnCond then t.append .feederWarn none .cleared else t
      let v := if s.feeder.alarmFlag ∧ ¬ s.feeder.alarmCond then u.append .feederAlarm none .cleared else u
      exec (.clearLatchFeeder r) s = .next (v.answered r 0x17 .done [v.feederFlagsA])) ∧
    (∀ sel : Byte, r.body = [sel] → 6 < sel.toNat →
      exec (.clearLatchInput r) s = .next (s.answered r 0x17 .badValue [])) ∧
    ∀ (sel : Byte) (y : InputNo), r.body = [sel] → sel.toNat = y.val + 1 →
      ((s.input y).active = true → exec (.clearLatchInput r) s =
        .next (s.answered r 0x17 .wrongState [1, if (s.input y).latched then 1 else 0])) ∧
      ((s.input y).active = false → (s.input y).latched = false →
        exec (.clearLatchInput r) s = .next (s.settle.answered r 0x17 .done [0, 0])) ∧
      ((s.input y).active = false → (s.input y).latched = true →
        let t := (s.updInput y (fun i => { i with latched := false })).actRole y .cleared
        exec (.clearLatchInput r) s = .next (t.settle.answered r 0x17 .done [0, 0]))

/-! ### The technician's requests -/

/-- R45, R144, R46, R58: ClearBay in the order of its steps, RetryAdmission and SetOverride. The model's choice: the
release-anytime byte is 1 for On and 0 for Off, any other BadValue (entry 43). -/
def Obligations.TechnicianBayRequestsAct : Prop :=
  (∀ (r : Req) (n : Byte) (s : State), s.takes r.port = true → r.port = .service → r.body = [n] →
    (bay? n = none → exec (.clearBay r) s = .next (s.answered r 0x18 .badValue []) ∧
      exec (.retryAdmission r) s = .next (s.answered r 0x19 .badValue [])) ∧
    ∀ b, bay? n = some b →
      (∃ t, exec (.clearBay r) s = .next ((State.settle t).answered r 0x18 .done [0]) ∧
        t.bay b =
          { state := .off, identity := none, packSlot := none, lockSlot := false, step := none, admTimer := none,
            pack := none, lastFrame := none, plugIn := false, output := 0, counter := 0, limit := 0, boundOrder := none,
            baseline := 0, conflict := false, dormTimer := none, dormantSince := none, tryCount := 0, retryAt := none,
            wakePending := false, wakeWindow := none, barred := false, ovr := (s.bay b).ovr } ∧
        t.lineBay b = ⟨0, none, none, none, none, 0, 0, none, false⟩ ∧
        (s.eligible b = true → t.target b = 0) ∧ t.alloc.ranking = s.alloc.ranking ∧ t.inputs = s.inputs ∧
        t.store = s.store ∧
        (let off : State := { s with
          bays := s.bays.set b { s.bay b with
            state := .off, step := none, admTimer := none, dormTimer := none, dormantSince := none, retryAt := none,
            barred := false, wakeWindow := none }
          line := { s.line with
            bays := s.line.bays.set b ⟨0, none, none, none, none, 0, 0, none, false⟩
            carrying := s.line.carrying.map (fun c => if c.bay = b then { c with abandoned := true } else c) } }
        let noted : State := if s.exposure b = 0 then off else off.heldCheck
        let dealt : State := match s.orderOf? b with
          | none => noted
          | some o => if o.state = .closing then noted.closeOrder o.tag .cancelled
            else (noted.unbindOrder o.tag).bindingCheckOrder o.tag
        t = (dealt.leaveEligibility (s.eligible b) b).updBay b (fun r => { BayRec.reset with ovr := r.ovr }))) ∧
      ((s.bay b).state ≠ .unmatched → exec (.retryAdmission r) s = .next (s.answered r 0x19 .wrongState [])) ∧
      ((s.bay b).state = .unmatched → exec (.retryAdmission r) s =
        .next ((s.updBay b (fun x => { x with
          state := .attached, identity := none, packSlot := none, lockSlot := false, pack := none,
          lastFrame := none })).answered r 0x19 .done [2]))) ∧
  ∀ (r : Req) (n mode cap index release : Byte) (s : State), s.takes r.port = true → r.port = .service →
    r.body = [n, mode, cap, index, release] →
    let valid : Prop := 1 ≤ n.toNat ∧ n.toNat ≤ 24 ∧ mode.toNat ≤ 1 ∧ (cap = 0xFF ∨ cap.toNat ≤ 60) ∧
      (index = 0xFF ∨ index.toNat ≤ 40) ∧ release.toNat ≤ 1 ∧ ¬ (mode = 1 ∧ cap = 0xFF)
    (¬ valid → exec (.setOverride r) s = .next (s.answered r 0x1A .badValue [])) ∧
    (valid → ∀ b, bay? n = some b → exec (.setOverride r) s = .next ((s.updBay b (fun x => { x with
      ovr := ⟨if mode = 1 then .manual else .table, if cap = 0xFF then none else some cap.toNat,
        if index = 0xFF then none else some index.toNat, release == 1⟩ })).answered r 0x1A .done r.body))

/-- R60, R180, R108, R166: WriteTable and WriteSetting; which values a setting takes and reads back (the two low bytes of a
mask are not checked, entry 25), and what a written setting does at the request: a raised post minimum and a lowered post
rating hand their lowered targets on in ascending bay number, the parts of an input configuration act in table order, and
every setting without an effect at the request changes the working copy alone. -/
def Obligations.TablesAndSettingsAreWritten : Prop :=
  (∀ (r : Req) (table index value : Byte) (s : State), s.takes r.port = true → r.port = .service →
    r.body = [table, index, value] →
    let valid : Prop := index.toNat ≤ 40 ∧ ((table = 0 ∧ value.toNat ≤ 100) ∨ (table = 1 ∧ value.toNat ≤ 15))
    (¬ valid → exec (.writeTable r) s = .next (s.answered r 0x1B .badValue [])) ∧
    (valid → s.store.commit ≠ none → exec (.writeTable r) s = .next (s.answered r 0x1B .busy [])) ∧
    (valid → s.store.commit = none → ∀ h : index.toNat < 41, exec (.writeTable r) s = .next
      ((s.withWorking (if table = 0 then { s.cfg with rateTable := s.cfg.rateTable.set index.toNat value.toNat }
        else { s.cfg with condTable := s.cfg.condTable.set index.toNat value.toNat })).answered r 0x1B .done r.body))) ∧
  (∀ (r : Req) (i1 i0 v3 v2 v1 v0 : Byte) (s : State), s.takes r.port = true → r.port = .service →
    r.body = [i1, i0, v3, v2, v1, v0] →
    (settingId? (val16 i1 i0) = none → exec (.writeSetting r) s = .next (s.answered r 0x1C .badValue [])) ∧
    ∀ id, settingId? (val16 i1 i0) = some id →
      (settingValue? id v3 v2 v1 v0 = none → exec (.writeSetting r) s = .next (s.answered r 0x1C .badValue [])) ∧
      ∀ v, settingValue? id v3 v2 v1 v0 = some v →
        (s.store.commit ≠ none → exec (.writeSetting r) s = .next (s.answered r 0x1C .busy [])) ∧
        (s.store.commit = none →
          let t := s.applySetting id v
          t.cfg = s.cfg.write id v ∧
          exec (.writeSetting r) s = .next (t.settle.answered r 0x1C .done ([i1, i0] ++ t.cfg.valueBytes id)))) ∧
  (∀ (id : SettingId) (v3 v2 v1 v0 : Byte),
    let n := val32 v3 v2 v1 v0
    let within : Nat → Nat → Option SettingValue := fun lo hi => if lo ≤ n ∧ n ≤ hi then some (.num n) else none
    settingValue? id v3 v2 v1 v0 = match id with
      | .enabled _ | .warnLatch | .alarmLatch => if n ≤ 1 then some (.flag (n == 1)) else none
      | .rating _ => within 7 60
      | .postMin => within 2 10
      | .cabinHeater => within 0 10
      | .safeCeiling | .derateCeiling => within 0 2000
      | .warnThreshold | .alarmThreshold => within 0 4000
      | .hysteresis => within 0 100
      | .roundPeriod => within 10 120
      | .deferMargin => within 0 600
      | .wakeSlack => within 0 240
      | .dormancyTime => within 60 1800
      | .wakePulse => within 2 15
      | .admTimeout => within 20 300
      | .missedGrace => within 0 3600
      | .input _ => if v3.toNat ≤ 2 ∧ v2.toNat ≤ 1 ∧ v1.toNat ≤ 3 ∧ v0.toNat ≤ 1 then
          some (.input ⟨if v3 = 0 then .event else if v3 = 1 then .stop else .derate, v2 == 0,
            if v1 = 0 then .ms0 else if v1 = 1 then .ms20 else if v1 = 2 then .ms100 else .ms500, v0 == 1⟩)
        else none
      | .mask _ => if v3.toNat < 64 ∧ v2.toNat ≤ 1 then some (.mask ⟨v3, v2 == 1⟩) else none) ∧
  (∀ (w : Settings) (id : SettingId) (v3 v2 v1 v0 : Byte) (v : SettingValue), settingValue? id v3 v2 v1 v0 = some v →
    (w.write id v).valueBytes id = (match id with
      | .mask _ => [v3, v2, 0, 0]
      | _ => [v3, v2, v1, v0]) ∧
    (∀ other, other ≠ id → (w.write id v).valueBytes other = w.valueBytes other) ∧
    (w.write id v).rateTable = w.rateTable ∧ (w.write id v).condTable = w.condTable) ∧
  (∀ (y : InputNo) (c : InputCfg) (s : State),
    let old := s.inputCfg y
    let put : InputCfg → State → State := fun k t => t.withWorking { t.cfg with inputs := t.cfg.inputs.set y k }
    let set : InputCfg → State → State := fun k t => t.applySetting (.input y) (.input k)
    (s.applySetting (.input y) (.input c) = set c (set { old with
        filter := c.filter, activeHigh := c.activeHigh, latch := c.latch } (set { old with
          filter := c.filter, activeHigh := c.activeHigh } (set { old with filter := c.filter } s)))) ∧
    (∀ f, set { old with filter := f } s = put { old with filter := f } s) ∧
    (∀ high, high ≠ old.activeHigh → set { old with activeHigh := high } s =
      ((put { old with activeHigh := high } s).updInput y (fun i => { i with pending := none })).setFiltered y
        ((s.input y).levelHigh == high)) ∧
    (old.latch = false → set { old with latch := true } s =
      (put { old with latch := true } s).updInput y (fun i => { i with latched := i.latched || i.active })) ∧
    (old.latch = true →
      let t := (put { old with latch := false } s).updInput y (fun i => { i with latched := false })
      set { old with latch := false } s =
        if (s.input y).latched = true ∧ (s.input y).active = false then t.actRole y .cleared else t) ∧
    ∀ role, role ≠ old.role →
      let left := if (s.input y).active = true ∨ (s.input y).latched = true then s.roleEvent old.role y .cleared else s
      let t := ((put { old with role := role } left).updInput y (fun i => { i with latched := false })).handRole old.role
      set { old with role := role } s = if (s.input y).active then
        (t.updInput y (fun i => { i with latched := old.latch })).actRole y .raised else t) ∧
  ∀ (n : Nat) (s : State),
    (∀ b, (s.applySetting .postMin (.num n)).target b =
      if s.cfg.postMin < n ∧ 0 < s.target b ∧ s.target b < n then 0 else s.target b) ∧
    (∀ b, n < s.rating b → (s.applySetting (.rating b) (.num n)).cap b = min (s.cap b) n ∧
      (s.applySetting (.rating b) (.num n)).target b =
        if n < s.target b then (if s.cfg.postMin ≤ n then n else 0) else s.target b) ∧
    (let handed : State → BayNo → Nat → State := fun t b v =>
      State.reconcile { t with alloc := { t.alloc with targets := t.alloc.targets.set b v } } b
    (s.applySetting .postMin (.num n) =
      let t := s.withWorking { s.cfg with postMin := n }
      if s.cfg.postMin < n then
        (List.finRange 24).foldl (fun u b => if 0 < u.target b ∧ u.target b < n then handed u b 0 else u) t
      else t) ∧
    ∀ b, s.applySetting (.rating b) (.num n) =
      let t := s.withWorking { s.cfg with rating := s.cfg.rating.set b n }
      let u := if n < s.cap b then { t with alloc := { t.alloc with caps := t.alloc.caps.set b n } } else t
      if s.rating b ≤ n then t
      else if n < s.target b then handed u b (if s.cfg.postMin ≤ n then n else 0) else u) ∧
    (∀ id v, (match id with
      | .postMin | .rating _ | .safeCeiling | .derateCeiling | .input _ => False
      | _ => True) → s.applySetting id v = s.withWorking (s.cfg.write id v)) ∧
    s.applySetting .safeCeiling (.num n) = State.recomputeCeiling (s.withWorking { s.cfg with safeCeiling := n }) ∧
    s.applySetting .derateCeiling (.num n) = State.recomputeCeiling (s.withWorking { s.cfg with derateCeiling := n })

/-- R181, R182: a commit takes the working copy, and its end writes the image and appends its event. The model's choice: the
read-back is the operand of COMMIT_END and the commit ends by itself at 600 ms (entry 8), COMMIT_END without a commit does
nothing (entry 2), and the check bits of a bad image are a free value (entry 9). -/
def Obligations.CommitWritesTheImage : Prop :=
  (∀ (r : Req) (s : State), s.takes r.port = true → r.port = .service → r.body = [] →
    (s.store.commit ≠ none → exec (.storeSettings r) s = .next (s.answered r 0x1D .busy [])) ∧
    (s.store.commit = none → exec (.storeSettings r) s = .next (State.answered
      { s with store := { s.store with commit := some ⟨s.store.working, s.elapsed + 600⟩ } } r 0x1D .done []))) ∧
  ∀ (good : Bool) (s : State), (s.store.commit = none → exec (.commitEnd good) s = .next s) ∧
    ∀ c, s.store.commit = some c → ∃ image : Image, image.content = c.content ∧ image.format = 1 ∧
      (image.check = Config.imageCheck c.content 1 ↔ good = true) ∧
      exec (.commitEnd good) s = .next (State.append
        { s with
          freeCount := if good then s.freeCount else s.freeCount + 1
          store := { s.store with image := image, commit := none } }
        (if good then .storeDone else .settingsLost) none .raised)

/-! ### Expiries and yard lines -/

/-- R36, R66, R112, R120: the stale timer and the timers of a bay run out. The model's choice: an expiry runs time to the
due moment and one of a stopped timer does nothing (entry 2), and a try that fails at a count of 2 counts nothing
(entry 30). -/
def Obligations.FeederAndBayTimersExpire : Prop :=
  (∀ s : State, (s.feeder.staleTimer = none → exec .staleTimerExpiry s = .next s) ∧ ∀ b : BayNo,
    ((s.bay b).state ≠ .admitting ∨ (s.bay b).admTimer = none → exec (.admissionTimerExpiry b) s = .next s) ∧
    ((s.bay b).state ≠ .bound ∨ (s.bay b).dormTimer = none → exec (.dormancyExpiry b) s = .next s) ∧
    ((s.bay b).state ≠ .waking ∨ (s.bay b).wakeWindow = none → exec (.wakeWindowExpiry b) s = .next s)) ∧
  (∀ (due : Nat) (s : State), s.feeder.staleTimer = some due →
    let at' := { s with elapsed := max s.elapsed due }
    exec .staleTimerExpiry s = .next (State.recomputeCeiling (State.append
      { at' with feeder := { at'.feeder with stale := true, staleTimer := none } } .meterStale none .raised)).settle) ∧
  ∀ (b : BayNo) (due : Nat) (s : State),
    let at' := { s with elapsed := max s.elapsed due }
    ((s.bay b).state = .admitting → (s.bay b).admTimer = some due →
      exec (.admissionTimerExpiry b) s = .next ((at'.updBay b (fun r => { r with
        state := .unmatched, identity := none, packSlot := none, lockSlot := false, step := none,
        admTimer := none })).append .admitTimeout (some (.bay b)) .raised)) ∧
    ((s.bay b).state = .bound → (s.bay b).dormTimer = some due →
      exec (.dormancyExpiry b) s = .next ((((at'.updBay b (fun r => { r with
        state := .dormant, dormTimer := none, dormantSince := some (max s.elapsed due), retryAt := none,
        barred := false })).append .bayDormant (some (.bay b)) .raised).leaveEligibility (s.eligible b) b).settle)) ∧
    ((s.bay b).state = .waking → (s.bay b).wakeWindow = some due → ∀ o, s.orderOf? b = some o →
      let t := at'.updBay b (fun r => { r with state := .dormant, wakeWindow := none })
      exec (.wakeWindowExpiry b) s = .next
        (if o.state = .closing then t
        else if (s.bay b).tryCount = 0 then
          t.updBay b (fun r => { r with tryCount := 1, retryAt := some (max s.elapsed due + 120000) })
        else if (s.bay b).tryCount = 1 then
          State.append { t with
            bays := t.bays.set b { t.bay b with tryCount := 2 }
            roster := t.roster.map (fun x => if x.tag = o.tag then { x with wakeFailed := true } else x) }
            .wakeFailed (some (.order o.tag)) .raised
        else t))

/-- R162 to R164: a line change, the filter, entry into force and leaving it, and the Stop and Derate conditions handed
over. The model's choice (entry 2): the expiry runs time to the due moment, and one without a pending change does
nothing. -/
def Obligations.YardInputsAreFiltered : Prop :=
  (∀ (y : InputNo) (edge : Edge) (s : State),
    s.roleEvent .event y edge = s.append .inputEdge (some (.input y)) edge ∧
    s.roleEvent .stop y edge = s.append .stopActive (some (.input y)) edge ∧ s.roleEvent .derate y edge = s ∧
    s.handRole .event = s ∧
    s.handRole .stop = (if s.roleInForce .stop = s.feeder.stop then s
      else State.recomputeCeiling { s with feeder := { s.feeder with stop := s.roleInForce .stop } }) ∧
    s.handRole .derate = (if s.roleInForce .derate = s.feeder.derate then s
      else State.recomputeCeiling { s with feeder := { s.feeder with derate := s.roleInForce .derate } }) ∧
    s.actRole y edge = (s.roleEvent (s.inputCfg y).role y edge).handRole (s.inputCfg y).role ∧
    ∀ role, s.roleInForce role = true ↔ ∃ z, (s.inputCfg z).role = role ∧
      ((s.input z).active = true ∨ (s.input z).latched = true)) ∧
  (∀ (y : InputNo) (high : Bool) (s : State),
    let new : Bool := high == (s.inputCfg y).activeHigh
    let t := s.updInput y (fun i => { i with levelHigh := high, pending := none })
    ((s.input y).levelHigh = high → exec (.lineChange y high) s = .next s.settle) ∧
    ((s.input y).levelHigh ≠ high → new = (s.input y).active → exec (.lineChange y high) s = .next t.settle) ∧
    ((s.input y).levelHigh ≠ high → new ≠ (s.input y).active → (s.inputCfg y).filter = .ms0 →
      exec (.lineChange y high) s = .next (t.setFiltered y new).settle) ∧
    ((s.input y).levelHigh ≠ high → new ≠ (s.input y).active → (s.inputCfg y).filter ≠ .ms0 →
      exec (.lineChange y high) s =
        .next (t.updInput y (fun i => { i with
          pending := some ⟨new, s.elapsed + (s.inputCfg y).filter.ms⟩ })).settle)) ∧
  (∀ (y : InputNo) (s : State), (s.input y).pending = none → exec (.filterTimerExpiry y) s = .next s) ∧
  (∀ (y : InputNo) (p : PendingChange) (s : State), (s.input y).pending = some p →
    exec (.filterTimerExpiry y) s = .next ((State.updInput { s with elapsed := max s.elapsed p.due } y
      (fun i => { i with pending := none })).setFiltered y p.active).settle) ∧
  ∀ (y : InputNo) (active : Bool) (s : State),
    let i := s.input y
    let latched := if active ∧ ¬ i.latched then (s.inputCfg y).latch else i.latched
    let t := s.updInput y (fun i => { i with active := active, latched := latched })
    (i.active = active ∨ i.latched = true → s.setFiltered y active = s.updInput y (fun i => { i with active := active })) ∧
    (i.active ≠ active → i.latched = false →
      let edge : Edge := if active then .raised else .cleared
      let u := t.append .stopActive (some (.input y)) edge
      ((s.inputCfg y).role = .event → s.setFiltered y active = t.append .inputEdge (some (.input y)) edge) ∧
      ((s.inputCfg y).role = .stop → s.setFiltered y active =
        if u.roleInForce .stop = s.feeder.stop then u
        else State.recomputeCeiling { u with feeder := { u.feeder with stop := u.roleInForce .stop } }) ∧
      ((s.inputCfg y).role = .derate → s.setFiltered y active =
        if t.roleInForce .derate = s.feeder.derate then t
        else State.recomputeCeiling { t with feeder := { t.feeder with derate := t.roleInForce .derate } }))

/-! ### The post line -/

/-- R127, R141, R142, R132, R76, R105, R21, R27, R17, R29 to R31, R44: a status from a poll, taken within its window alone:
the line, the counts, the held grant with its reconciling, its notices and its decrease-done test, the energy, which never
decreases, the plug, the van frame and the reconciling of a bay that left Off. The model's choice: a bay disabled since its
probe was sent leaves Off all the same (entry 35), a reading that falls but stays at or above the baseline keeps the energy
(entry 13), a risen held grant is reconciled before its notices (entry 36), a Faulted bay's keep-alive due is set as any
other's (entry 32), and the decrease-done test of a Faulted bay comes before the counter (entry 41). -/
def Obligations.PostStatusIsTaken : Prop :=
  (∀ (b : BayNo) (st : PostStatus) (c : OnLine) (s : State), statusValid st = true → s.line.carrying = some c →
    c.bay = b → c.what = .poll →
    (c.windowDue < s.elapsed → exec (.postStatus b st) s = .next s) ∧
    (s.elapsed ≤ c.windowDue → c.abandoned = true → exec (.postStatus b st) s =
      .next (State.settle { s with line := { s.line with carrying := none } })) ∧
    (s.elapsed ≤ c.windowDue → c.abandoned = false →
      let counts := (s.bay b).state ≠ .off ∧ (s.bay b).state ≠ .faulted
      let t : State := { s with line := { s.line with
        carrying := none
        bays := s.line.bays.set b { s.lineBay b with
          opn := none
          silent := if counts then 0 else (s.lineBay b).silent
          refuse := if counts then 0 else (s.lineBay b).refuse } } }
      let u := (t.lineTakesStatus b st).bayTakesStatus b st
      let v := match st.plugIn, st.frame with
        | true, some f => u.takeFrame b f
        | _, _ => u
      exec (.postStatus b st) s = .next (if (s.bay b).state = .off then v.reconcile b else v).settle)) ∧
  (∀ st : PostStatus, statusValid st = true ↔ st.output ≤ 60 ∧ st.counter ≤ 65535 ∧ st.limit ≤ 60) ∧
  (∀ (b : BayNo) (st : PostStatus) (s : State), statusValid st = false → exec (.postStatus b st) s = .next s.settle) ∧
  (∀ (b : BayNo) (st : PostStatus) (s : State),
    let t := s.lineTakesStatus b st
    (t.lineBay b).held = (if st.plugIn = false then 0 else if (s.lineBay b).held < st.output then st.output
      else if (s.bay b).state = .faulted ∧ st.output = 0 then 0 else (s.lineBay b).held) ∧
    (st.plugIn = false → (t.lineBay b).pGrant = none ∧ (t.lineBay b).pWake = none ∧ (t.lineBay b).pUnlock = none ∧
      (t.lineBay b).keepDue = none) ∧
    (st.plugIn = true → (s.lineBay b).held < st.output → (t.lineBay b).keepDue =
      some ((s.lineBay b).keepDue.getD (s.elapsed + 8000))) ∧
    (let line : LineBay → State := fun l => { s with line := { s.line with bays := s.line.bays.set b l } }
    let l := s.lineBay b
    t = if st.plugIn = false then
        ((line { l with held := 0, pGrant := none, pWake := none, pUnlock := none, keepDue := none }).updBay b (fun r =>
          { r with wakePending := false })).noteExposure b (s.exposure b)
      else if l.held < st.output then
        ((line { l with
          held := st.output, keepDue := some (l.keepDue.getD (s.elapsed + 8000)) }).reconcile b).noteExposure b
            (s.exposure b)
      else if (s.bay b).state = .faulted ∧ st.output = 0 ∧ 0 < l.held then
        ((line { l with held := 0 }).noteExposure b (s.exposure b)).decreaseDone b
      else s)) ∧
  (∀ (b : BayNo) (before : Nat) (s : State),
    s.exposure b = (match (s.lineBay b).opn with
      | some ⟨.grant v, _, _, _⟩ => max (s.lineBay b).held v
      | _ => (s.lineBay b).held) ∧
    s.exposureSum = ((List.finRange 24).map s.exposure).sum ∧
    s.noteExposure b before = if s.exposure b = before then s
      else if before < s.exposure b ∧ s.eligible b = false then s.heldCheck.trimCheck
      else s.heldCheck) ∧
  (∀ (b : BayNo) (reading : Nat) (s : State), (∀ o, s.orderOf? b = some o → o.state.isBound = false) →
    s.takeCounter b reading = s) ∧
  (∀ (b : BayNo) (reading : Nat) (o : Order) (s : State), s.orderOf? b = some o → o.state.isBound = true →
    ((s.bay b).baseline ≤ reading → s.takeCounter b reading = { s with roster := s.roster.map (fun x =>
      if x.tag = o.tag then { x with
        delivered := max x.delivered (min 65535 (x.carried + (reading - (s.bay b).baseline))) } else x) }) ∧
    (reading < (s.bay b).baseline → s.takeCounter b reading = { s with
      bays := s.bays.set b { s.bay b with baseline := reading }
      roster := s.roster.map (fun x => if x.tag = o.tag then { x with carried := x.delivered } else x) })) ∧
  (∀ (b : BayNo) (st : PostStatus) (s : State),
    let r := (s.bayTakesStatus b st).bay b
    r.plugIn = st.plugIn ∧ r.output = st.output ∧ r.counter = st.counter ∧ r.limit = st.limit ∧
    r.state = match (s.bay b).state, st.plugIn with
      | .off, false | .vacant, false => .vacant
      | .off, true | .vacant, true => .attached
      | .faulted, _ => .faulted
      | _, false => .vacant
      | x, true => x) ∧
  (∀ (b : BayNo) (st : PostStatus) (s : State), s.bayTakesStatus b st =
    ((s.updBay b (fun r => { r with
      plugIn := st.plugIn, output := st.output, counter := st.counter, limit := st.limit })).takeCounter b
        st.counter).plugReaction b st.plugIn (s.bay b).plugIn) ∧
  (∀ (b : BayNo) (wasIn : Bool) (s : State),
    let unplugged : State → State := fun t => t.append .bayUnplugged (some (.bay b)) .raised
    let closed : State := match s.orderOf? b with
      | none => s
      | some o => s.closeOrder o.tag (if o.state = .closing then .cancelled
          else if s.remaining b o = 0 then .departed else .short)
    ((s.bay b).state = .off → s.plugReaction b false wasIn = s.updBay b (fun r => { r with state := .vacant })) ∧
    ((s.bay b).state = .vacant → s.plugReaction b false wasIn = s) ∧
    ((s.bay b).state = .off ∨ (s.bay b).state = .vacant → s.plugReaction b true wasIn =
      (s.updBay b (fun r => { r with
        state := .attached, identity := none, packSlot := none, lockSlot := false, pack := none,
        lastFrame := none })).append .bayAttached (some (.bay b)) .raised) ∧
    ((s.bay b).state ≠ .off → (s.bay b).state ≠ .vacant → s.plugReaction b true wasIn = s) ∧
    ((s.bay b).state = .faulted →
      (∀ o, s.orderOf? b = some o → s.plugReaction b false wasIn = unplugged (closed.updBay b (fun r => { r with
        boundOrder := none, baseline := 0, conflict := false }))) ∧
      (s.orderOf? b = none → s.plugReaction b false wasIn = if wasIn then unplugged s else s)) ∧
    ((s.bay b).state ≠ .off → (s.bay b).state ≠ .vacant → (s.bay b).state ≠ .faulted →
      s.plugReaction b false wasIn = (unplugged (closed.updBay b (fun r => { r with
        state := .vacant, identity := none, packSlot := none, lockSlot := false, step := none, admTimer := none,
        pack := none, lastFrame := none, boundOrder := none, baseline := 0, conflict := false, dormTimer := none,
        dormantSince := none, retryAt := none, barred := false, wakeWindow := none }))).leaveEligibility
          (s.eligible b) b)) ∧
  ∀ (b : BayNo) (o : Order) (s : State), (s.bay b).state = .bound ∨ (s.bay b).state = .dormant ∨
    (s.bay b).state = .waking → s.orderOf? b = some o → ∀ wasIn,
    let out : CloseOutcome := if o.state = .closing then .cancelled
      else if s.remaining b o = 0 then .departed else .short
    s.plugReaction b false wasIn = ((((s.closeOrder o.tag out).updBay b (fun r => { r with
      state := .vacant, identity := none, packSlot := none, lockSlot := false, step := none, admTimer := none,
      pack := none, lastFrame := none, boundOrder := none, baseline := 0, conflict := false, dormTimer := none,
      dormantSince := none, retryAt := none, barred := false, wakeWindow := none })).append .bayUnplugged
        (some (.bay b)) .raised).leaveEligibility (s.eligible b) b)

/-- R127, R131, R130, R132, R107: the final outcome of a Grant, whichever it is, in the steps of R131: the held grant and
the counts with the fault they reach, the end of the open exchange with the notices of its exposure, the report of a refused
increase, keep-alive due, the decrease-done test and the reconciling; and the refusal of an increase. A Grant outcome takes
Accept and Refuse at once within the window, and discards them after it (the silent one is R128's). The model's choice: of
the later steps a faulting outcome takes the end of the exchange and the report of a refused increase (entry 17). -/
def Obligations.GrantOutcomeIsTaken : Prop :=
  (∀ (b : BayNo) (o : PostOutcome) (c : OnLine) (v defers sentAt : Nat) (s : State),
    s.line.carrying = some c → c.bay = b → c.what = .grant v → c.abandoned = false →
    (s.lineBay b).opn = some ⟨.grant v, none, defers, sentAt⟩ →
    let counts : Prop := (s.bay b).state ≠ .off ∧ (s.bay b).state ≠ .faulted
    let held := if o = .accept then v else (s.lineBay b).held
    let silent := if o = .silent then (s.lineBay b).silent + 1 else 0
    let refuse := if o = .refuse then (s.lineBay b).refuse + 1 else 0
    let faults : Prop := counts ∧ (3 ≤ silent ∨ 3 ≤ refuse)
    let t := s.finish b o
    (o ≠ .silent → s.elapsed ≤ c.windowDue → exec (.grantOutcome b o) s = .next t.settle) ∧
      (o ≠ .silent → c.windowDue < s.elapsed → exec (.grantOutcome b o) s = .next s) ∧ t.line.carrying = none ∧
      (t.lineBay b).held = held ∧ (t.lineBay b).opn = none ∧ (t.lineBay b).increase = false ∧
      (counts → (t.lineBay b).silent = silent ∧ (t.lineBay b).refuse = refuse) ∧
      (¬ counts → (t.lineBay b).silent = (s.lineBay b).silent ∧ (t.lineBay b).refuse = (s.lineBay b).refuse) ∧
      (¬ faults → (t.lineBay b).keepDue = if 0 < held then some (sentAt + 8000) else none) ∧
      (¬ faults → counts → (t.lineBay b).pGrant.map (fun p => p.value) =
        if t.target b = held then none else some (t.target b)) ∧
      (faults → (t.bay b).state = .faulted ∧ (t.lineBay b).pGrant = none ∧ (t.lineBay b).pWake = none ∧
        (t.lineBay b).pUnlock = none ∧ (t.lineBay b).keepDue = none) ∧
      ((s.lineBay b).increase = true → o = .refuse → t.alloc.limits[b] = some held ∧ t.target b ≤ held) ∧
      (∀ x, x ≠ b → (t.lineBay x).held = (s.lineBay x).held ∧ (t.lineBay x).opn = (s.lineBay x).opn) ∧
      (let counted : State := { s with line := { s.line with bays := s.line.bays.set b { s.lineBay b with
        held := held
        silent := if counts then silent else (s.lineBay b).silent
        refuse := if counts then refuse else (s.lineBay b).refuse } } }
      let faulted : State := if faults then counted.faultLimit b else counted
      let ended : State := { faulted with line := { faulted.line with
        carrying := none
        bays := faulted.line.bays.set b { faulted.lineBay b with opn := none, increase := false } } }
      let noted := ended.noteExposure b (max (s.lineBay b).held v)
      let told := if (s.lineBay b).increase = true ∧ o = .refuse then noted.refusedIncrease b else noted
      t = if faults then told
        else ((told.updLineBay b (fun l => { l with
          keepDue := if 0 < l.held then some (sentAt + 8000) else none })).decreaseDone b).reconcile b)) ∧
  ∀ (b : BayNo) (s : State),
    let held := (s.lineBay b).held
    let limited : State := { s with alloc := { s.alloc with limits := s.alloc.limits.set b (some held) } }
    s.refusedIncrease b = if held < s.target b then
        State.reconcile { limited with alloc := { limited.alloc with
          targets := s.alloc.targets.set b (if s.cfg.postMin ≤ held then held else 0) } } b
      else limited

/-- R117, R118, R120, R139, R143, R130, R43, R127: the final outcome of a Wake, of an Unlock and of a Poll that ends without a
status, each as its command takes it within the window and not after it; a third Refuse or Silent in a row takes the bay to
Faulted with BayFaulted, and its Closing order is closed Cancelled; and R120: how a failed wake try is counted. The model's
choice: a Wake that faults its bay is no failed try (entry 17), a try that fails at a count of 2 counts nothing
(entry 30), and a fault's OrderClosed comes before its HoldReached (entry 44). -/
def Obligations.WakeAndUnlockOutcomesAreTaken : Prop :=
  (∀ (b : BayNo) (c : OnLine) (defers sentAt : Nat) (s : State), s.line.carrying = some c → c.bay = b →
    c.abandoned = false → (s.lineBay b).opn = some ⟨c.what, none, defers, sentAt⟩ →
    let counts : Prop := (s.bay b).state ≠ .off ∧ (s.bay b).state ≠ .faulted
    let limit : PostOutcome → Prop := fun o => counts ∧
      (o = .refuse ∧ 2 ≤ (s.lineBay b).refuse ∨ o = .silent ∧ 2 ≤ (s.lineBay b).silent)
    let ended : PostOutcome → State := fun o => { s with line := { s.line with
      carrying := none
      bays := s.line.bays.set b { s.lineBay b with
        opn := none
        silent := if counts then (if o = .silent then (s.lineBay b).silent + 1 else 0) else (s.lineBay b).silent
        refuse := if counts then (if o = .refuse then (s.lineBay b).refuse + 1 else 0) else (s.lineBay b).refuse } } }
    (∀ pulse period, c.what = .wake pulse period →
      let same : Prop := (s.bay b).state = .dormant ∧ (s.bay b).dormantSince = some period
      s.finish b .accept = (ended .accept).updBay b (fun r => { r with
        wakePending := false
        state := if same then .waking else r.state
        wakeWindow := if same then some (s.elapsed + 90000) else r.wakeWindow }) ∧
      (∀ o, o ≠ .accept →
        let t := (ended o).updBay b (fun r => { r with wakePending := false })
        (limit o → s.finish b o = t.faultLimit b) ∧ (¬ limit o → same → s.finish b o = t.wakeTryFailed b) ∧
          (¬ limit o → ¬ same → s.finish b o = t)) ∧
      ∀ o, o ≠ .silent →
        (s.elapsed ≤ c.windowDue → exec (.wakeOutcome b o) s = .next (s.finish b o).settle) ∧
        (c.windowDue < s.elapsed → exec (.wakeOutcome b o) s = .next s)) ∧
    (∀ age, c.what = .unlock age →
      s.finish b .accept = ended .accept ∧
      (∀ o, o ≠ .accept →
        let t := (ended o).updLineBay b (fun l => { l with pUnlock := some age })
        (limit o → s.finish b o = t.faultLimit b) ∧ (¬ limit o → s.finish b o = t)) ∧
      ∀ o, o ≠ .silent →
        (s.elapsed ≤ c.windowDue → exec (.unlockOutcome b o) s = .next (s.finish b o).settle) ∧
        (c.windowDue < s.elapsed → exec (.unlockOutcome b o) s = .next s)) ∧
    (c.what = .poll → ∀ o, o ≠ .accept →
      (limit o → s.finish b o = (ended o).faultLimit b) ∧ (¬ limit o → s.finish b o = ended o))) ∧
  (∀ (b : BayNo) (s : State), (s.orderOf? b = none → s.wakeTryFailed b = s) ∧ ∀ o, s.orderOf? b = some o →
    s.wakeTryFailed b =
      if o.state = .closing then s
      else if (s.bay b).tryCount = 0 then
        s.updBay b (fun r => { r with tryCount := 1, retryAt := some (s.elapsed + 120000) })
      else if (s.bay b).tryCount = 1 then
        State.append { s with
          bays := s.bays.set b { s.bay b with tryCount := 2 }
          roster := s.roster.map (fun x => if x.tag = o.tag then { x with wakeFailed := true } else x) }
          .wakeFailed (some (.order o.tag)) .raised
      else s) ∧
  ∀ (b : BayNo) (s : State), (s.bay b).state ≠ .off → (s.bay b).state ≠ .faulted →
    let t := s.faultLimit b
    (let reported := s.append .bayFaulted (some (.bay b)) .raised
    let faulted : State := { reported with
      bays := s.bays.set b { s.bay b with
        state := .faulted, step := none, admTimer := none, dormTimer := none, dormantSince := none, retryAt := none,
        barred := false, wakeWindow := none, wakePending := false }
      line := { s.line with bays := s.line.bays.set b { s.lineBay b with
        pGrant := none, pWake := none, pUnlock := none, keepDue := none } } }
    let closed : State := match s.orderOf? b with
      | none => faulted
      | some o => if o.state = .closing then (faulted.closeOrder o.tag .cancelled).updBay b (fun r => { r with
          boundOrder := none, baseline := 0, conflict := false }) else faulted
    t = (closed.leaveEligibility (s.eligible b) b).heldCheck) ∧
    t.lineBay b = { s.lineBay b with pGrant := none, pWake := none, pUnlock := none, keepDue := none } ∧
    ((t.bay b).state = .faulted ∧ (t.bay b).step = none ∧ (t.bay b).admTimer = none ∧ (t.bay b).dormTimer = none ∧
      (t.bay b).dormantSince = none ∧ (t.bay b).wakePending = false ∧ (t.bay b).wakeWindow = none) ∧
    (s.eligible b = true → t.target b = 0) ∧ t.line.carrying = s.line.carrying

/-- R127 to R129, R126, R138, R140, R144: a Defer, the answer window, an abandoned exchange, and the moments that make an
exchange due. The model's choice: a due command runs time to the due moment and does nothing without one (entry 2), an
outcome Silent stands for the windows that remain (entry 26), an answer for a bay that the line does not serve is discarded
(entry 3), and a Defer leaves the Silent count of an Off or Faulted bay (entry 18). -/
def Obligations.WindowsDefersAndDueTimesAct : Prop :=
  (∀ (b : BayNo) (c : OnLine) (o : OpenX) (s : State), s.line.carrying = some c → c.bay = b → c.abandoned = false →
    (s.lineBay b).opn = some o →
    (c.windowDue < s.elapsed → exec (.deferAnswer b) s = .next s) ∧
    (s.elapsed ≤ c.windowDue → o.defers < 5 → exec (.deferAnswer b) s = .next (State.settle { s with line := { s.line with
      carrying := none
      bays := s.line.bays.set b { s.lineBay b with
        opn := some { o with defers := o.defers + 1, retryDue := some (s.elapsed + 250) }
        silent := if (s.bay b).state = .off ∨ (s.bay b).state = .faulted then (s.lineBay b).silent else 0 } } })) ∧
    (s.elapsed ≤ c.windowDue → 5 ≤ o.defers → exec (.deferAnswer b) s = .next (s.finish b .refuse).settle)) ∧
  (∀ (b : BayNo) (c : OnLine) (s : State), s.line.carrying = some c → c.bay = b → c.abandoned = true → ∀ k : Instr,
    k = .deferAnswer b ∨ (∃ o, (∃ v, c.what = .grant v ∧ k = .grantOutcome b o) ∨
      (∃ pulse period, c.what = .wake pulse period ∧ k = .wakeOutcome b o) ∨
      (∃ age, c.what = .unlock age ∧ k = .unlockOutcome b o)) →
    ((∃ v, k = .grantOutcome v .silent) ∨ (∃ v, k = .wakeOutcome v .silent) ∨ (∃ v, k = .unlockOutcome v .silent) →
      exec k s = exec .answerWindowExpiry s) ∧
    (¬ ((∃ v, k = .grantOutcome v .silent) ∨ (∃ v, k = .wakeOutcome v .silent) ∨ (∃ v, k = .unlockOutcome v .silent)) →
      exec k s = if s.elapsed ≤ c.windowDue then
        .next (State.settle { s with line := { s.line with carrying := none } }) else .next s)) ∧
  (∀ (c : OnLine) (s : State), s.line.carrying = some c → c.abandoned = true → exec .answerWindowExpiry s =
    .next (State.settle { s with elapsed := max s.elapsed c.windowDue, line := { s.line with carrying := none } })) ∧
  (∀ (c : OnLine) (o : OpenX) (s : State), s.line.carrying = some c → (s.lineBay c.bay).opn = some o →
    let t := { s with elapsed := max s.elapsed c.windowDue }
    (c.abandoned = false → c.repeated = false → exec .answerWindowExpiry s = .next { t with line := { t.line with
      carrying := some ⟨c.bay, c.what, t.elapsed + 50, true, false⟩
      bays := t.line.bays.set c.bay { t.lineBay c.bay with
        opn := some { o with sentAt := t.elapsed }
        keepDue := match c.what with
          | .grant _ => some (t.elapsed + 8000)
          | _ => (t.lineBay c.bay).keepDue } } }) ∧
    (c.abandoned = false → c.repeated = true → exec .answerWindowExpiry s = .next (t.finish c.bay .silent).settle)) ∧
  (∀ (b : BayNo) (c : OnLine) (o : OpenX) (s : State), s.line.carrying = some c → c.bay = b → c.abandoned = false →
    (s.lineBay b).opn = some o → ∀ k : Instr,
    (∃ v, c.what = .grant v ∧ k = .grantOutcome b .silent) ∨
      (∃ pulse period, c.what = .wake pulse period ∧ k = .wakeOutcome b .silent) ∨
      (∃ age, c.what = .unlock age ∧ k = .unlockOutcome b .silent) →
    (c.repeated = true → exec k s = exec .answerWindowExpiry s) ∧
    (c.repeated = false → ∃ t, exec .answerWindowExpiry s = .next t ∧ exec k s = exec .answerWindowExpiry t)) ∧
  (∀ (b : BayNo) (s : State), (∀ c, s.line.carrying = some c → c.bay ≠ b) →
    (∀ o, exec (.grantOutcome b o) s = .next s.settle ∧ exec (.wakeOutcome b o) s = .next s.settle ∧
      exec (.unlockOutcome b o) s = .next s.settle) ∧
    exec (.deferAnswer b) s = .next s.settle ∧ ∀ st, exec (.postStatus b st) s = .next s.settle) ∧
  (∀ s : State, s.line.carrying = none → exec .answerWindowExpiry s = .next s.settle) ∧
  ∀ (b : BayNo) (due : Nat) (s : State),
    (∀ x defers sentAt, (s.lineBay b).opn = some ⟨x, some due, defers, sentAt⟩ →
      exec (.deferRetryDue b) s = .next (State.settle { s with elapsed := max s.elapsed due })) ∧
    ((s.lineBay b).keepDue = some due →
      exec (.keepAliveDue b) s = .next (State.settle { s with elapsed := max s.elapsed due })) ∧
    (s.line.probeOwed = true → s.line.lastProbe = some due →
      exec .probeSpacingEnd s = .next (State.settle { s with elapsed := max s.elapsed (due + 5000) })) ∧
    ((∀ x t defers sentAt, (s.lineBay b).opn ≠ some ⟨x, some t, defers, sentAt⟩) →
      exec (.deferRetryDue b) s = .next s) ∧
    ((s.lineBay b).keepDue = none → exec (.keepAliveDue b) s = .next s) ∧
    (s.line.probeOwed = false → exec .probeSpacingEnd s = .next s)

/-- R133: the pending Grant of a bay is kept in step with its target. -/
def Obligations.ReconcilingKeepsThePendingGrant : Prop :=
  ∀ (b : BayNo) (s : State),
    let reference := match (s.lineBay b).opn with
      | some ⟨.grant v, _, _, _⟩ => v
      | _ => (s.lineBay b).held
    ((s.bay b).state = .off ∨ (s.bay b).state = .faulted → s.reconcile b = s) ∧
    ((s.bay b).state ≠ .off → (s.bay b).state ≠ .faulted →
      (s.target b = reference → s.reconcile b = s.updLineBay b (fun l => { l with pGrant := none })) ∧
      (∀ p, s.target b ≠ reference → (s.lineBay b).pGrant = some p →
        s.reconcile b = s.updLineBay b (fun l => { l with pGrant := some ⟨s.target b, p.age⟩ })) ∧
      (s.target b ≠ reference → (s.lineBay b).pGrant = none → s.reconcile b = { s with line := { s.line with
        bays := s.line.bays.set b { s.lineBay b with pGrant := some ⟨s.target b, s.line.nextAge⟩ }
        nextAge := s.line.nextAge + 1 } }))

/-- R126, R127, R129, R132, R134 to R140, R116: the free line sends one exchange, of the first class that holds one that may
be started, and what a start, the start of a pending Grant and a sending again leave. The model's choice: ties between equal due times go to the lower bay number (entry 15), and with no bay to be polled the pass is
complete at once and the probe it owes is tried (entry 19). -/
def Obligations.SelectionFollowsTheServiceOrder : Prop :=
  (∀ s : State, s.line.carrying ≠ none → s.settle = s) ∧
  (∀ (b : BayNo) (x : Exchange) (s : State),
    let l := s.lineBay b
    let due : Option Nat := match x with
      | .grant _ => some (s.elapsed + 8000)
      | _ => l.keepDue
    let sent : LineBay → State := fun l => { s with line := { s.line with
      carrying := some ⟨b, x, s.elapsed + 50, false, false⟩, bays := s.line.bays.set b l } }
    s.start b x = (sent { l with
      opn := some ⟨x, none, 0, s.elapsed⟩
      keepDue := due
      increase := match x with
        | .grant v => decide (l.held < v)
        | _ => l.increase }).noteExposure b (s.exposure b) ∧
    (∀ v, s.startPending b v = (s.updLineBay b (fun l => { l with pGrant := none })).start b (.grant v)) ∧
    ∀ retry defers sentAt, s.resend b ⟨x, retry, defers, sentAt⟩ =
      sent { l with opn := some ⟨x, none, defers, s.elapsed⟩, keepDue := due }) ∧
  (∀ (b : BayNo) (s : State),
    (s.wakeMayStart b = true ↔ (s.bay b).state = .dormant ∧ s.feeder.stop = false ∧ s.feeder.hold = .running ∧
      ∃ o, s.orderOf? b = some o ∧ o.state.live = true ∧ o.released = false ∧ o.wakePermitted = true) ∧
    (s.unlockMayStart b = true ↔ (s.lineBay b).held = 0 ∧ (∀ v t n m, (s.lineBay b).opn ≠ some ⟨.grant v, t, n, m⟩) ∧
      (∀ p, (s.lineBay b).pGrant = some p → (s.lineBay b).held ≤ p.value) ∧ s.feeder.stop = false ∧
      (s.bay b).state ≠ .faulted) ∧
    (s.keepAliveReady b = true ↔ 0 < (s.lineBay b).held ∧ (s.lineBay b).opn = none ∧ (s.bay b).state ≠ .off ∧
      (s.bay b).state ≠ .faulted ∧ (∃ due, (s.lineBay b).keepDue = some due ∧ due ≤ s.elapsed) ∧
      ∀ p, (s.lineBay b).pGrant = some p → (s.lineBay b).held < p.value) ∧
    (s.spacingOver = true ↔ ∀ t, s.line.lastProbe = some t → t + 5000 ≤ s.elapsed) ∧
    (∀ x t n m, (s.lineBay b).opn = some ⟨x, some t, n, m⟩ → s.retryKey b = t) ∧
    s.increaseOrder = s.alloc.ranking ++ (List.finRange 24).filter (fun c => c ∉ s.alloc.ranking) ∧
    baysFrom b = (List.finRange 24).filter (fun c => b ≤ c) ++ (List.finRange 24).filter (fun c => c < b) ∧
    (s.probeable b = true ↔ (s.lineBay b).opn = none ∧
      ((s.bay b).state = .off ∧ s.enabled b = true ∨ (s.bay b).state = .faulted)) ∧
    (s.pollable b = true ↔ (s.lineBay b).opn = none ∧ (s.bay b).state ≠ .off ∧ (s.bay b).state ≠ .faulted)) ∧
  (∀ s : State, s.serviceItems.Pairwise (fun x y => x.age ≤ y.age) ∧ s.serviceItems.Nodup ∧
    ∀ b age, (⟨b, true, age⟩ ∈ s.serviceItems ↔ (s.lineBay b).opn = none ∧
        ∃ w, (s.lineBay b).pWake = some w ∧ w.age = age) ∧
      (⟨b, false, age⟩ ∈ s.serviceItems ↔ (s.lineBay b).opn = none ∧ (s.lineBay b).pUnlock = some age)) ∧
  ∀ s : State, s.line.carrying = none →
    let due : BayNo → Prop := fun b => ∃ x t n m, (s.lineBay b).opn = some ⟨x, some t, n, m⟩ ∧ t ≤ s.elapsed
    let decrease : BayNo → PendingGrant → Prop := fun b p =>
      (s.lineBay b).opn = none ∧ (s.lineBay b).pGrant = some p ∧ p.value < (s.lineBay b).held
    let increase : BayNo → PendingGrant → Prop := fun b p =>
      (s.lineBay b).opn = none ∧ (s.lineBay b).pGrant = some p ∧ (s.lineBay b).held < p.value ∧
        s.exposureSum - s.exposure b + p.value ≤ s.feeder.effective
    let calm : Prop := (∀ b, ¬ due b) ∧ ∀ b p, ¬ decrease b p
    let quiet : Prop := calm ∧ ∀ b, (s.lineBay b).opn = none →
      (s.lineBay b).pWake = none ∧ ((s.lineBay b).pUnlock = none ∨ s.unlockMayStart b = false)
    let mayStart : ServiceItem → Prop := fun i =>
      if i.wake then s.wakeMayStart i.bay = true else s.unlockMayStart i.bay = true
    let passed : List ServiceItem → State := fun items => items.foldl (fun t i =>
      if i.wake then (t.updLineBay i.bay (fun l => { l with pWake := none })).updBay i.bay (fun r =>
        { r with wakePending := false }) else t) s
    (∀ b x t n m, (s.lineBay b).opn = some ⟨x, some t, n, m⟩ → t ≤ s.elapsed →
      (∀ c, c ≠ b → due c → s.retryKey c > t ∨ (s.retryKey c = t ∧ b < c)) →
      s.settle = s.resend b ⟨x, some t, n, m⟩) ∧
    ((∀ b, ¬ due b) → ∀ b p, decrease b p → (∀ c q, c ≠ b → decrease c q → p.age < q.age ∨ (p.age = q.age ∧ b < c)) →
      s.settle = s.startPending b p.value) ∧
    (calm → ∀ front i back, s.serviceItems = front ++ i :: back → mayStart i → (∀ k ∈ front, ¬ mayStart k) →
      (∀ w, i.wake = true → (s.lineBay i.bay).pWake = some w → s.settle = State.start
        ((passed front).updLineBay i.bay (fun l => { l with pWake := none })) i.bay (.wake w.pulse w.period)) ∧
      (i.wake = false → s.settle = State.start
        ((passed front).updLineBay i.bay (fun l => { l with pUnlock := none })) i.bay (.unlock i.age))) ∧
    (calm → (∀ i ∈ s.serviceItems, ¬ mayStart i) → s.settle = (passed s.serviceItems).settle) ∧
    (quiet → ∀ b p front back, s.increaseOrder = front ++ b :: back → increase b p →
      (∀ c ∈ front, ∀ q, ¬ increase c q) → s.settle = s.startPending b p.value) ∧
    (quiet → (∀ b p, ¬ increase b p) →
      (∀ b, s.keepAliveReady b = true → (∀ c, c ≠ b → s.keepAliveReady c = true →
          (s.lineBay b).keepDue.getD 0 < (s.lineBay c).keepDue.getD 0 ∨
            ((s.lineBay b).keepDue.getD 0 = (s.lineBay c).keepDue.getD 0 ∧ b < c)) →
        s.settle = s.start b (.grant (s.lineBay b).held)) ∧
      ((∀ b, s.keepAliveReady b = false) →
        (∀ b, s.line.probeOwed = true → s.spacingOver = true → (baysFrom s.line.probePos).find? s.probeable = some b →
          s.settle = State.start { s with line := { s.line with
            probePos := b + 1, probeOwed := false, lastProbe := some s.elapsed } } b .poll) ∧
        (s.line.probeOwed = false ∨ s.spacingOver = false ∨ (∀ b, s.probeable b = false) →
          (∀ b, (baysFrom s.line.pollPos).find? s.pollable = some b →
            s.settle = State.start { s with line := { s.line with
              pollPos := b + 1
              probeOwed := s.line.probeOwed || decide (b < s.line.pollPos) || b == 23 } } b .poll) ∧
          ((∀ b, s.pollable b = false) →
            (s.spacingOver = false ∨ (∀ b, s.probeable b = false) →
              s.settle = { s with line := { s.line with probeOwed := true } }) ∧
            (s.spacingOver = true → ∀ b, (baysFrom s.line.probePos).find? s.probeable = some b →
              s.settle = State.start { s with line := { s.line with
                probePos := b + 1, probeOwed := false, lastProbe := some s.elapsed } } b .poll)))))

/-- R137: no command but a post status carries the sum of the exposures over the effective ceiling, or further over it;
a status raises it by no more than the output it reports. -/
def Obligations.GuardKeepsExposuresUnderTheCeiling : Prop :=
  (∀ (i : Instr) (s t : State), (∀ b st, i ≠ .postStatus b st) → exec i s = .next t →
    t.exposureSum ≤ max s.exposureSum t.feeder.effective) ∧
  ∀ (b : BayNo) (st : PostStatus) (s t : State), exec (.postStatus b st) s = .next t →
    t.exposureSum ≤ max (s.exposureSum + st.output) t.feeder.effective

end
end

