-- ==== Sys2Proof/Laws/State.lean ====
section
/-! SUPPORT. What each primitive update of the state leaves as it was: one lemma for each field it does not touch, and
what it makes of the part it does. Later proofs cite these and unfold no update. -/

namespace Sys2Proof.Machine

/-! ### updBay -/

@[simp] theorem State.updBay_pending (s : State) (b : BayNo) (f : BayRec → BayRec) : (s.updBay b f).pending = s.pending := rfl
@[simp] theorem State.updBay_elapsed (s : State) (b : BayNo) (f : BayRec → BayRec) : (s.updBay b f).elapsed = s.elapsed := rfl
@[simp] theorem State.updBay_freeCount (s : State) (b : BayNo) (f : BayRec → BayRec) : (s.updBay b f).freeCount = s.freeCount := rfl
@[simp] theorem State.updBay_planner (s : State) (b : BayNo) (f : BayRec → BayRec) : (s.updBay b f).planner = s.planner := rfl
@[simp] theorem State.updBay_site (s : State) (b : BayNo) (f : BayRec → BayRec) : (s.updBay b f).site = s.site := rfl
@[simp] theorem State.updBay_service (s : State) (b : BayNo) (f : BayRec → BayRec) : (s.updBay b f).service = s.service := rfl
@[simp] theorem State.updBay_roster (s : State) (b : BayNo) (f : BayRec → BayRec) : (s.updBay b f).roster = s.roster := rfl
@[simp] theorem State.updBay_waitingLine (s : State) (b : BayNo) (f : BayRec → BayRec) : (s.updBay b f).waitingLine = s.waitingLine := rfl
@[simp] theorem State.updBay_log (s : State) (b : BayNo) (f : BayRec → BayRec) : (s.updBay b f).log = s.log := rfl
@[simp] theorem State.updBay_feeder (s : State) (b : BayNo) (f : BayRec → BayRec) : (s.updBay b f).feeder = s.feeder := rfl
@[simp] theorem State.updBay_alloc (s : State) (b : BayNo) (f : BayRec → BayRec) : (s.updBay b f).alloc = s.alloc := rfl
@[simp] theorem State.updBay_line (s : State) (b : BayNo) (f : BayRec → BayRec) : (s.updBay b f).line = s.line := rfl
@[simp] theorem State.updBay_events (s : State) (b : BayNo) (f : BayRec → BayRec) : (s.updBay b f).events = s.events := rfl
@[simp] theorem State.updBay_inputs (s : State) (b : BayNo) (f : BayRec → BayRec) : (s.updBay b f).inputs = s.inputs := rfl
@[simp] theorem State.updBay_store (s : State) (b : BayNo) (f : BayRec → BayRec) : (s.updBay b f).store = s.store := rfl

/-! ### updLineBay -/

@[simp] theorem State.updLineBay_pending (s : State) (b : BayNo) (f : LineBay → LineBay) : (s.updLineBay b f).pending = s.pending := rfl
@[simp] theorem State.updLineBay_elapsed (s : State) (b : BayNo) (f : LineBay → LineBay) : (s.updLineBay b f).elapsed = s.elapsed := rfl
@[simp] theorem State.updLineBay_freeCount (s : State) (b : BayNo) (f : LineBay → LineBay) : (s.updLineBay b f).freeCount = s.freeCount := rfl
@[simp] theorem State.updLineBay_planner (s : State) (b : BayNo) (f : LineBay → LineBay) : (s.updLineBay b f).planner = s.planner := rfl
@[simp] theorem State.updLineBay_site (s : State) (b : BayNo) (f : LineBay → LineBay) : (s.updLineBay b f).site = s.site := rfl
@[simp] theorem State.updLineBay_service (s : State) (b : BayNo) (f : LineBay → LineBay) : (s.updLineBay b f).service = s.service := rfl
@[simp] theorem State.updLineBay_roster (s : State) (b : BayNo) (f : LineBay → LineBay) : (s.updLineBay b f).roster = s.roster := rfl
@[simp] theorem State.updLineBay_waitingLine (s : State) (b : BayNo) (f : LineBay → LineBay) : (s.updLineBay b f).waitingLine = s.waitingLine := rfl
@[simp] theorem State.updLineBay_log (s : State) (b : BayNo) (f : LineBay → LineBay) : (s.updLineBay b f).log = s.log := rfl
@[simp] theorem State.updLineBay_bays (s : State) (b : BayNo) (f : LineBay → LineBay) : (s.updLineBay b f).bays = s.bays := rfl
@[simp] theorem State.updLineBay_feeder (s : State) (b : BayNo) (f : LineBay → LineBay) : (s.updLineBay b f).feeder = s.feeder := rfl
@[simp] theorem State.updLineBay_alloc (s : State) (b : BayNo) (f : LineBay → LineBay) : (s.updLineBay b f).alloc = s.alloc := rfl
@[simp] theorem State.updLineBay_events (s : State) (b : BayNo) (f : LineBay → LineBay) : (s.updLineBay b f).events = s.events := rfl
@[simp] theorem State.updLineBay_inputs (s : State) (b : BayNo) (f : LineBay → LineBay) : (s.updLineBay b f).inputs = s.inputs := rfl
@[simp] theorem State.updLineBay_store (s : State) (b : BayNo) (f : LineBay → LineBay) : (s.updLineBay b f).store = s.store := rfl

/-! ### withTarget -/

@[simp] theorem State.withTarget_pending (s : State) (b : BayNo) (v : Nat) : (s.withTarget b v).pending = s.pending := rfl
@[simp] theorem State.withTarget_elapsed (s : State) (b : BayNo) (v : Nat) : (s.withTarget b v).elapsed = s.elapsed := rfl
@[simp] theorem State.withTarget_freeCount (s : State) (b : BayNo) (v : Nat) : (s.withTarget b v).freeCount = s.freeCount := rfl
@[simp] theorem State.withTarget_planner (s : State) (b : BayNo) (v : Nat) : (s.withTarget b v).planner = s.planner := rfl
@[simp] theorem State.withTarget_site (s : State) (b : BayNo) (v : Nat) : (s.withTarget b v).site = s.site := rfl
@[simp] theorem State.withTarget_service (s : State) (b : BayNo) (v : Nat) : (s.withTarget b v).service = s.service := rfl
@[simp] theorem State.withTarget_roster (s : State) (b : BayNo) (v : Nat) : (s.withTarget b v).roster = s.roster := rfl
@[simp] theorem State.withTarget_waitingLine (s : State) (b : BayNo) (v : Nat) : (s.withTarget b v).waitingLine = s.waitingLine := rfl
@[simp] theorem State.withTarget_log (s : State) (b : BayNo) (v : Nat) : (s.withTarget b v).log = s.log := rfl
@[simp] theorem State.withTarget_bays (s : State) (b : BayNo) (v : Nat) : (s.withTarget b v).bays = s.bays := rfl
@[simp] theorem State.withTarget_feeder (s : State) (b : BayNo) (v : Nat) : (s.withTarget b v).feeder = s.feeder := rfl
@[simp] theorem State.withTarget_line (s : State) (b : BayNo) (v : Nat) : (s.withTarget b v).line = s.line := rfl
@[simp] theorem State.withTarget_events (s : State) (b : BayNo) (v : Nat) : (s.withTarget b v).events = s.events := rfl
@[simp] theorem State.withTarget_inputs (s : State) (b : BayNo) (v : Nat) : (s.withTarget b v).inputs = s.inputs := rfl
@[simp] theorem State.withTarget_store (s : State) (b : BayNo) (v : Nat) : (s.withTarget b v).store = s.store := rfl

/-! ### withCap -/

@[simp] theorem State.withCap_pending (s : State) (b : BayNo) (v : Nat) : (s.withCap b v).pending = s.pending := rfl
@[simp] theorem State.withCap_elapsed (s : State) (b : BayNo) (v : Nat) : (s.withCap b v).elapsed = s.elapsed := rfl
@[simp] theorem State.withCap_freeCount (s : State) (b : BayNo) (v : Nat) : (s.withCap b v).freeCount = s.freeCount := rfl
@[simp] theorem State.withCap_planner (s : State) (b : BayNo) (v : Nat) : (s.withCap b v).planner = s.planner := rfl
@[simp] theorem State.withCap_site (s : State) (b : BayNo) (v : Nat) : (s.withCap b v).site = s.site := rfl
@[simp] theorem State.withCap_service (s : State) (b : BayNo) (v : Nat) : (s.withCap b v).service = s.service := rfl
@[simp] theorem State.withCap_roster (s : State) (b : BayNo) (v : Nat) : (s.withCap b v).roster = s.roster := rfl
@[simp] theorem State.withCap_waitingLine (s : State) (b : BayNo) (v : Nat) : (s.withCap b v).waitingLine = s.waitingLine := rfl
@[simp] theorem State.withCap_log (s : State) (b : BayNo) (v : Nat) : (s.withCap b v).log = s.log := rfl
@[simp] theorem State.withCap_bays (s : State) (b : BayNo) (v : Nat) : (s.withCap b v).bays = s.bays := rfl
@[simp] theorem State.withCap_feeder (s : State) (b : BayNo) (v : Nat) : (s.withCap b v).feeder = s.feeder := rfl
@[simp] theorem State.withCap_line (s : State) (b : BayNo) (v : Nat) : (s.withCap b v).line = s.line := rfl
@[simp] theorem State.withCap_events (s : State) (b : BayNo) (v : Nat) : (s.withCap b v).events = s.events := rfl
@[simp] theorem State.withCap_inputs (s : State) (b : BayNo) (v : Nat) : (s.withCap b v).inputs = s.inputs := rfl
@[simp] theorem State.withCap_store (s : State) (b : BayNo) (v : Nat) : (s.withCap b v).store = s.store := rfl

/-! ### withLimit -/

@[simp] theorem State.withLimit_pending (s : State) (b : BayNo) (v : Option Nat) : (s.withLimit b v).pending = s.pending := rfl
@[simp] theorem State.withLimit_elapsed (s : State) (b : BayNo) (v : Option Nat) : (s.withLimit b v).elapsed = s.elapsed := rfl
@[simp] theorem State.withLimit_freeCount (s : State) (b : BayNo) (v : Option Nat) : (s.withLimit b v).freeCount = s.freeCount := rfl
@[simp] theorem State.withLimit_planner (s : State) (b : BayNo) (v : Option Nat) : (s.withLimit b v).planner = s.planner := rfl
@[simp] theorem State.withLimit_site (s : State) (b : BayNo) (v : Option Nat) : (s.withLimit b v).site = s.site := rfl
@[simp] theorem State.withLimit_service (s : State) (b : BayNo) (v : Option Nat) : (s.withLimit b v).service = s.service := rfl
@[simp] theorem State.withLimit_roster (s : State) (b : BayNo) (v : Option Nat) : (s.withLimit b v).roster = s.roster := rfl
@[simp] theorem State.withLimit_waitingLine (s : State) (b : BayNo) (v : Option Nat) : (s.withLimit b v).waitingLine = s.waitingLine := rfl
@[simp] theorem State.withLimit_log (s : State) (b : BayNo) (v : Option Nat) : (s.withLimit b v).log = s.log := rfl
@[simp] theorem State.withLimit_bays (s : State) (b : BayNo) (v : Option Nat) : (s.withLimit b v).bays = s.bays := rfl
@[simp] theorem State.withLimit_feeder (s : State) (b : BayNo) (v : Option Nat) : (s.withLimit b v).feeder = s.feeder := rfl
@[simp] theorem State.withLimit_line (s : State) (b : BayNo) (v : Option Nat) : (s.withLimit b v).line = s.line := rfl
@[simp] theorem State.withLimit_events (s : State) (b : BayNo) (v : Option Nat) : (s.withLimit b v).events = s.events := rfl
@[simp] theorem State.withLimit_inputs (s : State) (b : BayNo) (v : Option Nat) : (s.withLimit b v).inputs = s.inputs := rfl
@[simp] theorem State.withLimit_store (s : State) (b : BayNo) (v : Option Nat) : (s.withLimit b v).store = s.store := rfl

/-! ### updInput -/

@[simp] theorem State.updInput_pending (s : State) (y : InputNo) (f : InputState → InputState) : (s.updInput y f).pending = s.pending := rfl
@[simp] theorem State.updInput_elapsed (s : State) (y : InputNo) (f : InputState → InputState) : (s.updInput y f).elapsed = s.elapsed := rfl
@[simp] theorem State.updInput_freeCount (s : State) (y : InputNo) (f : InputState → InputState) : (s.updInput y f).freeCount = s.freeCount := rfl
@[simp] theorem State.updInput_planner (s : State) (y : InputNo) (f : InputState → InputState) : (s.updInput y f).planner = s.planner := rfl
@[simp] theorem State.updInput_site (s : State) (y : InputNo) (f : InputState → InputState) : (s.updInput y f).site = s.site := rfl
@[simp] theorem State.updInput_service (s : State) (y : InputNo) (f : InputState → InputState) : (s.updInput y f).service = s.service := rfl
@[simp] theorem State.updInput_roster (s : State) (y : InputNo) (f : InputState → InputState) : (s.updInput y f).roster = s.roster := rfl
@[simp] theorem State.updInput_waitingLine (s : State) (y : InputNo) (f : InputState → InputState) : (s.updInput y f).waitingLine = s.waitingLine := rfl
@[simp] theorem State.updInput_log (s : State) (y : InputNo) (f : InputState → InputState) : (s.updInput y f).log = s.log := rfl
@[simp] theorem State.updInput_bays (s : State) (y : InputNo) (f : InputState → InputState) : (s.updInput y f).bays = s.bays := rfl
@[simp] theorem State.updInput_feeder (s : State) (y : InputNo) (f : InputState → InputState) : (s.updInput y f).feeder = s.feeder := rfl
@[simp] theorem State.updInput_alloc (s : State) (y : InputNo) (f : InputState → InputState) : (s.updInput y f).alloc = s.alloc := rfl
@[simp] theorem State.updInput_line (s : State) (y : InputNo) (f : InputState → InputState) : (s.updInput y f).line = s.line := rfl
@[simp] theorem State.updInput_events (s : State) (y : InputNo) (f : InputState → InputState) : (s.updInput y f).events = s.events := rfl
@[simp] theorem State.updInput_store (s : State) (y : InputNo) (f : InputState → InputState) : (s.updInput y f).store = s.store := rfl

/-! ### withWorking -/

@[simp] theorem State.withWorking_pending (s : State) (w : Settings) : (s.withWorking w).pending = s.pending := rfl
@[simp] theorem State.withWorking_elapsed (s : State) (w : Settings) : (s.withWorking w).elapsed = s.elapsed := rfl
@[simp] theorem State.withWorking_freeCount (s : State) (w : Settings) : (s.withWorking w).freeCount = s.freeCount := rfl
@[simp] theorem State.withWorking_planner (s : State) (w : Settings) : (s.withWorking w).planner = s.planner := rfl
@[simp] theorem State.withWorking_site (s : State) (w : Settings) : (s.withWorking w).site = s.site := rfl
@[simp] theorem State.withWorking_service (s : State) (w : Settings) : (s.withWorking w).service = s.service := rfl
@[simp] theorem State.withWorking_roster (s : State) (w : Settings) : (s.withWorking w).roster = s.roster := rfl
@[simp] theorem State.withWorking_waitingLine (s : State) (w : Settings) : (s.withWorking w).waitingLine = s.waitingLine := rfl
@[simp] theorem State.withWorking_log (s : State) (w : Settings) : (s.withWorking w).log = s.log := rfl
@[simp] theorem State.withWorking_bays (s : State) (w : Settings) : (s.withWorking w).bays = s.bays := rfl
@[simp] theorem State.withWorking_feeder (s : State) (w : Settings) : (s.withWorking w).feeder = s.feeder := rfl
@[simp] theorem State.withWorking_alloc (s : State) (w : Settings) : (s.withWorking w).alloc = s.alloc := rfl
@[simp] theorem State.withWorking_line (s : State) (w : Settings) : (s.withWorking w).line = s.line := rfl
@[simp] theorem State.withWorking_events (s : State) (w : Settings) : (s.withWorking w).events = s.events := rfl
@[simp] theorem State.withWorking_inputs (s : State) (w : Settings) : (s.withWorking w).inputs = s.inputs := rfl

/-! ### updOrder -/

@[simp] theorem State.updOrder_pending (s : State) (tag : Nat) (f : Order → Order) : (s.updOrder tag f).pending = s.pending := rfl
@[simp] theorem State.updOrder_elapsed (s : State) (tag : Nat) (f : Order → Order) : (s.updOrder tag f).elapsed = s.elapsed := rfl
@[simp] theorem State.updOrder_freeCount (s : State) (tag : Nat) (f : Order → Order) : (s.updOrder tag f).freeCount = s.freeCount := rfl
@[simp] theorem State.updOrder_planner (s : State) (tag : Nat) (f : Order → Order) : (s.updOrder tag f).planner = s.planner := rfl
@[simp] theorem State.updOrder_site (s : State) (tag : Nat) (f : Order → Order) : (s.updOrder tag f).site = s.site := rfl
@[simp] theorem State.updOrder_service (s : State) (tag : Nat) (f : Order → Order) : (s.updOrder tag f).service = s.service := rfl
@[simp] theorem State.updOrder_waitingLine (s : State) (tag : Nat) (f : Order → Order) : (s.updOrder tag f).waitingLine = s.waitingLine := rfl
@[simp] theorem State.updOrder_log (s : State) (tag : Nat) (f : Order → Order) : (s.updOrder tag f).log = s.log := rfl
@[simp] theorem State.updOrder_bays (s : State) (tag : Nat) (f : Order → Order) : (s.updOrder tag f).bays = s.bays := rfl
@[simp] theorem State.updOrder_feeder (s : State) (tag : Nat) (f : Order → Order) : (s.updOrder tag f).feeder = s.feeder := rfl
@[simp] theorem State.updOrder_alloc (s : State) (tag : Nat) (f : Order → Order) : (s.updOrder tag f).alloc = s.alloc := rfl
@[simp] theorem State.updOrder_line (s : State) (tag : Nat) (f : Order → Order) : (s.updOrder tag f).line = s.line := rfl
@[simp] theorem State.updOrder_events (s : State) (tag : Nat) (f : Order → Order) : (s.updOrder tag f).events = s.events := rfl
@[simp] theorem State.updOrder_inputs (s : State) (tag : Nat) (f : Order → Order) : (s.updOrder tag f).inputs = s.inputs := rfl
@[simp] theorem State.updOrder_store (s : State) (tag : Nat) (f : Order → Order) : (s.updOrder tag f).store = s.store := rfl

/-! ### runTo -/

@[simp] theorem State.runTo_pending (s : State) (t : Nat) : (s.runTo t).pending = s.pending := rfl
@[simp] theorem State.runTo_freeCount (s : State) (t : Nat) : (s.runTo t).freeCount = s.freeCount := rfl
@[simp] theorem State.runTo_planner (s : State) (t : Nat) : (s.runTo t).planner = s.planner := rfl
@[simp] theorem State.runTo_site (s : State) (t : Nat) : (s.runTo t).site = s.site := rfl
@[simp] theorem State.runTo_service (s : State) (t : Nat) : (s.runTo t).service = s.service := rfl
@[simp] theorem State.runTo_roster (s : State) (t : Nat) : (s.runTo t).roster = s.roster := rfl
@[simp] theorem State.runTo_waitingLine (s : State) (t : Nat) : (s.runTo t).waitingLine = s.waitingLine := rfl
@[simp] theorem State.runTo_log (s : State) (t : Nat) : (s.runTo t).log = s.log := rfl
@[simp] theorem State.runTo_bays (s : State) (t : Nat) : (s.runTo t).bays = s.bays := rfl
@[simp] theorem State.runTo_feeder (s : State) (t : Nat) : (s.runTo t).feeder = s.feeder := rfl
@[simp] theorem State.runTo_alloc (s : State) (t : Nat) : (s.runTo t).alloc = s.alloc := rfl
@[simp] theorem State.runTo_line (s : State) (t : Nat) : (s.runTo t).line = s.line := rfl
@[simp] theorem State.runTo_events (s : State) (t : Nat) : (s.runTo t).events = s.events := rfl
@[simp] theorem State.runTo_inputs (s : State) (t : Nat) : (s.runTo t).inputs = s.inputs := rfl
@[simp] theorem State.runTo_store (s : State) (t : Nat) : (s.runTo t).store = s.store := rfl

/-! ### refreshAttention -/

@[simp] theorem State.refreshAttention_pending (s : State) : s.refreshAttention.pending = s.pending := rfl
@[simp] theorem State.refreshAttention_elapsed (s : State) : s.refreshAttention.elapsed = s.elapsed := rfl
@[simp] theorem State.refreshAttention_freeCount (s : State) : s.refreshAttention.freeCount = s.freeCount := rfl
@[simp] theorem State.refreshAttention_roster (s : State) : s.refreshAttention.roster = s.roster := rfl
@[simp] theorem State.refreshAttention_waitingLine (s : State) : s.refreshAttention.waitingLine = s.waitingLine := rfl
@[simp] theorem State.refreshAttention_log (s : State) : s.refreshAttention.log = s.log := rfl
@[simp] theorem State.refreshAttention_bays (s : State) : s.refreshAttention.bays = s.bays := rfl
@[simp] theorem State.refreshAttention_feeder (s : State) : s.refreshAttention.feeder = s.feeder := rfl
@[simp] theorem State.refreshAttention_alloc (s : State) : s.refreshAttention.alloc = s.alloc := rfl
@[simp] theorem State.refreshAttention_line (s : State) : s.refreshAttention.line = s.line := rfl
@[simp] theorem State.refreshAttention_events (s : State) : s.refreshAttention.events = s.events := rfl
@[simp] theorem State.refreshAttention_inputs (s : State) : s.refreshAttention.inputs = s.inputs := rfl
@[simp] theorem State.refreshAttention_store (s : State) : s.refreshAttention.store = s.store := rfl

/-! ### freeLine -/

@[simp] theorem State.freeLine_pending (s : State) : s.freeLine.pending = s.pending := rfl
@[simp] theorem State.freeLine_elapsed (s : State) : s.freeLine.elapsed = s.elapsed := rfl
@[simp] theorem State.freeLine_freeCount (s : State) : s.freeLine.freeCount = s.freeCount := rfl
@[simp] theorem State.freeLine_planner (s : State) : s.freeLine.planner = s.planner := rfl
@[simp] theorem State.freeLine_site (s : State) : s.freeLine.site = s.site := rfl
@[simp] theorem State.freeLine_service (s : State) : s.freeLine.service = s.service := rfl
@[simp] theorem State.freeLine_roster (s : State) : s.freeLine.roster = s.roster := rfl
@[simp] theorem State.freeLine_waitingLine (s : State) : s.freeLine.waitingLine = s.waitingLine := rfl
@[simp] theorem State.freeLine_log (s : State) : s.freeLine.log = s.log := rfl
@[simp] theorem State.freeLine_bays (s : State) : s.freeLine.bays = s.bays := rfl
@[simp] theorem State.freeLine_feeder (s : State) : s.freeLine.feeder = s.feeder := rfl
@[simp] theorem State.freeLine_alloc (s : State) : s.freeLine.alloc = s.alloc := rfl
@[simp] theorem State.freeLine_events (s : State) : s.freeLine.events = s.events := rfl
@[simp] theorem State.freeLine_inputs (s : State) : s.freeLine.inputs = s.inputs := rfl
@[simp] theorem State.freeLine_store (s : State) : s.freeLine.store = s.store := rfl

/-! ### carry -/

@[simp] theorem State.carry_pending (s : State) (b : BayNo) (x : Exchange) (r : Bool) : (s.carry b x r).pending = s.pending := rfl
@[simp] theorem State.carry_elapsed (s : State) (b : BayNo) (x : Exchange) (r : Bool) : (s.carry b x r).elapsed = s.elapsed := rfl
@[simp] theorem State.carry_freeCount (s : State) (b : BayNo) (x : Exchange) (r : Bool) : (s.carry b x r).freeCount = s.freeCount := rfl
@[simp] theorem State.carry_planner (s : State) (b : BayNo) (x : Exchange) (r : Bool) : (s.carry b x r).planner = s.planner := rfl
@[simp] theorem State.carry_site (s : State) (b : BayNo) (x : Exchange) (r : Bool) : (s.carry b x r).site = s.site := rfl
@[simp] theorem State.carry_service (s : State) (b : BayNo) (x : Exchange) (r : Bool) : (s.carry b x r).service = s.service := rfl
@[simp] theorem State.carry_roster (s : State) (b : BayNo) (x : Exchange) (r : Bool) : (s.carry b x r).roster = s.roster := rfl
@[simp] theorem State.carry_waitingLine (s : State) (b : BayNo) (x : Exchange) (r : Bool) : (s.carry b x r).waitingLine = s.waitingLine := rfl
@[simp] theorem State.carry_log (s : State) (b : BayNo) (x : Exchange) (r : Bool) : (s.carry b x r).log = s.log := rfl
@[simp] theorem State.carry_bays (s : State) (b : BayNo) (x : Exchange) (r : Bool) : (s.carry b x r).bays = s.bays := rfl
@[simp] theorem State.carry_feeder (s : State) (b : BayNo) (x : Exchange) (r : Bool) : (s.carry b x r).feeder = s.feeder := rfl
@[simp] theorem State.carry_alloc (s : State) (b : BayNo) (x : Exchange) (r : Bool) : (s.carry b x r).alloc = s.alloc := rfl
@[simp] theorem State.carry_events (s : State) (b : BayNo) (x : Exchange) (r : Bool) : (s.carry b x r).events = s.events := rfl
@[simp] theorem State.carry_inputs (s : State) (b : BayNo) (x : Exchange) (r : Bool) : (s.carry b x r).inputs = s.inputs := rfl
@[simp] theorem State.carry_store (s : State) (b : BayNo) (x : Exchange) (r : Bool) : (s.carry b x r).store = s.store := rfl

/-! ### startRoundTimer -/

@[simp] theorem State.startRoundTimer_pending (s : State) : s.startRoundTimer.pending = s.pending := rfl
@[simp] theorem State.startRoundTimer_elapsed (s : State) : s.startRoundTimer.elapsed = s.elapsed := rfl
@[simp] theorem State.startRoundTimer_freeCount (s : State) : s.startRoundTimer.freeCount = s.freeCount := rfl
@[simp] theorem State.startRoundTimer_planner (s : State) : s.startRoundTimer.planner = s.planner := rfl
@[simp] theorem State.startRoundTimer_site (s : State) : s.startRoundTimer.site = s.site := rfl
@[simp] theorem State.startRoundTimer_service (s : State) : s.startRoundTimer.service = s.service := rfl
@[simp] theorem State.startRoundTimer_roster (s : State) : s.startRoundTimer.roster = s.roster := rfl
@[simp] theorem State.startRoundTimer_waitingLine (s : State) : s.startRoundTimer.waitingLine = s.waitingLine := rfl
@[simp] theorem State.startRoundTimer_log (s : State) : s.startRoundTimer.log = s.log := rfl
@[simp] theorem State.startRoundTimer_bays (s : State) : s.startRoundTimer.bays = s.bays := rfl
@[simp] theorem State.startRoundTimer_feeder (s : State) : s.startRoundTimer.feeder = s.feeder := rfl
@[simp] theorem State.startRoundTimer_line (s : State) : s.startRoundTimer.line = s.line := rfl
@[simp] theorem State.startRoundTimer_events (s : State) : s.startRoundTimer.events = s.events := rfl
@[simp] theorem State.startRoundTimer_inputs (s : State) : s.startRoundTimer.inputs = s.inputs := rfl
@[simp] theorem State.startRoundTimer_store (s : State) : s.startRoundTimer.store = s.store := rfl

/-! ### logOrder -/

@[simp] theorem State.logOrder_pending (s : State) (o : Order) : (s.logOrder o).pending = s.pending := rfl
@[simp] theorem State.logOrder_elapsed (s : State) (o : Order) : (s.logOrder o).elapsed = s.elapsed := rfl
@[simp] theorem State.logOrder_freeCount (s : State) (o : Order) : (s.logOrder o).freeCount = s.freeCount := rfl
@[simp] theorem State.logOrder_waitingLine (s : State) (o : Order) : (s.logOrder o).waitingLine = s.waitingLine := rfl
@[simp] theorem State.logOrder_bays (s : State) (o : Order) : (s.logOrder o).bays = s.bays := rfl
@[simp] theorem State.logOrder_feeder (s : State) (o : Order) : (s.logOrder o).feeder = s.feeder := rfl
@[simp] theorem State.logOrder_alloc (s : State) (o : Order) : (s.logOrder o).alloc = s.alloc := rfl
@[simp] theorem State.logOrder_line (s : State) (o : Order) : (s.logOrder o).line = s.line := rfl
@[simp] theorem State.logOrder_events (s : State) (o : Order) : (s.logOrder o).events = s.events := rfl
@[simp] theorem State.logOrder_inputs (s : State) (o : Order) : (s.logOrder o).inputs = s.inputs := rfl
@[simp] theorem State.logOrder_store (s : State) (o : Order) : (s.logOrder o).store = s.store := rfl

/-! ### withPort and withSlot -/

@[simp] theorem State.withPort_pending (s : State) (p : Port) (x : PortState) : (s.withPort p x).pending = s.pending := by
  cases p <;> rfl
@[simp] theorem State.withPort_elapsed (s : State) (p : Port) (x : PortState) : (s.withPort p x).elapsed = s.elapsed := by
  cases p <;> rfl
@[simp] theorem State.withPort_freeCount (s : State) (p : Port) (x : PortState) : (s.withPort p x).freeCount = s.freeCount := by
  cases p <;> rfl
@[simp] theorem State.withPort_roster (s : State) (p : Port) (x : PortState) : (s.withPort p x).roster = s.roster := by
  cases p <;> rfl
@[simp] theorem State.withPort_waitingLine (s : State) (p : Port) (x : PortState) : (s.withPort p x).waitingLine = s.waitingLine := by
  cases p <;> rfl
@[simp] theorem State.withPort_log (s : State) (p : Port) (x : PortState) : (s.withPort p x).log = s.log := by
  cases p <;> rfl
@[simp] theorem State.withPort_bays (s : State) (p : Port) (x : PortState) : (s.withPort p x).bays = s.bays := by
  cases p <;> rfl
@[simp] theorem State.withPort_feeder (s : State) (p : Port) (x : PortState) : (s.withPort p x).feeder = s.feeder := by
  cases p <;> rfl
@[simp] theorem State.withPort_alloc (s : State) (p : Port) (x : PortState) : (s.withPort p x).alloc = s.alloc := by
  cases p <;> rfl
@[simp] theorem State.withPort_line (s : State) (p : Port) (x : PortState) : (s.withPort p x).line = s.line := by
  cases p <;> rfl
@[simp] theorem State.withPort_events (s : State) (p : Port) (x : PortState) : (s.withPort p x).events = s.events := by
  cases p <;> rfl
@[simp] theorem State.withPort_inputs (s : State) (p : Port) (x : PortState) : (s.withPort p x).inputs = s.inputs := by
  cases p <;> rfl
@[simp] theorem State.withPort_store (s : State) (p : Port) (x : PortState) : (s.withPort p x).store = s.store := by
  cases p <;> rfl

@[simp] theorem State.withSlot_pending (s : State) (p : Port) (x : Slot) : (s.withSlot p x).pending = s.pending := by
  cases p <;> rfl
@[simp] theorem State.withSlot_elapsed (s : State) (p : Port) (x : Slot) : (s.withSlot p x).elapsed = s.elapsed := by
  cases p <;> rfl
@[simp] theorem State.withSlot_freeCount (s : State) (p : Port) (x : Slot) : (s.withSlot p x).freeCount = s.freeCount := by
  cases p <;> rfl
@[simp] theorem State.withSlot_roster (s : State) (p : Port) (x : Slot) : (s.withSlot p x).roster = s.roster := by
  cases p <;> rfl
@[simp] theorem State.withSlot_waitingLine (s : State) (p : Port) (x : Slot) : (s.withSlot p x).waitingLine = s.waitingLine := by
  cases p <;> rfl
@[simp] theorem State.withSlot_log (s : State) (p : Port) (x : Slot) : (s.withSlot p x).log = s.log := by
  cases p <;> rfl
@[simp] theorem State.withSlot_bays (s : State) (p : Port) (x : Slot) : (s.withSlot p x).bays = s.bays := by
  cases p <;> rfl
@[simp] theorem State.withSlot_feeder (s : State) (p : Port) (x : Slot) : (s.withSlot p x).feeder = s.feeder := by
  cases p <;> rfl
@[simp] theorem State.withSlot_alloc (s : State) (p : Port) (x : Slot) : (s.withSlot p x).alloc = s.alloc := by
  cases p <;> rfl
@[simp] theorem State.withSlot_line (s : State) (p : Port) (x : Slot) : (s.withSlot p x).line = s.line := by
  cases p <;> rfl
@[simp] theorem State.withSlot_events (s : State) (p : Port) (x : Slot) : (s.withSlot p x).events = s.events := by
  cases p <;> rfl
@[simp] theorem State.withSlot_inputs (s : State) (p : Port) (x : Slot) : (s.withSlot p x).inputs = s.inputs := by
  cases p <;> rfl
@[simp] theorem State.withSlot_store (s : State) (p : Port) (x : Slot) : (s.withSlot p x).store = s.store := by
  cases p <;> rfl

/-! ### Ports -/

@[simp] theorem State.port_withPort (s : State) (p : Port) (x : PortState) : (s.withPort p x).port p = x := by
  cases p <;> rfl

theorem State.port_withPort_ne (s : State) {p q : Port} (x : PortState) (h : q ≠ p) :
    (s.withPort p x).port q = s.port q := by
  cases p <;> cases q <;> first | rfl | exact absurd rfl h

@[simp] theorem State.withPort_self (s : State) (p : Port) : s.withPort p (s.port p) = s := by
  cases p <;> rfl

@[simp] theorem State.slot_withSlot (s : State) (p : Port) (x : Slot) : ((s.withSlot p x).port p).slot = x := by
  cases p <;> rfl

@[simp] theorem State.mask_withSlot (s : State) (p q : Port) (x : Slot) :
    ((s.withSlot p x).port q).mask = (s.port q).mask := by
  cases p <;> cases q <;> rfl

@[simp] theorem State.attention_withSlot (s : State) (p q : Port) (x : Slot) :
    ((s.withSlot p x).port q).attention = (s.port q).attention := by
  cases p <;> cases q <;> rfl

theorem State.slot_withSlot_ne (s : State) {p q : Port} (x : Slot) (h : q ≠ p) :
    ((s.withSlot p x).port q).slot = (s.port q).slot := by
  cases p <;> cases q <;> first | rfl | exact absurd rfl h

@[simp] theorem State.slot_refreshAttention (s : State) (p : Port) :
    (s.refreshAttention.port p).slot = (s.port p).slot := by
  cases p <;> rfl

@[simp] theorem State.mask_refreshAttention (s : State) (p : Port) :
    (s.refreshAttention.port p).mask = (s.port p).mask := by
  cases p <;> rfl

/-- R159: what a recomputation makes of a port's attention line. -/
@[simp] theorem State.attention_refreshAttention (s : State) (p : Port) :
    (s.refreshAttention.port p).attention = attentionFor (s.port p).mask s.events.queue s.log := by
  cases p <;> rfl

/-! ### Bays and line records -/

@[simp] theorem State.bay_updBay (s : State) (b : BayNo) (f : BayRec → BayRec) :
    (s.updBay b f).bay b = f (s.bay b) := by
  simp [State.bay, State.updBay]

theorem State.bay_updBay_ne (s : State) {b c : BayNo} (f : BayRec → BayRec) (h : c ≠ b) :
    (s.updBay b f).bay c = s.bay c := by
  have h' : (b : Nat) ≠ c := fun e => h (Fin.ext e.symm)
  simp [State.bay, State.updBay, h']

@[simp] theorem State.lineBay_updLineBay (s : State) (b : BayNo) (f : LineBay → LineBay) :
    (s.updLineBay b f).lineBay b = f (s.lineBay b) := by
  simp [State.lineBay, State.updLineBay]

theorem State.lineBay_updLineBay_ne (s : State) {b c : BayNo} (f : LineBay → LineBay) (h : c ≠ b) :
    (s.updLineBay b f).lineBay c = s.lineBay c := by
  have h' : (b : Nat) ≠ c := fun e => h (Fin.ext e.symm)
  simp [State.lineBay, State.updLineBay, h']

@[simp] theorem State.target_withTarget (s : State) (b : BayNo) (v : Nat) : (s.withTarget b v).target b = v := by
  simp [State.target, State.withTarget]

theorem State.target_withTarget_ne (s : State) {b c : BayNo} (v : Nat) (h : c ≠ b) :
    (s.withTarget b v).target c = s.target c := by
  have h' : (b : Nat) ≠ c := fun e => h (Fin.ext e.symm)
  simp [State.target, State.withTarget, h']

@[simp] theorem State.cap_withCap (s : State) (b : BayNo) (v : Nat) : (s.withCap b v).cap b = v := by
  simp [State.cap, State.withCap]

theorem State.cap_withCap_ne (s : State) {b c : BayNo} (v : Nat) (h : c ≠ b) :
    (s.withCap b v).cap c = s.cap c := by
  have h' : (b : Nat) ≠ c := fun e => h (Fin.ext e.symm)
  simp [State.cap, State.withCap, h']

@[simp] theorem State.input_updInput (s : State) (y : InputNo) (f : InputState → InputState) :
    (s.updInput y f).input y = f (s.input y) := by
  simp [State.input, State.updInput]

theorem State.input_updInput_ne (s : State) {y z : InputNo} (f : InputState → InputState) (h : z ≠ y) :
    (s.updInput y f).input z = s.input z := by
  have h' : (y : Nat) ≠ z := fun e => h (Fin.ext e.symm)
  simp [State.input, State.updInput, h']

@[simp] theorem State.inputCfg_updInput (s : State) (y z : InputNo) (f : InputState → InputState) :
    (s.updInput y f).inputCfg z = s.inputCfg z := rfl

@[simp] theorem State.inputCfg_withInputCfg (s : State) (y : InputNo) (c : InputCfg) :
    (s.withInputCfg y c).inputCfg y = c := by
  simp [State.inputCfg, State.withInputCfg, State.withWorking, State.cfg]

theorem State.inputCfg_withInputCfg_ne (s : State) {y z : InputNo} (c : InputCfg) (h : z ≠ y) :
    (s.withInputCfg y c).inputCfg z = s.inputCfg z := by
  have h' : (y : Nat) ≠ z := fun e => h (Fin.ext e.symm)
  simp [State.inputCfg, State.withInputCfg, State.withWorking, State.cfg, h']

@[simp] theorem State.input_withInputCfg (s : State) (y z : InputNo) (c : InputCfg) :
    (s.withInputCfg y c).input z = s.input z := rfl

/-! ### Updates that meet no reader -/

@[simp] theorem State.updBay_lineBay (s : State) (b c : BayNo) (f : BayRec → BayRec) :
    (s.updBay b f).lineBay c = s.lineBay c := rfl

@[simp] theorem State.updLineBay_bay (s : State) (b c : BayNo) (f : LineBay → LineBay) :
    (s.updLineBay b f).bay c = s.bay c := rfl

@[simp] theorem State.updLineBay_carrying (s : State) (b : BayNo) (f : LineBay → LineBay) :
    (s.updLineBay b f).line.carrying = s.line.carrying := rfl

@[simp] theorem State.updBay_target (s : State) (b c : BayNo) (f : BayRec → BayRec) :
    (s.updBay b f).target c = s.target c := rfl

@[simp] theorem State.updLineBay_target (s : State) (b c : BayNo) (f : LineBay → LineBay) :
    (s.updLineBay b f).target c = s.target c := rfl

@[simp] theorem State.freeLine_lineBay (s : State) (b : BayNo) : s.freeLine.lineBay b = s.lineBay b := rfl

@[simp] theorem State.freeLine_carrying (s : State) : s.freeLine.line.carrying = none := rfl

@[simp] theorem State.carry_lineBay (s : State) (b c : BayNo) (x : Exchange) (r : Bool) :
    (s.carry b x r).lineBay c = s.lineBay c := rfl

@[simp] theorem State.carry_carrying (s : State) (b : BayNo) (x : Exchange) (r : Bool) :
    (s.carry b x r).line.carrying = some ⟨b, x, s.elapsed + Config.answerWindow, r, false⟩ := rfl

/-! ### Orders -/

@[simp] theorem State.updOrder_length (s : State) (tag : Nat) (f : Order → Order) :
    (s.updOrder tag f).roster.length = s.roster.length := by
  simp [State.updOrder]

/-- The order an update has been made to, when it keeps the tag. -/
theorem State.order?_updOrder (s : State) (tag : Nat) (f : Order → Order) (hf : ∀ o, (f o).tag = o.tag) :
    (s.updOrder tag f).order? tag = (s.order? tag).map f := by
  simp only [State.order?, State.updOrder]
  induction s.roster with
  | nil => rfl
  | cons o os ih =>
    by_cases h : o.tag = tag
    · simp [h, hf]
    · simp [h, ih]

/-- An update of an order leaves the orders of other tags as they were. -/
theorem State.order?_updOrder_ne (s : State) {tag other : Nat} (f : Order → Order) (hf : ∀ o, (f o).tag = o.tag)
    (h : other ≠ tag) : (s.updOrder tag f).order? other = s.order? other := by
  simp only [State.order?, State.updOrder]
  induction s.roster with
  | nil => rfl
  | cons o os ih =>
    by_cases h1 : o.tag = tag
    · have h2 : (f o).tag ≠ other := by rw [hf, h1]; exact fun e => h e.symm
      have h3 : o.tag ≠ other := by rw [h1]; exact fun e => h e.symm
      rw [List.map_cons, if_pos h1, List.find?_cons_of_neg (by simpa using h2), List.find?_cons_of_neg (by simpa using h3)]
      exact ih
    · by_cases h3 : o.tag = other
      · simp [h3, h]
      · simp [h1, h3, ih]

/-- An order found under a tag carries it. -/
theorem State.tag_of_order? (s : State) {tag : Nat} {o : Order} (h : s.order? tag = some o) : o.tag = tag := by
  have := List.find?_some h
  simpa using this

/-- An order found under a tag stands in the roster. -/
theorem State.mem_of_order? (s : State) {tag : Nat} {o : Order} (h : s.order? tag = some o) : o ∈ s.roster :=
  List.mem_of_find?_eq_some h

end Sys2Proof.Machine
end

