-- ==== Sys2Proof/Laws/Lawful.lean ====
section
/-! SUPPORT. One relation that says once what every shared operation keeps: the queue of commands, and the laws of
Safety.lean. It composes, so an operation made of lawful operations is lawful. -/

namespace Sys2Proof.Machine

/-- From one state to another the queue of commands is the same and every law of Safety.lean is kept. -/
structure Lawful (s t : State) : Prop where
  pending : t.pending = s.pending
  bounded : s.collectionsBounded → t.collectionsBounded
  attention : s.attentionRight → t.attentionRight
  ceiling : s.ceilingRight → t.ceilingRight
  conditions : s.conditionsRight → t.conditionsRight
  tariff : s.tariffInOrder → t.tariffInOrder
  roster : s.rosterInOrder → t.rosterInOrder

theorem Lawful.refl (s : State) : Lawful s s := ⟨rfl, id, id, id, id, id, id⟩

theorem Lawful.trans {s t u : State} (h : Lawful s t) (k : Lawful t u) : Lawful s u :=
  ⟨k.pending.trans h.pending, fun x => k.bounded (h.bounded x), fun x => k.attention (h.attention x),
    fun x => k.ceiling (h.ceiling x), fun x => k.conditions (h.conditions x), fun x => k.tariff (h.tariff x),
    fun x => k.roster (h.roster x)⟩

theorem Lawful.foldl {α : Type} {f : State → α → State} (h : ∀ s x, Lawful s (f s x)) (l : List α) (s : State) :
    Lawful s (l.foldl f s) := by
  induction l generalizing s with
  | nil => exact .refl s
  | cons x xs ih => exact (h s x).trans (ih (f s x))

/-- The parts of the state the laws read. -/
abbrev State.lawParts (s : State) :=
  (s.pending, (s.planner.mask, s.planner.attention), (s.site.mask, s.site.attention),
    (s.service.mask, s.service.attention), s.roster, s.waitingLine, s.log, s.feeder, s.events, s.inputs,
    s.store.working)

/-- An update of parts that no law reads is lawful. -/
theorem Lawful.of_same {s t : State} (h : t.lawParts = s.lawParts) : Lawful s t := by
  simp only [State.lawParts, Prod.mk.injEq] at h
  obtain ⟨h0, ⟨h1, h2⟩, ⟨h3, h4⟩, ⟨h5, h6⟩, h7, h8, h9, h10, h11, h12, h13⟩ := h
  constructor
  · exact h0
  · simp only [State.collectionsBounded, h7, h8, h9, h10, h11, imp_self]
  · simp only [State.attentionRight, h1, h2, h3, h4, h5, h6, h9, h11, imp_self]
  · simp only [State.ceilingRight, State.cfg, h10, h13, imp_self]
  · simp only [State.conditionsRight, State.roleInForce, State.inputCfg, State.input, State.cfg, h10, h12, h13, imp_self]
  · simp only [State.tariffInOrder, h10, imp_self]
  · simp only [State.rosterInOrder, h7, imp_self]

/-! ### Primitive updates -/

theorem State.updBay_lawful (s : State) (b : BayNo) (f : BayRec → BayRec) : Lawful s (s.updBay b f) := .of_same rfl

theorem State.updLineBay_lawful (s : State) (b : BayNo) (f : LineBay → LineBay) : Lawful s (s.updLineBay b f) :=
  .of_same rfl

theorem State.line_lawful (s : State) (l : LineCtl) : Lawful s { s with line := l } := .of_same rfl

theorem State.alloc_lawful (s : State) (a : Alloc) : Lawful s { s with alloc := a } := .of_same rfl

theorem State.withTarget_lawful (s : State) (b : BayNo) (v : Nat) : Lawful s (s.withTarget b v) := .of_same rfl

theorem State.withCap_lawful (s : State) (b : BayNo) (v : Nat) : Lawful s (s.withCap b v) := .of_same rfl

theorem State.withLimit_lawful (s : State) (b : BayNo) (v : Option Nat) : Lawful s (s.withLimit b v) := .of_same rfl

theorem State.runTo_lawful (s : State) (t : Nat) : Lawful s (s.runTo t) := .of_same rfl

theorem State.freeLine_lawful (s : State) : Lawful s s.freeLine := .of_same rfl

theorem State.carry_lawful (s : State) (b : BayNo) (x : Exchange) (r : Bool) : Lawful s (s.carry b x r) := .of_same rfl

theorem State.startRoundTimer_lawful (s : State) : Lawful s s.startRoundTimer := .of_same rfl

theorem State.withSlot_lawful (s : State) (p : Port) (x : Slot) : Lawful s (s.withSlot p x) := by
  cases p <;> exact .of_same rfl

theorem State.refreshAttention_lawful (s : State) : Lawful s s.refreshAttention :=
  ⟨rfl, id, fun _ => ⟨rfl, rfl, rfl⟩, id, id, id, id⟩

/-- R155: an append is lawful. -/
theorem State.append_lawful (s : State) (k : EventKind) (x : Option Subject) (e : Edge) : Lawful s (s.append k x e) := by
  unfold State.append
  split
  case isTrue h =>
    refine ⟨rfl, ?_, fun _ => ⟨rfl, rfl, rfl⟩, id, id, id, id⟩
    rintro ⟨h1, h2, h3, h4, h5, h6⟩
    refine ⟨?_, ?_, h3, h4, h5, h6⟩
    · simp [Config.queueCapacity] at h ⊢
      omega
    · intro ho
      have := h2 ho
      simp [Config.queueCapacity] at h
      omega
  case isFalse h =>
    refine ⟨rfl, ?_, id, id, id, id, id⟩
    rintro ⟨h1, h2, h3, h4, h5, h6⟩
    refine ⟨h1, fun _ => ?_, h3, h4, h5, h6⟩
    simp only [Config.queueCapacity] at h
    change s.events.queue.length = 16
    omega

/-! ### Orders -/

theorem order_eq_of_tag {l : List Order} (h : l.Pairwise (fun o p => o.tag ≠ p.tag)) {x y : Order} (hx : x ∈ l)
    (hy : y ∈ l) (e : x.tag = y.tag) : x = y := by
  induction h with
  | nil => cases hx
  | cons h1 _ ih =>
    cases hx with
    | head =>
      cases hy with
      | head => rfl
      | tail _ hy => exact absurd e (h1 y hy)
    | tail _ hx =>
      cases hy with
      | head => exact absurd e.symm (h1 x hx)
      | tail _ hy => exact ih hx hy

/-- A roster each of whose orders keeps its tag and its departure is in order when it was. -/
theorem rosterInOrder_map {l : List Order} {f : Order → Order} (hf : ∀ o ∈ l, (f o).tag = o.tag ∧ (f o).departure = o.departure)
    (h : l.Pairwise (fun o p => o.departure ≤ p.departure) ∧ l.Pairwise (fun o p => o.tag ≠ p.tag)) :
    (l.map f).Pairwise (fun o p => o.departure ≤ p.departure) ∧ (l.map f).Pairwise (fun o p => o.tag ≠ p.tag) := by
  constructor
  · rw [List.pairwise_map]
    refine h.1.imp_of_mem (fun ha hb hab => ?_)
    rw [(hf _ ha).2, (hf _ hb).2]
    exact hab
  · rw [List.pairwise_map]
    refine h.2.imp_of_mem (fun ha hb hab => ?_)
    rw [(hf _ ha).1, (hf _ hb).1]
    exact hab

/-- An update of an order that keeps its tag and its departure is lawful. -/
theorem State.updOrder_lawful (s : State) (tag : Nat) (f : Order → Order) (ht : ∀ o, (f o).tag = o.tag)
    (hd : ∀ o, (f o).departure = o.departure) : Lawful s (s.updOrder tag f) := by
  refine ⟨rfl, ?_, id, id, id, id, ?_⟩
  · rintro ⟨h1, h2, h3, h4, h5, h6⟩
    exact ⟨h1, h2, h3, h4, by simpa using h5, h6⟩
  · refine rosterInOrder_map (fun o _ => ?_)
    split
    · exact ⟨ht o, hd o⟩
    · exact ⟨rfl, rfl⟩

/-- Writing an order's record over itself, with its tag and its departure, is lawful. -/
theorem State.putOrder_lawful (s : State) {tag : Nat} {o o' : Order} (h : s.order? tag = some o) (ht : o'.tag = o.tag)
    (hd : o'.departure = o.departure) : Lawful s (s.updOrder tag (fun _ => o')) := by
  refine ⟨rfl, ?_, id, id, id, id, ?_⟩
  · rintro ⟨h1, h2, h3, h4, h5, h6⟩
    exact ⟨h1, h2, h3, h4, by simpa using h5, h6⟩
  · intro hr
    refine rosterInOrder_map (fun x hx => ?_) hr
    split
    case isTrue e =>
      have hxo : x = o := order_eq_of_tag hr.2 hx (s.mem_of_order? h) (by rw [e, s.tag_of_order? h])
      rw [hxo]
      exact ⟨ht, hd⟩
    case isFalse => exact ⟨rfl, rfl⟩

/-! ### The Feeder unit -/

/-- Feeder fields that no law reads. -/
theorem State.feeder_lawful (s : State) (f : Feeder) (h1 : f.tariff = s.feeder.tariff) (h2 : f.stop = s.feeder.stop)
    (h3 : f.derate = s.feeder.derate) (h4 : f.effective = s.feeder.effective)
    (h5 : ceilingOf f s.cfg = ceilingOf s.feeder s.cfg) : Lawful s { s with feeder := f } := by
  refine ⟨rfl, ?_, id, ?_, ?_, ?_, id⟩
  · rintro ⟨a, b, c, d, e, g⟩
    exact ⟨a, b, c, d, e, by simpa only [h1] using g⟩
  · intro h
    change f.effective = ceilingOf f s.cfg
    rw [h4, h5]
    exact h
  · rintro ⟨a, b⟩
    exact ⟨h2.trans a, h3.trans b⟩
  · intro h
    simpa only [State.tariffInOrder, h1] using h

/-- R79: under a hold the ceiling is 0 whichever of its two states it is in. -/
theorem ceilingOf_hold (f : Feeder) (w : Settings) (h : f.hold ≠ .running) : ceilingOf f w = 0 := by
  simp [ceilingOf, h]

end Sys2Proof.Machine
end

