-- ==== Sys2Proof/Laws/LawfulUnits.lean ====
section
/-! SUPPORT. The shared operations of the Allocator, the Roster unit, the Bay unit and the Line controller are lawful. -/

namespace Sys2Proof.Machine

/-! ### Between rounds -/

theorem State.reconcile_lawful (s : State) (b : BayNo) : Lawful s (s.reconcile b) := by
  unfold State.reconcile
  dsimp only
  split
  · split
    · exact s.updLineBay_lawful b _
    · split
      · exact s.updLineBay_lawful b _
      · exact .of_same rfl
  · exact .refl s

theorem State.setTarget_lawful (s : State) (b : BayNo) (v : Nat) : Lawful s (s.setTarget b v) := by
  unfold State.setTarget
  split
  · exact .refl s
  · exact (s.withTarget_lawful b v).trans (State.reconcile_lawful _ b)

theorem State.trimBay_lawful (s : State) (b : BayNo) : Lawful s (s.trimBay b) := by
  unfold State.trimBay
  split
  · exact .refl s
  · exact s.setTarget_lawful b _

theorem State.trimCheck_lawful (s : State) : Lawful s s.trimCheck := .foldl State.trimBay_lawful _ s

theorem State.leaveEligibility_lawful (s : State) (was : Bool) (b : BayNo) : Lawful s (s.leaveEligibility was b) := by
  unfold State.leaveEligibility
  split
  · exact (s.setTarget_lawful b 0).trans (State.trimCheck_lawful _)
  · exact .refl s

theorem State.heldCheck_lawful (s : State) : Lawful s s.heldCheck := by
  unfold State.heldCheck
  split
  case h_1 h _ =>
    refine Lawful.trans (s.feeder_lawful { s.feeder with hold := .held } rfl rfl rfl rfl ?_) (State.append_lawful _ _ _ _)
    rw [ceilingOf_hold _ _ (by simp), ceilingOf_hold _ _ (by rw [h]; simp)]
  case h_2 h _ =>
    refine s.feeder_lawful { s.feeder with hold := .draining } rfl rfl rfl rfl ?_
    rw [ceilingOf_hold _ _ (by simp), ceilingOf_hold _ _ (by rw [h]; simp)]
  case h_3 => exact .refl s

theorem State.noteExposure_lawful (s : State) (b : BayNo) (before : Nat) : Lawful s (s.noteExposure b before) := by
  unfold State.noteExposure
  dsimp only
  split
  · exact .refl s
  · split
    · exact s.heldCheck_lawful.trans (State.trimCheck_lawful _)
    · exact s.heldCheck_lawful

theorem State.refusedIncrease_lawful (s : State) (b : BayNo) : Lawful s (s.refusedIncrease b) := by
  unfold State.refusedIncrease
  dsimp only
  split
  · exact (s.withLimit_lawful b _).trans (State.setTarget_lawful _ b _)
  · exact s.withLimit_lawful b _

/-- R80, R81: after a recomputation the effective ceiling is the one its inputs compose, whatever it was before. So a
change of those inputs that ends in a recomputation is lawful. -/
theorem State.recompute_after (s : State) (f : Feeder) (h1 : f.tariff = s.feeder.tariff) (h2 : f.stop = s.feeder.stop)
    (h3 : f.derate = s.feeder.derate) : Lawful s (State.recomputeCeiling { s with feeder := f }) := by
  have base : Lawful s { s with feeder := { f with effective := ceilingOf f s.cfg } } := by
    refine ⟨rfl, ?_, id, fun _ => rfl, ?_, ?_, id⟩
    · rintro ⟨a, b, c, d, e, g⟩
      exact ⟨a, b, c, d, e, by simpa only [h1] using g⟩
    · rintro ⟨a, b⟩
      exact ⟨h2.trans a, h3.trans b⟩
    · intro h
      simpa only [State.tariffInOrder, h1] using h
  unfold State.recomputeCeiling
  dsimp only
  split
  · exact base.trans (State.trimCheck_lawful _)
  · exact base

theorem State.recomputeCeiling_lawful (s : State) : Lawful s s.recomputeCeiling :=
  s.recompute_after s.feeder rfl rfl rfl

/-! ### Roster unit -/

/-- R149: an order leaves the roster as its record enters a log that has room. -/
theorem State.logOrder_lawful (s : State) (o : Order) (h : s.log.length < 32) (hw : s.waitingLine = []) :
    Lawful s (s.logOrder o) := by
  refine ⟨rfl, ?_, fun _ => ⟨rfl, rfl, rfl⟩, id, id, id, ?_⟩
  · rintro ⟨h1, h2, h3, h4, h5, h6⟩
    refine ⟨h1, h2, ?_, fun hne => absurd hw hne, ?_, h6⟩
    · simp only [State.logOrder, State.refreshAttention, List.length_append, List.length_singleton]
      omega
    · exact le_trans (List.length_filter_le _ _) h5
  · rintro ⟨h1, h2⟩
    exact ⟨h1.filter _, h2.filter _⟩

/-- R150: a Closed order's record enters the log, or the order joins the waiting line. -/
theorem State.enterLog_lawful (s : State) (o : Order) : Lawful s (s.enterLog o) := by
  unfold State.enterLog
  split
  case isTrue h => exact s.logOrder_lawful o (by simpa [Config.logCapacity] using h.1) h.2
  case isFalse h =>
    refine ⟨rfl, ?_, id, id, id, id, id⟩
    rintro ⟨h1, h2, h3, h4, h5, h6⟩
    refine ⟨h1, h2, h3, fun _ => ?_, h5, h6⟩
    by_cases hw : s.waitingLine = []
    · have : ¬ s.log.length < 32 := fun hl => h ⟨hl, hw⟩
      change s.log.length = 32
      omega
    · exact h4 hw

theorem State.closeOrder_lawful (s : State) (tag : Nat) (out : CloseOutcome) : Lawful s (s.closeOrder tag out) := by
  unfold State.closeOrder
  split
  · exact .refl s
  case h_2 o h =>
    refine Lawful.trans ?_ (State.enterLog_lawful _ _)
    refine Lawful.trans ?_ (State.append_lawful _ _ _ _)
    exact s.putOrder_lawful h rfl rfl

theorem State.takeCounter_lawful (s : State) (b : BayNo) (reading : Nat) : Lawful s (s.takeCounter b reading) := by
  unfold State.takeCounter
  split
  · exact .refl s
  · split
    · split
      · exact s.updOrder_lawful _ _ (fun _ => rfl) (fun _ => rfl)
      · refine Lawful.trans ?_ (State.updBay_lawful _ b _)
        exact s.updOrder_lawful _ _ (fun _ => rfl) (fun _ => rfl)
    · exact .refl s

theorem State.withdrawWake_lawful (s : State) (b : BayNo) : Lawful s (s.withdrawWake b) :=
  (s.updLineBay_lawful b _).trans (State.updBay_lawful _ b _)

theorem State.bind_lawful (s : State) (b : BayNo) (tag : Nat) : Lawful s (s.bind b tag) :=
  (s.updBay_lawful b _).trans (State.updOrder_lawful _ tag _ (fun _ => rfl) (fun _ => rfl))

theorem State.bindingCheckOrder_lawful (s : State) (tag : Nat) : Lawful s (s.bindingCheckOrder tag) := by
  unfold State.bindingCheckOrder
  split
  · exact .refl s
  · split
    · split
      · exact s.bind_lawful _ tag
      · exact .foldl (fun t x => t.append_lawful _ _ _) _ s
    · split
      · exact .refl s
      · exact s.bind_lawful _ tag

theorem State.bindingCheckAdmission_lawful (s : State) (b : BayNo) (key : Nat) :
    Lawful s (s.bindingCheckAdmission b key) := by
  unfold State.bindingCheckAdmission
  dsimp only
  split
  · exact (s.updBay_lawful b _).trans (State.append_lawful _ _ _ _)
  · split
    · exact s.bind_lawful b _
    · exact (s.updBay_lawful b _).trans (State.append_lawful _ _ _ _)

theorem State.unbindOrder_lawful (s : State) (tag : Nat) : Lawful s (s.unbindOrder tag) := by
  unfold State.unbindOrder
  split
  · exact .refl s
  · dsimp only
    split
    · refine Lawful.trans ?_ (State.append_lawful _ _ _ _)
      exact s.updOrder_lawful tag _ (fun _ => rfl) (fun _ => rfl)
    · exact s.updOrder_lawful tag _ (fun _ => rfl) (fun _ => rfl)

theorem State.unbindBay_lawful (s : State) (b : BayNo) : Lawful s (s.unbindBay b) := by
  unfold State.unbindBay
  split
  · exact s.updBay_lawful b _
  · exact (s.updBay_lawful b _).trans (State.withdrawWake_lawful _ b)

theorem State.decreaseDone_lawful (s : State) (b : BayNo) : Lawful s (s.decreaseDone b) := by
  unfold State.decreaseDone
  split
  · exact .refl s
  · split
    · exact (s.closeOrder_lawful _ _).trans (State.unbindBay_lawful _ b)
    · exact .refl s

/-! ### Bay unit -/

theorem State.attach_lawful (s : State) (b : BayNo) : Lawful s (s.attach b) :=
  (s.updBay_lawful b _).trans (State.append_lawful _ _ _ _)

theorem State.plugOut_lawful (s : State) (b : BayNo) : Lawful s (s.plugOut b) := by
  unfold State.plugOut
  dsimp only
  refine Lawful.trans ?_ (State.leaveEligibility_lawful _ _ b)
  refine Lawful.trans ?_ (State.append_lawful _ _ _ _)
  refine Lawful.trans ?_ (State.updBay_lawful _ b _)
  split
  · exact s.closeOrder_lawful _ _
  · exact .refl s

theorem State.plugOutFaulted_lawful (s : State) (b : BayNo) (wasIn : Bool) : Lawful s (s.plugOutFaulted b wasIn) := by
  unfold State.plugOutFaulted
  split
  · exact ((s.closeOrder_lawful _ _).trans (State.updBay_lawful _ b _)).trans (State.append_lawful _ _ _ _)
  · split
    · exact s.append_lawful _ _ _
    · exact .refl s

theorem State.plugReaction_lawful (s : State) (b : BayNo) (plugIn wasIn : Bool) :
    Lawful s (s.plugReaction b plugIn wasIn) := by
  unfold State.plugReaction
  split <;> first
    | exact s.updBay_lawful b _
    | exact s.attach_lawful b
    | exact .refl s
    | exact s.plugOut_lawful b
    | exact s.plugOutFaulted_lawful b wasIn

theorem State.bayTakesStatus_lawful (s : State) (b : BayNo) (st : PostStatus) : Lawful s (s.bayTakesStatus b st) :=
  ((s.updBay_lawful b _).trans (State.takeCounter_lawful _ b _)).trans (State.plugReaction_lawful _ b _ _)

theorem State.completeAdmission_lawful (s : State) (b : BayNo) : Lawful s (s.completeAdmission b) := by
  unfold State.completeAdmission
  dsimp only
  split
  · exact (s.updBay_lawful b _).trans (State.bindingCheckAdmission_lawful _ b _)
  · exact s.updBay_lawful b _

theorem State.admittingFrame_lawful (s : State) (b : BayNo) (f : VanFrame) : Lawful s (s.admittingFrame b f) := by
  unfold State.admittingFrame
  split <;> first
    | exact s.updBay_lawful b _
    | exact .refl s
    | exact s.completeAdmission_lawful b

theorem State.identityConflict_lawful (s : State) (b : BayNo) : Lawful s (s.identityConflict b) := by
  unfold State.identityConflict
  split
  · exact .refl s
  · exact (s.updBay_lawful b _).trans (State.append_lawful _ _ _ _)

theorem State.clearWakeFailed_lawful (s : State) (b : BayNo) : Lawful s (s.clearWakeFailed b) := by
  unfold State.clearWakeFailed
  split
  · exact s.updOrder_lawful _ _ (fun _ => rfl) (fun _ => rfl)
  · exact .refl s

theorem State.countFrame_lawful (s : State) (b : BayNo) : Lawful s (s.countFrame b) :=
  (s.updBay_lawful b _).trans (State.clearWakeFailed_lawful _ b)

theorem State.boundFrame_lawful (s : State) (b : BayNo) (f : VanFrame) : Lawful s (s.boundFrame b f) := by
  unfold State.boundFrame
  split
  · split
    · exact (s.countFrame_lawful b).trans (State.updBay_lawful _ b _)
    · exact s.countFrame_lawful b
    · exact s.countFrame_lawful b
  · exact s.identityConflict_lawful b

theorem State.returnToBound_lawful (s : State) (b : BayNo) : Lawful s (s.returnToBound b) :=
  (((s.updBay_lawful b _).trans (State.clearWakeFailed_lawful _ b)).trans (State.withdrawWake_lawful _ b)).trans
    (State.append_lawful _ _ _ _)

theorem State.dormantFrame_lawful (s : State) (b : BayNo) (f : VanFrame) : Lawful s (s.dormantFrame b f) := by
  unfold State.dormantFrame
  split
  · exact (s.returnToBound_lawful b).trans (State.boundFrame_lawful _ b f)
  · exact s.identityConflict_lawful b

theorem State.wakingFrame_lawful (s : State) (b : BayNo) (f : VanFrame) : Lawful s (s.wakingFrame b f) := by
  unfold State.wakingFrame
  split
  · exact (s.returnToBound_lawful b).trans (State.boundFrame_lawful _ b _)
  · split
    · exact .refl s
    · exact s.identityConflict_lawful b
  · exact .refl s

theorem State.takeFrame_lawful (s : State) (b : BayNo) (f : VanFrame) : Lawful s (s.takeFrame b f) := by
  unfold State.takeFrame
  split
  · split
    all_goals first
      | exact .refl s
      | exact s.updBay_lawful b _
      | exact s.admittingFrame_lawful b _
      | exact s.boundFrame_lawful b _
      | exact s.dormantFrame_lawful b _
      | exact s.wakingFrame_lawful b _
      | (split
         · exact s.updBay_lawful b _
         · exact .refl s)
  · exact .refl s

theorem State.admissionTimeout_lawful (s : State) (b : BayNo) : Lawful s (s.admissionTimeout b) :=
  (s.updBay_lawful b _).trans (State.append_lawful _ _ _ _)

theorem State.becomeDormant_lawful (s : State) (b : BayNo) : Lawful s (s.becomeDormant b) :=
  ((s.updBay_lawful b _).trans (State.append_lawful _ _ _ _)).trans (State.leaveEligibility_lawful _ _ b)

theorem State.wakeTryFailed_lawful (s : State) (b : BayNo) : Lawful s (s.wakeTryFailed b) := by
  unfold State.wakeTryFailed
  split
  · exact .refl s
  · split
    · exact .refl s
    · split
      · exact s.updBay_lawful b _
      · refine Lawful.trans ?_ (State.append_lawful _ _ _ _)
        refine Lawful.trans ?_ (State.updOrder_lawful _ _ _ (fun _ => rfl) (fun _ => rfl))
        exact s.updBay_lawful b _
      · exact .refl s

theorem State.wakeWindowOver_lawful (s : State) (b : BayNo) : Lawful s (s.wakeWindowOver b) :=
  (s.updBay_lawful b _).trans (State.wakeTryFailed_lawful _ b)

theorem State.faultReport_lawful (s : State) (b : BayNo) : Lawful s (s.faultReport b) := by
  unfold State.faultReport
  split
  · exact .refl s
  · dsimp only
    refine Lawful.trans ?_ (State.heldCheck_lawful _)
    refine Lawful.trans ?_ (State.leaveEligibility_lawful _ _ b)
    split
    · split
      · exact ((s.updBay_lawful b _).trans (State.closeOrder_lawful _ _ _)).trans (State.updBay_lawful _ b _)
      · exact s.updBay_lawful b _
    · exact s.updBay_lawful b _

theorem State.faultLimit_lawful (s : State) (b : BayNo) : Lawful s (s.faultLimit b) :=
  ((s.append_lawful _ _ _).trans (State.updLineBay_lawful _ b _)).trans (State.faultReport_lawful _ b)

theorem State.clearLine_lawful (s : State) (b : BayNo) : Lawful s (s.clearLine b) := by
  unfold State.clearLine
  dsimp only
  refine Lawful.trans ?_ (State.noteExposure_lawful _ b _)
  split
  · split
    · exact (s.updLineBay_lawful b _).trans (State.line_lawful _ _)
    · exact s.updLineBay_lawful b _
  · exact s.updLineBay_lawful b _

theorem State.clearBayOrder_lawful (s : State) (b : BayNo) : Lawful s (s.clearBayOrder b) := by
  unfold State.clearBayOrder
  split
  · exact .refl s
  · split
    · exact s.closeOrder_lawful _ _
    · exact (s.unbindOrder_lawful _).trans (State.bindingCheckOrder_lawful _ _)

theorem State.clearBay_lawful (s : State) (b : BayNo) : Lawful s (s.clearBay b) :=
  ((((s.updBay_lawful b _).trans (State.clearLine_lawful _ b)).trans (State.clearBayOrder_lawful _ b)).trans
    (State.leaveEligibility_lawful _ _ b)).trans (State.updBay_lawful _ b _)

/-! ### Line controller -/

theorem State.start_lawful (s : State) (b : BayNo) (x : Exchange) : Lawful s (s.start b x) :=
  ((s.updLineBay_lawful b _).trans (State.carry_lawful _ b x false)).trans (State.noteExposure_lawful _ b _)

theorem State.resend_lawful (s : State) (b : BayNo) (o : OpenX) : Lawful s (s.resend b o) :=
  (s.updLineBay_lawful b _).trans (State.carry_lawful _ b _ false)

theorem State.repeatSending_lawful (s : State) (b : BayNo) (x : Exchange) : Lawful s (s.repeatSending b x) :=
  (s.updLineBay_lawful b _).trans (State.carry_lawful _ b x true)

theorem State.startPending_lawful (s : State) (b : BayNo) (v : Nat) : Lawful s (s.startPending b v) :=
  (s.updLineBay_lawful b _).trans (State.start_lawful _ b _)

theorem State.serveRetry_lawful (s : State) : Lawful s s.serveRetry := by
  unfold State.serveRetry
  split
  · split
    · exact s.resend_lawful _ _
    · exact .refl s
  · exact .refl s

theorem State.serveDecrease_lawful (s : State) : Lawful s s.serveDecrease := by
  unfold State.serveDecrease
  split
  · split
    · exact s.startPending_lawful _ _
    · exact .refl s
  · exact .refl s

theorem State.serveItem_lawful (s : State) (i : ServiceItem) : Lawful s (s.serveItem i) := by
  unfold State.serveItem
  split
  · exact .refl s
  · split
    · split
      · split
        · exact (s.updLineBay_lawful _ _).trans (State.start_lawful _ _ _)
        · exact s.withdrawWake_lawful _
      · exact .refl s
    · split
      · split
        · exact (s.updLineBay_lawful _ _).trans (State.start_lawful _ _ _)
        · exact .refl s
      · exact .refl s

theorem State.serveItems_lawful (s : State) : Lawful s s.serveItems := .foldl State.serveItem_lawful _ s

theorem State.serveIncrease_lawful (s : State) : Lawful s s.serveIncrease := by
  unfold State.serveIncrease
  split
  · split
    · exact s.startPending_lawful _ _
    · exact .refl s
  · exact .refl s

theorem State.serveKeepAlive_lawful (s : State) : Lawful s s.serveKeepAlive := by
  unfold State.serveKeepAlive
  split
  · exact s.start_lawful _ _
  · exact .refl s

theorem State.serveProbe_lawful (s : State) : Lawful s s.serveProbe := by
  unfold State.serveProbe
  split
  · split
    · exact (s.line_lawful _).trans (State.start_lawful _ _ _)
    · exact .refl s
  · exact .refl s

theorem State.servePoll_lawful (s : State) : Lawful s s.servePoll := by
  unfold State.servePoll
  split
  · exact (s.line_lawful _).trans (State.start_lawful _ _ _)
  · exact (s.line_lawful _).trans (State.serveProbe_lawful _)

theorem State.ifFree_lawful (s : State) {f : State → State} (h : ∀ t, Lawful t (f t)) : Lawful s (s.ifFree f) := by
  unfold State.ifFree
  split
  · exact .refl s
  · exact h s

theorem State.select_lawful (s : State) : Lawful s s.select :=
  ((((((s.ifFree_lawful State.serveRetry_lawful).trans (State.ifFree_lawful _ State.serveDecrease_lawful)).trans
    (State.ifFree_lawful _ State.serveItems_lawful)).trans (State.ifFree_lawful _ State.serveIncrease_lawful)).trans
    (State.ifFree_lawful _ State.serveKeepAlive_lawful)).trans (State.ifFree_lawful _ State.serveProbe_lawful)).trans
    (State.ifFree_lawful _ State.servePoll_lawful)

/-- R126: a selection keeps every law. -/
theorem State.settle_lawful (s : State) : Lawful s s.settle := s.ifFree_lawful State.select_lawful

theorem State.count_lawful (s : State) (b : BayNo) (o : PostOutcome) : Lawful s (s.count b o) := by
  unfold State.count
  split
  · exact s.updLineBay_lawful b _
  · exact .refl s

theorem State.endExchange_lawful (s : State) (b : BayNo) : Lawful s (s.endExchange b) :=
  (s.updLineBay_lawful b _).trans (State.freeLine_lawful _)

theorem State.endGrant_lawful (s : State) (b : BayNo) (before : Nat) : Lawful s (s.endGrant b before) :=
  ((s.updLineBay_lawful b _).trans (State.endExchange_lawful _ b)).trans (State.noteExposure_lawful _ b before)

theorem State.finishGrant_lawful (s : State) (b : BayNo) (v sentAt : Nat) (o : PostOutcome) :
    Lawful s (s.finishGrant b v sentAt o) := by
  have h : Lawful s ((s.updLineBay b (fun l => { l with held := if o = .accept then v else l.held })).count b o) :=
    (s.updLineBay_lawful b _).trans (State.count_lawful _ b o)
  unfold State.finishGrant
  dsimp only
  revert h
  generalize (s.updLineBay b (fun l => { l with held := if o = .accept then v else l.held })).count b o = s1
  intro h
  generalize ((s.lineBay b).increase && o == .refuse) = up
  generalize s.exposure b = before
  have h2 : Lawful s ((if s1.atFaultLimit b then s1.faultLimit b else s1).endGrant b before) := by
    refine Lawful.trans ?_ (State.endGrant_lawful _ b before)
    split
    · exact h.trans (State.faultLimit_lawful s1 b)
    · exact h
  revert h2
  generalize (if s1.atFaultLimit b then s1.faultLimit b else s1).endGrant b before = s2
  intro h2
  have h3 : Lawful s (if up then s2.refusedIncrease b else s2) := by
    split
    · exact h2.trans (State.refusedIncrease_lawful _ b)
    · exact h2
  revert h3
  generalize (if up then s2.refusedIncrease b else s2) = s3
  intro h3
  split
  · exact h3
  · refine Lawful.trans ?_ (State.reconcile_lawful _ b)
    refine Lawful.trans ?_ (State.decreaseDone_lawful _ b)
    exact h3.trans (State.updLineBay_lawful _ b _)

theorem State.wakeAccepted_lawful (s : State) (b : BayNo) (period : Nat) : Lawful s (s.wakeAccepted b period) := by
  unfold State.wakeAccepted
  dsimp only
  split
  · exact (s.updBay_lawful b _).trans (State.updBay_lawful _ b _)
  · exact s.updBay_lawful b _

theorem State.wakeNotAccepted_lawful (s : State) (b : BayNo) (period : Nat) : Lawful s (s.wakeNotAccepted b period) := by
  unfold State.wakeNotAccepted
  dsimp only
  split
  · exact (s.updBay_lawful b _).trans (State.wakeTryFailed_lawful _ b)
  · exact s.updBay_lawful b _

theorem State.finishWake_lawful (s : State) (b : BayNo) (period : Nat) (o : PostOutcome) :
    Lawful s (s.finishWake b period o) := by
  unfold State.finishWake
  dsimp only
  refine Lawful.trans ((s.endExchange_lawful b).trans (State.count_lawful _ b o)) ?_
  split
  · exact (State.updBay_lawful _ b _).trans (State.faultLimit_lawful _ b)
  · split
    · exact State.wakeAccepted_lawful _ b period
    · exact State.wakeNotAccepted_lawful _ b period
    · exact State.wakeNotAccepted_lawful _ b period

theorem State.finishUnlock_lawful (s : State) (b : BayNo) (age : Nat) (o : PostOutcome) :
    Lawful s (s.finishUnlock b age o) := by
  have h : Lawful s ((s.endExchange b).count b o) := (s.endExchange_lawful b).trans (State.count_lawful _ b o)
  have h' : Lawful s (if o = .accept then (s.endExchange b).count b o
      else ((s.endExchange b).count b o).updLineBay b (fun l => { l with pUnlock := some age })) := by
    split
    · exact h
    · exact h.trans (State.updLineBay_lawful _ b _)
  unfold State.finishUnlock
  dsimp only
  by_cases hf : State.atFaultLimit (if o = .accept then (s.endExchange b).count b o
      else ((s.endExchange b).count b o).updLineBay b (fun l => { l with pUnlock := some age })) b = true
  · rw [if_pos hf]
    exact h'.trans (State.faultLimit_lawful _ b)
  · rw [if_neg hf]
    exact h'

theorem State.finishPoll_lawful (s : State) (b : BayNo) (o : PostOutcome) : Lawful s (s.finishPoll b o) := by
  have h : Lawful s ((s.endExchange b).count b o) := (s.endExchange_lawful b).trans (State.count_lawful _ b o)
  unfold State.finishPoll
  dsimp only
  split
  · exact h.trans (State.faultLimit_lawful _ b)
  · exact h

theorem State.finish_lawful (s : State) (b : BayNo) (o : PostOutcome) : Lawful s (s.finish b o) := by
  unfold State.finish
  split
  · exact s.finishPoll_lawful b o
  · exact s.finishGrant_lawful b _ _ o
  · exact s.finishWake_lawful b _ o
  · exact s.finishUnlock_lawful b _ o
  · exact s.freeLine_lawful

theorem State.windowOver_lawful (s : State) : Lawful s s.windowOver := by
  unfold State.windowOver
  split
  · exact .refl s
  · split
    · exact s.freeLine_lawful
    · split
      · exact s.finish_lawful _ _
      · exact s.repeatSending_lawful _ _

theorem State.runWindow_lawful (s : State) : Lawful s s.runWindow := by
  unfold State.runWindow
  split
  · exact .refl s
  · exact (s.runTo_lawful _).trans (State.windowOver_lawful _)

theorem State.silence_lawful (s : State) : Lawful s s.silence := by
  unfold State.silence
  split
  · split
    · exact s.runWindow_lawful
    · exact s.runWindow_lawful.trans (State.runWindow_lawful _)
  · exact .refl s

/-- R127: an answer is lawful when what takes it is. -/
theorem State.answer_lawful (s : State) {take : State → State} (h : Lawful s (take s)) : Lawful s (s.answer take) := by
  unfold State.answer
  split
  · split
    · exact s.freeLine_lawful
    · exact h
  · exact .refl s

theorem State.takeOutcome_lawful (s : State) (b : BayNo) (k : Exchange → Bool) (o : PostOutcome) :
    Lawful s (s.takeOutcome b k o) := by
  unfold State.takeOutcome
  split
  · split
    · exact s.silence_lawful
    · exact s.answer_lawful (s.finish_lawful b _)
    · exact s.answer_lawful (s.finish_lawful b _)
  · exact .refl s

theorem State.defer_lawful (s : State) (b : BayNo) (o : OpenX) : Lawful s (s.defer b o) := by
  unfold State.defer
  dsimp only
  split
  · exact s.finish_lawful b _
  · exact (s.updLineBay_lawful b _).trans (State.freeLine_lawful _)

theorem State.deferOpen_lawful (s : State) (b : BayNo) : Lawful s (s.deferOpen b) := by
  unfold State.deferOpen
  split
  · exact s.defer_lawful b _
  · exact s.freeLine_lawful

theorem State.takeDefer_lawful (s : State) (b : BayNo) : Lawful s (s.takeDefer b) := by
  unfold State.takeDefer
  split
  · exact s.answer_lawful (s.deferOpen_lawful b)
  · exact .refl s

theorem State.lineTakesStatus_lawful (s : State) (b : BayNo) (st : PostStatus) : Lawful s (s.lineTakesStatus b st) := by
  unfold State.lineTakesStatus
  dsimp only
  split
  · exact ((s.updLineBay_lawful b _).trans (State.updBay_lawful _ b _)).trans (State.noteExposure_lawful _ b _)
  · split
    · exact ((s.updLineBay_lawful b _).trans (State.reconcile_lawful _ b)).trans (State.noteExposure_lawful _ b _)
    · split
      · exact ((s.updLineBay_lawful b _).trans (State.noteExposure_lawful _ b _)).trans (State.decreaseDone_lawful _ b)
      · exact .refl s

theorem State.takeStatus_lawful (s : State) (b : BayNo) (st : PostStatus) : Lawful s (s.takeStatus b st) := by
  unfold State.takeStatus
  dsimp only
  have h : Lawful s ((((s.endExchange b).count b .accept).lineTakesStatus b st).bayTakesStatus b st) :=
    (((s.endExchange_lawful b).trans (State.count_lawful _ b _)).trans (State.lineTakesStatus_lawful _ b st)).trans
      (State.bayTakesStatus_lawful _ b st)
  split
  · refine Lawful.trans ?_ (State.reconcile_lawful _ b)
    split
    · exact h.trans (State.takeFrame_lawful _ b _)
    · exact h
  · split
    · exact h.trans (State.takeFrame_lawful _ b _)
    · exact h

theorem State.takePostStatus_lawful (s : State) (b : BayNo) (st : PostStatus) : Lawful s (s.takePostStatus b st) := by
  unfold State.takePostStatus
  split
  · exact s.answer_lawful (s.takeStatus_lawful b st)
  · exact .refl s

end Sys2Proof.Machine
end

