-- ==== Sys2Proof/Laws/LawfulRound.lean ====
section
/-! SUPPORT. The allocation round, the Input unit, the Settings store and the reset are lawful. -/

namespace Sys2Proof.Machine

/-! ### Round -/

theorem State.closeMissed_lawful (s : State) (now : Nat) : Lawful s (s.closeMissed now) :=
  .foldl (fun t tag => t.closeOrder_lawful tag .missed) _ s

theorem State.dropWindows_lawful (s : State) (now : Nat) : Lawful s (s.dropWindows now) := by
  refine ⟨rfl, ?_, id, id, id, ?_, id⟩
  · rintro ⟨h1, h2, h3, h4, h5, h6⟩
    exact ⟨h1, h2, h3, h4, h5, le_trans (List.length_filter_le _ _) h6⟩
  · rintro ⟨h1, h2⟩
    exact ⟨fun w hw => h1 w (List.mem_filter.mp hw).1, h2.filter _⟩

theorem State.clearDormantDeferred_lawful (s : State) : Lawful s s.clearDormantDeferred := by
  refine .foldl (fun t x => ?_) _ s
  exact t.updOrder_lawful _ _ (fun _ => rfl) (fun _ => rfl)

theorem State.changePhase_lawful (s : State) (now : Nat) (x : BayNo × Nat) : Lawful s (s.changePhase now x) := by
  unfold State.changePhase
  split
  · exact .refl s
  · split
    · exact .refl s
    · dsimp only
      split
      · refine Lawful.trans ?_ (State.append_lawful _ _ _ _)
        exact s.updOrder_lawful _ _ (fun _ => rfl) (fun _ => rfl)
      · exact s.updOrder_lawful _ _ (fun _ => rfl) (fun _ => rfl)

theorem State.changePhases_lawful (s : State) (now : Nat) : Lawful s (s.changePhases now) :=
  .foldl (fun t x => t.changePhase_lawful now x) _ s

theorem State.storeCaps_lawful (s : State) : Lawful s s.storeCaps := by
  refine .foldl (fun t b => ?_) _ s
  split
  · split
    · exact t.withCap_lawful b _
    · exact .refl t
  · exact .refl t

theorem State.setAtRisk_lawful (s : State) (now : Nat) (x : BayNo × Nat) : Lawful s (s.setAtRisk now x) := by
  unfold State.setAtRisk
  split
  · exact .refl s
  · dsimp only
    split
    · exact .refl s
    · refine Lawful.trans ?_ (State.append_lawful _ _ _ _)
      exact s.updOrder_lawful _ _ (fun _ => rfl) (fun _ => rfl)

theorem State.setAtRisks_lawful (s : State) (now : Nat) : Lawful s (s.setAtRisks now) :=
  .foldl (fun t x => t.setAtRisk_lawful now x) _ s

theorem State.handWake_lawful (s : State) (b : BayNo) : Lawful s (s.handWake b) := .of_same rfl

theorem State.wakeDecision_lawful (s : State) (now : Nat) (x : BayNo × Nat) : Lawful s (s.wakeDecision now x) := by
  unfold State.wakeDecision
  split
  · exact .refl s
  · split
    · split
      · split
        · exact .refl s
        · exact (s.updBay_lawful _ _).trans (State.append_lawful _ _ _ _)
      · split
        · exact .refl s
        · exact s.handWake_lawful _
    · exact .refl s

theorem State.wakeDecisions_lawful (s : State) (now : Nat) : Lawful s (s.wakeDecisions now) :=
  .foldl (fun t x => t.wakeDecision_lawful now x) _ s

theorem State.setDeferred_lawful (s : State) (now : Nat) : Lawful s (s.setDeferred now) := by
  refine .foldl (fun t x => ?_) _ s
  split
  · exact .refl t
  · exact t.updOrder_lawful _ _ (fun _ => rfl) (fun _ => rfl)

theorem State.roundResult_lawful (s : State) (ranking : List BayNo) (grants : List (BayNo × Nat)) :
    Lawful s (s.roundResult ranking grants) := by
  unfold State.roundResult
  refine Lawful.trans (s.alloc_lawful _) (.foldl (fun t b => ?_) _ _)
  split
  · exact .refl t
  · exact t.reconcile_lawful b

theorem State.roundAt_lawful (s : State) (now : Nat) : Lawful s (s.roundAt now) := by
  unfold State.roundAt
  refine Lawful.trans ?_ (State.roundResult_lawful _ _ _)
  refine Lawful.trans ?_ (State.setDeferred_lawful _ now)
  refine Lawful.trans ?_ (State.wakeDecisions_lawful _ now)
  refine Lawful.trans ?_ (State.setAtRisks_lawful _ now)
  refine Lawful.trans ?_ (State.storeCaps_lawful _)
  refine Lawful.trans ?_ (State.changePhases_lawful _ now)
  refine Lawful.trans ?_ (State.clearDormantDeferred_lawful _)
  exact (s.closeMissed_lawful now).trans (State.dropWindows_lawful _ now)

/-- R87: a round keeps every law. -/
theorem State.round_lawful (s : State) : Lawful s s.round := by
  unfold State.round
  split
  · exact s.roundAt_lawful _
  · exact .refl s

/-! ### Input unit -/

/-- R164: the condition of a role, Stop or Derate, agrees with the inputs in force; an Event input has none. -/
def State.conditionOf (s : State) : InputRole → Prop
  | .event => True
  | .stop => s.feeder.stop = s.roleInForce .stop
  | .derate => s.feeder.derate = s.roleInForce .derate

/-- Lawful but for the condition of one role. -/
structure LawfulBut (role : InputRole) (s t : State) : Prop where
  pending : t.pending = s.pending
  bounded : s.collectionsBounded → t.collectionsBounded
  attention : s.attentionRight → t.attentionRight
  ceiling : s.ceilingRight → t.ceilingRight
  conditions : s.conditionsRight → ∀ r, r ≠ role → t.conditionOf r
  tariff : s.tariffInOrder → t.tariffInOrder
  roster : s.rosterInOrder → t.rosterInOrder

theorem State.conditionsRight_iff (s : State) : s.conditionsRight ↔ ∀ r, s.conditionOf r := by
  constructor
  · rintro ⟨h1, h2⟩ r
    cases r
    · trivial
    · exact h1
    · exact h2
  · intro h
    exact ⟨h .stop, h .derate⟩

theorem Lawful.but {s t u : State} {role : InputRole} (h : Lawful s t) (k : LawfulBut role t u) : LawfulBut role s u :=
  ⟨k.pending.trans h.pending, fun x => k.bounded (h.bounded x), fun x => k.attention (h.attention x),
    fun x => k.ceiling (h.ceiling x), fun x => k.conditions (h.conditions x), fun x => k.tariff (h.tariff x),
    fun x => k.roster (h.roster x)⟩

/-- A law that leaves the feeder conditions, the inputs and their configuration alone follows a lawful-but update. -/
theorem LawfulBut.trans_same {s t u : State} {role : InputRole} (h : LawfulBut role s t) (k : Lawful t u)
    (hc : ∀ r, t.conditionOf r → u.conditionOf r) : LawfulBut role s u :=
  ⟨k.pending.trans h.pending, fun x => k.bounded (h.bounded x), fun x => k.attention (h.attention x),
    fun x => k.ceiling (h.ceiling x), fun x r hr => hc r (h.conditions x r hr), fun x => k.tariff (h.tariff x),
    fun x => k.roster (h.roster x)⟩

/-- The inputs of a role in force do not depend on an input of another role. -/
theorem State.roleInForce_updInput_ne (s : State) {y : InputNo} (f : InputState → InputState) {r : InputRole}
    (h : r ≠ (s.inputCfg y).role) : (s.updInput y f).roleInForce r = s.roleInForce r := by
  unfold State.roleInForce
  congr 1
  funext z
  by_cases e : z = y
  · subst e
    have h1 : ((s.inputCfg z).role == r) = false := by simpa using fun e' => h e'.symm
    simp [h1]
  · rw [State.input_updInput_ne s f e, State.inputCfg_updInput]

/-- An update of one input touches the condition of its own role alone. -/
theorem State.updInput_but (s : State) (y : InputNo) (f : InputState → InputState) :
    LawfulBut (s.inputCfg y).role s (s.updInput y f) := by
  refine ⟨rfl, id, id, id, ?_, id, id⟩
  intro h r hr
  have := (s.conditionsRight_iff.mp h) r
  cases r
  · trivial
  · change s.feeder.stop = _
    rw [State.roleInForce_updInput_ne s f hr]
    exact this
  · change s.feeder.derate = _
    rw [State.roleInForce_updInput_ne s f hr]
    exact this

/-- An update of one input that leaves it in force, or out of force, as it was, is lawful. -/
theorem State.updInput_lawful (s : State) (y : InputNo) (f : InputState → InputState)
    (h : (f (s.input y)).inForce = (s.input y).inForce) : Lawful s (s.updInput y f) := by
  have hr : ∀ r, (s.updInput y f).roleInForce r = s.roleInForce r := by
    intro r
    unfold State.roleInForce
    congr 1
    funext z
    by_cases e : z = y
    · subst e
      simp [h]
    · rw [State.input_updInput_ne s f e, State.inputCfg_updInput]
  refine ⟨rfl, id, id, id, ?_, id, id⟩
  rintro ⟨h1, h2⟩
  exact ⟨h1.trans (hr .stop).symm, h2.trans (hr .derate).symm⟩

/-- Trims touch neither conditions nor inputs. -/
theorem State.setTarget_feeder (s : State) (b : BayNo) (v : Nat) :
    (s.setTarget b v).feeder = s.feeder ∧ (s.setTarget b v).inputs = s.inputs ∧ (s.setTarget b v).store = s.store := by
  unfold State.setTarget State.reconcile
  dsimp only
  split
  · exact ⟨rfl, rfl, rfl⟩
  · split
    · split
      · exact ⟨rfl, rfl, rfl⟩
      · split <;> exact ⟨rfl, rfl, rfl⟩
    · exact ⟨rfl, rfl, rfl⟩

theorem State.trimBay_feeder (s : State) (b : BayNo) :
    (s.trimBay b).feeder = s.feeder ∧ (s.trimBay b).inputs = s.inputs ∧ (s.trimBay b).store = s.store := by
  unfold State.trimBay
  split
  · exact ⟨rfl, rfl, rfl⟩
  · exact s.setTarget_feeder b _

theorem State.trimCheck_feeder (s : State) :
    s.trimCheck.feeder = s.feeder ∧ s.trimCheck.inputs = s.inputs ∧ s.trimCheck.store = s.store := by
  unfold State.trimCheck
  generalize s.alloc.ranking.reverse = l
  induction l generalizing s with
  | nil => exact ⟨rfl, rfl, rfl⟩
  | cons b l ih =>
    obtain ⟨h1, h2, h3⟩ := ih (s.trimBay b)
    obtain ⟨k1, k2, k3⟩ := s.trimBay_feeder b
    rw [List.foldl_cons]
    exact ⟨h1.trans k1, h2.trans k2, h3.trans k3⟩

/-- A recomputation changes the Feeder unit in its effective ceiling alone, and no input and no setting. -/
theorem State.recomputeCeiling_feeder (s : State) :
    s.recomputeCeiling.feeder = { s.feeder with effective := ceilingOf s.feeder s.cfg } ∧
      s.recomputeCeiling.inputs = s.inputs ∧ s.recomputeCeiling.store = s.store := by
  unfold State.recomputeCeiling
  dsimp only
  split
  · exact State.trimCheck_feeder _
  · exact ⟨rfl, rfl, rfl⟩

theorem State.append_feeder (s : State) (k : EventKind) (x : Option Subject) (e : Edge) :
    (s.append k x e).feeder = s.feeder ∧ (s.append k x e).inputs = s.inputs ∧ (s.append k x e).store = s.store := by
  unfold State.append
  split <;> exact ⟨rfl, rfl, rfl⟩

/-- What the conditions read: the feeder's two flags, the inputs and the settings. -/
theorem State.conditionOf_congr {s t : State} (h1 : t.feeder.stop = s.feeder.stop) (h2 : t.feeder.derate = s.feeder.derate)
    (h3 : t.inputs = s.inputs) (h4 : t.store = s.store) (r : InputRole) (h : s.conditionOf r) : t.conditionOf r := by
  have hr : ∀ q, t.roleInForce q = s.roleInForce q := by
    intro q
    simp only [State.roleInForce, State.inputCfg, State.input, State.cfg, h3, h4]
  cases r
  · trivial
  · exact h1.trans (Eq.trans h (hr .stop).symm)
  · exact h2.trans (Eq.trans h (hr .derate).symm)

/-- R164: handing over the condition of a role makes a lawful-but update lawful. -/
theorem LawfulBut.hand {s t : State} {role : InputRole} (h : LawfulBut role s t) : Lawful s (t.handRole role) := by
  have key : ∀ (f : Feeder), f.tariff = t.feeder.tariff →
      (s.conditionsRight → ({ t with feeder := f } : State).conditionsRight) →
      Lawful s (State.recomputeCeiling { t with feeder := f }) := by
    intro f ht hc
    have hbase : Lawful s { t with feeder := { f with effective := ceilingOf f t.cfg } } := by
      refine ⟨h.pending, ?_, h.attention, fun _ => rfl, hc, ?_, h.roster⟩
      · intro hb
        obtain ⟨a, b, c, d, e, g⟩ := h.bounded hb
        exact ⟨a, b, c, d, e, by simpa only [ht] using g⟩
      · intro hi
        simpa only [State.tariffInOrder, ht] using h.tariff hi
    unfold State.recomputeCeiling
    dsimp only
    split
    · exact hbase.trans (State.trimCheck_lawful _)
    · exact hbase
  cases role
  · refine ⟨h.pending, h.bounded, h.attention, h.ceiling, ?_, h.tariff, h.roster⟩
    intro hc
    exact ⟨h.conditions hc .stop (by simp), h.conditions hc .derate (by simp)⟩
  · simp only [State.handRole, State.handStop]
    split
    case isTrue e =>
      refine ⟨h.pending, h.bounded, h.attention, h.ceiling, ?_, h.tariff, h.roster⟩
      exact fun hc => ⟨e.symm, h.conditions hc .derate (by simp)⟩
    case isFalse =>
      exact key _ rfl (fun hc => ⟨rfl, h.conditions hc .derate (by simp)⟩)
  · simp only [State.handRole, State.handDerate]
    split
    case isTrue e =>
      refine ⟨h.pending, h.bounded, h.attention, h.ceiling, ?_, h.tariff, h.roster⟩
      exact fun hc => ⟨h.conditions hc .stop (by simp), e.symm⟩
    case isFalse =>
      exact key _ rfl (fun hc => ⟨h.conditions hc .stop (by simp), rfl⟩)

/-- R163: the event of a role leaves conditions, inputs and settings alone. -/
theorem State.roleEvent_same (s : State) (role : InputRole) (y : InputNo) (e : Edge) :
    Lawful s (s.roleEvent role y e) ∧ (s.roleEvent role y e).feeder = s.feeder ∧
      (s.roleEvent role y e).inputs = s.inputs ∧ (s.roleEvent role y e).store = s.store := by
  cases role
  · exact ⟨s.append_lawful _ _ _, s.append_feeder _ _ _⟩
  · exact ⟨s.append_lawful _ _ _, s.append_feeder _ _ _⟩
  · exact ⟨.refl s, rfl, rfl, rfl⟩

/-- R163, R164: acting by the role of an input makes an update of that input lawful. -/
theorem LawfulBut.act {s t : State} {y : InputNo} (e : Edge) (h : LawfulBut (t.inputCfg y).role s t) :
    Lawful s (t.actRole y e) := by
  obtain ⟨k1, k2, k3, k4⟩ := t.roleEvent_same (t.inputCfg y).role y e
  unfold State.actRole
  exact (h.trans_same k1 (fun r => State.conditionOf_congr (by rw [k2]) (by rw [k2]) k3 k4 r)).hand

theorem State.setFiltered_lawful (s : State) (y : InputNo) (active : Bool) : Lawful s (s.setFiltered y active) := by
  unfold State.setFiltered
  dsimp only
  split
  case isTrue h =>
    refine s.updInput_lawful y _ ?_
    simp only [Bool.or_eq_true, beq_iff_eq] at h
    simp only [InputState.inForce]
    rcases h with h | h
    · simp [h]
    · rw [← h]
  case isFalse =>
    split
    · refine LawfulBut.act (s := s) _ ?_
      have : LawfulBut (s.inputCfg y).role s ((s.updInput y (fun i => { i with active := active })).updInput y
          (fun i => { i with latched := (s.inputCfg y).latch })) := by
        have e : ((s.updInput y (fun i => { i with active := active })).updInput y
            (fun i => { i with latched := (s.inputCfg y).latch })) =
            s.updInput y (fun i => { i with active := active, latched := (s.inputCfg y).latch }) := by
          simp [State.updInput, Vector.set_set]
        rw [e]
        exact s.updInput_but y _
      exact this
    · exact LawfulBut.act (s := s) _ (s.updInput_but y _)

theorem State.lineLevel_lawful (s : State) (y : InputNo) (high : Bool) : Lawful s (s.lineLevel y high) := by
  unfold State.lineLevel
  dsimp only
  have h : Lawful s (s.updInput y (fun i => { i with levelHigh := high, pending := none })) :=
    s.updInput_lawful y _ rfl
  split
  · exact .refl s
  · split
    · exact h
    · split
      · exact h.trans (State.setFiltered_lawful _ y _)
      · exact h.trans (State.updInput_lawful _ y _ rfl)

theorem State.filterOver_lawful (s : State) (y : InputNo) (p : PendingChange) : Lawful s (s.filterOver y p) :=
  (s.updInput_lawful y _ rfl).trans (State.setFiltered_lawful _ y _)

theorem State.clearInputLatch_lawful (s : State) (y : InputNo) : Lawful s (s.clearInputLatch y) := by
  unfold State.clearInputLatch
  split
  · exact LawfulBut.act (s := s) _ (s.updInput_but y _)
  · exact .refl s

/-- A change of the working copy that no law reads. -/
theorem State.withWorking_lawful (s : State) (w : Settings) (h1 : w.safeCeiling = s.cfg.safeCeiling)
    (h2 : w.derateCeiling = s.cfg.derateCeiling) (h3 : ∀ y : InputNo, (w.inputs[y]).role = (s.inputCfg y).role) :
    Lawful s (s.withWorking w) := by
  have hr : ∀ r, (s.withWorking w).roleInForce r = s.roleInForce r := by
    intro r
    have : ∀ y : InputNo, ((s.withWorking w).inputCfg y).role = (s.inputCfg y).role := h3
    simp only [State.roleInForce, this]
    rfl
  refine ⟨rfl, id, id, ?_, ?_, id, id⟩
  · intro h
    have : ceilingOf s.feeder w = ceilingOf s.feeder s.cfg := by
      simp only [ceilingOf, h1, h2]
    exact Eq.trans h this.symm
  · rintro ⟨a, b⟩
    exact ⟨a.trans (hr .stop).symm, b.trans (hr .derate).symm⟩

theorem State.withInputCfg_lawful (s : State) (y : InputNo) (c : InputCfg) (h : c.role = (s.inputCfg y).role) :
    Lawful s (s.withInputCfg y c) := by
  refine s.withWorking_lawful _ rfl rfl (fun z => ?_)
  by_cases e : z = y
  · subst e
    simp [h]
  · have h' : (y : Nat) ≠ z := fun e' => e (Fin.ext e'.symm)
    simp [State.inputCfg, h']

theorem State.cfgFilter_lawful (s : State) (y : InputNo) (f : FilterTime) : Lawful s (s.cfgFilter y f) :=
  s.withInputCfg_lawful y _ rfl

theorem State.cfgActive_lawful (s : State) (y : InputNo) (high : Bool) : Lawful s (s.cfgActive y high) := by
  unfold State.cfgActive
  split
  · exact .refl s
  · dsimp only
    refine Lawful.trans ?_ (State.setFiltered_lawful _ y _)
    refine Lawful.trans ?_ (State.updInput_lawful _ y _ rfl)
    exact s.withInputCfg_lawful y _ rfl

theorem State.cfgLatch_lawful (s : State) (y : InputNo) (latch : Bool) : Lawful s (s.cfgLatch y latch) := by
  unfold State.cfgLatch
  split
  · exact .refl s
  · dsimp only
    have h := s.withInputCfg_lawful y { s.inputCfg y with latch := latch } rfl
    split
    · refine h.trans (State.updInput_lawful _ y _ ?_)
      simp only [InputState.inForce]
      cases ((s.withInputCfg y { s.inputCfg y with latch := latch }).input y).active <;> simp
    · split
      case isTrue =>
        have h2 := State.updInput_but (s.withInputCfg y { s.inputCfg y with latch := latch }) y
          (fun i => { i with latched := false })
        exact h.trans (LawfulBut.act _ h2)
      case isFalse e =>
        refine h.trans (State.updInput_lawful _ y _ ?_)
        simp only [State.input_withInputCfg, InputState.inForce]
        revert e
        cases (s.input y).active <;> cases (s.input y).latched <;> simp

/-- The inputs of a role in force do not depend on the configuration of an input that another role had and has. -/
theorem State.roleInForce_withInputCfg_ne (s : State) {y : InputNo} (c : InputCfg) {r : InputRole}
    (h1 : r ≠ (s.inputCfg y).role) (h2 : r ≠ c.role) : (s.withInputCfg y c).roleInForce r = s.roleInForce r := by
  unfold State.roleInForce
  congr 1
  funext z
  by_cases e : z = y
  · subst e
    have e1 : ((s.inputCfg z).role == r) = false := by simpa using fun e' => h1 e'.symm
    have e2 : (c.role == r) = false := by simpa using fun e' => h2 e'.symm
    simp [e1, e2]
  · rw [State.inputCfg_withInputCfg_ne s c e, State.input_withInputCfg]

/-- Every law but the conditions is kept. -/
structure Rest (s t : State) : Prop where
  pending : t.pending = s.pending
  bounded : s.collectionsBounded → t.collectionsBounded
  attention : s.attentionRight → t.attentionRight
  ceiling : s.ceilingRight → t.ceilingRight
  tariff : s.tariffInOrder → t.tariffInOrder
  roster : s.rosterInOrder → t.rosterInOrder

theorem Lawful.rest {s t : State} (h : Lawful s t) : Rest s t :=
  ⟨h.pending, h.bounded, h.attention, h.ceiling, h.tariff, h.roster⟩

theorem Rest.trans {s t u : State} (h : Rest s t) (k : Rest t u) : Rest s u :=
  ⟨k.pending.trans h.pending, fun x => k.bounded (h.bounded x), fun x => k.attention (h.attention x),
    fun x => k.ceiling (h.ceiling x), fun x => k.tariff (h.tariff x), fun x => k.roster (h.roster x)⟩

theorem Rest.lawful {s t : State} (h : Rest s t) (k : s.conditionsRight → t.conditionsRight) : Lawful s t :=
  ⟨h.pending, h.bounded, h.attention, h.ceiling, k, h.tariff, h.roster⟩

/-- R164: handing over a condition is lawful. -/
theorem State.handRole_lawful (s : State) (role : InputRole) : Lawful s (s.handRole role) :=
  LawfulBut.hand ⟨rfl, id, id, id, fun h r _ => (s.conditionsRight_iff.mp h) r, id, id⟩

/-- Handing over leaves inputs and settings alone, and the other conditions. -/
theorem State.handRole_parts (s : State) (role : InputRole) :
    (s.handRole role).inputs = s.inputs ∧ (s.handRole role).store = s.store ∧
      (role ≠ .stop → (s.handRole role).feeder.stop = s.feeder.stop) ∧
      (role ≠ .derate → (s.handRole role).feeder.derate = s.feeder.derate) := by
  cases role
  · exact ⟨rfl, rfl, fun _ => rfl, fun _ => rfl⟩
  · simp only [State.handRole, State.handStop]
    split
    · exact ⟨rfl, rfl, fun _ => rfl, fun _ => rfl⟩
    · obtain ⟨h1, h2, h3⟩ := State.recomputeCeiling_feeder { s with feeder := { s.feeder with stop := s.roleInForce .stop } }
      exact ⟨h2, h3, fun e => absurd rfl e, fun _ => by rw [h1]⟩
  · simp only [State.handRole, State.handDerate]
    split
    · exact ⟨rfl, rfl, fun _ => rfl, fun _ => rfl⟩
    · obtain ⟨h1, h2, h3⟩ := State.recomputeCeiling_feeder { s with feeder := { s.feeder with derate := s.roleInForce .derate } }
      exact ⟨h2, h3, fun _ => by rw [h1], fun e => absurd rfl e⟩

/-- The inputs of a role in force follow from the inputs and the settings. -/
theorem State.roleInForce_congr {s t : State} (h3 : t.inputs = s.inputs) (h4 : t.store = s.store) (r : InputRole) :
    t.roleInForce r = s.roleInForce r := by
  simp only [State.roleInForce, State.inputCfg, State.input, State.cfg, h3, h4]

/-- R164: handing over the condition of a role makes it right, whatever it was. -/
theorem State.handRole_self (s : State) (role : InputRole) : (s.handRole role).conditionOf role := by
  obtain ⟨h1, h2, -, -⟩ := s.handRole_parts role
  have hr := State.roleInForce_congr (s := s) (t := s.handRole role) h1 h2
  cases role
  · trivial
  · change (s.handRole .stop).feeder.stop = _
    rw [hr]
    simp only [State.handRole, State.handStop]
    split
    case isTrue e => exact e.symm
    case isFalse =>
      rw [(State.recomputeCeiling_feeder _).1]
  · change (s.handRole .derate).feeder.derate = _
    rw [hr]
    simp only [State.handRole, State.handDerate]
    split
    case isTrue e => exact e.symm
    case isFalse =>
      rw [(State.recomputeCeiling_feeder _).1]

theorem State.handRole_ne (s : State) {role r : InputRole} (h : r ≠ role) (hc : s.conditionOf r) :
    (s.handRole role).conditionOf r := by
  obtain ⟨h1, h2, h3, h4⟩ := s.handRole_parts role
  have hr := State.roleInForce_congr (s := s) (t := s.handRole role) h1 h2
  cases r
  · trivial
  · exact (h3 (fun e => h e.symm)).trans (Eq.trans hc (hr .stop).symm)
  · exact (h4 (fun e => h e.symm)).trans (Eq.trans hc (hr .derate).symm)

/-- R166: the working copy of an input's configuration, without the conditions. -/
theorem State.withInputCfg_rest (s : State) (y : InputNo) (c : InputCfg) : Rest s (s.withInputCfg y c) :=
  ⟨rfl, id, id, id, id, id⟩

/-- R166: a written role. -/
theorem State.cfgRole_lawful (s : State) (y : InputNo) (role : InputRole) : Lawful s (s.cfgRole y role) := by
  unfold State.cfgRole
  dsimp only
  split
  · exact .refl s
  case isFalse hne =>
    obtain ⟨left, hleft⟩ : ∃ left, left = (if (s.input y).inForce then s.roleEvent (s.inputCfg y).role y .cleared else s) :=
      ⟨_, rfl⟩
    rw [← hleft]
    have hl : Lawful s left ∧ left.feeder = s.feeder ∧ left.inputs = s.inputs ∧ left.store = s.store := by
      rw [hleft]
      split
      · exact s.roleEvent_same _ y _
      · exact ⟨.refl s, rfl, rfl, rfl⟩
    obtain ⟨l1, l2, l3, l4⟩ := hl
    have lcfg : ∀ z, left.inputCfg z = s.inputCfg z := fun z => by simp only [State.inputCfg, State.cfg, l4]
    have linp : ∀ z, left.input z = s.input z := fun z => by simp only [State.input, l3]
    obtain ⟨c, hc⟩ : ∃ c : InputCfg, c = { s.inputCfg y with role := role } := ⟨_, rfl⟩
    have hcr : c.role = role := by rw [hc]
    rw [← hc]
    have t0 : ∀ r, r ≠ (s.inputCfg y).role → r ≠ role → left.conditionOf r →
        ((left.withInputCfg y c).updInput y (fun i => { i with latched := false })).conditionOf r := by
      intro r h1 h2 h3
      have e1 := State.roleInForce_updInput_ne (left.withInputCfg y c) (y := y) (fun i => { i with latched := false })
        (r := r) (by rw [State.inputCfg_withInputCfg, hcr]; exact h2)
      have e2 := State.roleInForce_withInputCfg_ne left (y := y) c (r := r) (by rw [lcfg]; exact h1) (by rw [hcr]; exact h2)
      cases r
      · trivial
      · exact Eq.trans h3 (e1.trans e2).symm
      · exact Eq.trans h3 (e1.trans e2).symm
    have rest0 : Rest s (((left.withInputCfg y c).updInput y (fun i => { i with latched := false })).handRole
        (s.inputCfg y).role) := by
      refine Rest.trans ?_ (State.handRole_lawful _ _).rest
      exact (l1.rest.trans (left.withInputCfg_rest y c)).trans ⟨rfl, id, id, id, id, id⟩
    have cond0 : s.conditionsRight → ∀ r, r ≠ role →
        (((left.withInputCfg y c).updInput y (fun i => { i with latched := false })).handRole
          (s.inputCfg y).role).conditionOf r := by
      intro h r hr
      by_cases e : r = (s.inputCfg y).role
      · rw [e]
        exact State.handRole_self _ _
      · exact State.handRole_ne _ e (t0 r e hr ((State.conditionsRight_iff _).mp (l1.conditions h) r))
    split
    case isTrue =>
      have hcfg : ∀ (f : InputState → InputState), (((((left.withInputCfg y c).updInput y
          (fun i => { i with latched := false })).handRole (s.inputCfg y).role).updInput y f).inputCfg y).role = role := by
        intro f
        rw [State.inputCfg_updInput]
        have h2 := (State.handRole_parts ((left.withInputCfg y c).updInput y (fun i => { i with latched := false }))
          (s.inputCfg y).role).2.1
        rw [State.inputCfg, State.cfg, h2]
        change ((left.withInputCfg y c).inputCfg y).role = role
        rw [State.inputCfg_withInputCfg, hcr]
      refine LawfulBut.act (s := s) _ ?_
      rw [hcfg]
      have hb := State.updInput_but (((left.withInputCfg y c).updInput y (fun i => { i with latched := false })).handRole
        (s.inputCfg y).role) y (fun i => { i with latched := (s.inputCfg y).latch })
      refine ⟨hb.pending.trans rest0.pending, fun x => hb.bounded (rest0.bounded x),
        fun x => hb.attention (rest0.attention x), fun x => hb.ceiling (rest0.ceiling x), ?_,
        fun x => hb.tariff (rest0.tariff x), fun x => hb.roster (rest0.roster x)⟩
      intro h r hr
      have hk := cond0 h r hr
      have hcfg' := hcfg (fun i => i)
      rw [State.inputCfg_updInput] at hcfg'
      have e1 := State.roleInForce_updInput_ne (((left.withInputCfg y c).updInput y
        (fun i => { i with latched := false })).handRole (s.inputCfg y).role) (y := y)
        (fun i => { i with latched := (s.inputCfg y).latch }) (r := r) (by rw [hcfg']; exact hr)
      cases r
      · trivial
      · exact Eq.trans hk e1.symm
      · exact Eq.trans hk e1.symm
    case isFalse hact =>
      refine rest0.lawful (fun h => (State.conditionsRight_iff _).mpr (fun r => ?_))
      by_cases e : r = role
      · have hr : ((left.withInputCfg y c).updInput y (fun i => { i with latched := false })).roleInForce r =
            s.roleInForce r := by
          unfold State.roleInForce
          congr 1
          funext z
          by_cases ez : z = y
          · subst ez
            have e1 : ((s.inputCfg z).role == r) = false := by
              rw [e]
              simpa using hne
            simp [e1, InputState.inForce, linp, hact]
          · rw [State.input_updInput_ne _ _ ez, State.inputCfg_updInput, State.inputCfg_withInputCfg_ne _ _ ez,
              State.input_withInputCfg, lcfg, linp]
        have hs := (State.conditionsRight_iff _).mp h r
        have ht : ((left.withInputCfg y c).updInput y (fun i => { i with latched := false })).conditionOf r := by
          cases r
          · trivial
          · refine Eq.trans ?_ (Eq.trans hs hr.symm)
            change left.feeder.stop = _
            rw [l2]
          · refine Eq.trans ?_ (Eq.trans hs hr.symm)
            change left.feeder.derate = _
            rw [l2]
        refine State.handRole_ne _ ?_ ht
        rw [e]
        exact fun e' => hne e'.symm
      · exact cond0 h r e

theorem State.reconfigure_lawful (s : State) (y : InputNo) (c : InputCfg) : Lawful s (s.reconfigure y c) :=
  (((s.cfgFilter_lawful y _).trans (State.cfgActive_lawful _ y _)).trans (State.cfgLatch_lawful _ y _)).trans
    (State.cfgRole_lawful _ y _)

/-! ### Settings store and reset -/

theorem State.raisePostMin_lawful (s : State) : Lawful s s.raisePostMin := by
  refine .foldl (fun t b => ?_) _ s
  split
  · exact t.setTarget_lawful b 0
  · exact .refl t

theorem State.lowerRating_lawful (s : State) (b : BayNo) (rating : Nat) : Lawful s (s.lowerRating b rating) := by
  have h : Lawful s (if rating < s.cap b then s.withCap b rating else s) := by
    split
    · exact s.withCap_lawful b rating
    · exact .refl s
  unfold State.lowerRating
  dsimp only
  revert h
  generalize (if rating < s.cap b then s.withCap b rating else s) = t
  intro h
  split
  · exact h.trans (t.setTarget_lawful b _)
  · exact h

/-- R80, R180: a written setting that is neither a ceiling nor an input leaves what the laws read of the settings. -/
theorem Settings.write_same (w : Settings) (id : SettingId) (v : SettingValue) (h1 : id ≠ .safeCeiling)
    (h2 : id ≠ .derateCeiling) (h3 : ∀ y, id ≠ .input y) :
    (w.write id v).safeCeiling = w.safeCeiling ∧ (w.write id v).derateCeiling = w.derateCeiling ∧
      (w.write id v).inputs = w.inputs := by
  unfold Settings.write
  split <;> first
    | exact ⟨rfl, rfl, rfl⟩
    | exact absurd rfl h1
    | exact absurd rfl h2
    | exact absurd rfl (h3 _)

theorem State.writeSetting_lawful (s : State) (id : SettingId) (v : SettingValue) (h1 : id ≠ .safeCeiling)
    (h2 : id ≠ .derateCeiling) (h3 : ∀ y, id ≠ .input y) : Lawful s (s.withWorking (s.cfg.write id v)) := by
  obtain ⟨k1, k2, k3⟩ := Settings.write_same s.cfg id v h1 h2 h3
  exact s.withWorking_lawful _ k1 k2 (fun y => by simp only [k3]; rfl)

/-- R80: a written ceiling, once the effective ceiling has been recomputed. -/
theorem State.writeCeiling_lawful (s : State) (w : Settings) (h : w.inputs = s.cfg.inputs) :
    Lawful s (s.withWorking w).recomputeCeiling := by
  have hr : ∀ r, (s.withWorking w).roleInForce r = s.roleInForce r := by
    intro r
    have hi : ∀ y : InputNo, (s.withWorking w).inputCfg y = s.inputCfg y := by
      intro y
      change w.inputs[y] = s.cfg.inputs[y]
      rw [h]
    simp only [State.roleInForce, hi]
    rfl
  obtain ⟨k1, k2, k3⟩ := State.recomputeCeiling_feeder (s.withWorking w)
  have hl := State.recomputeCeiling_lawful (s.withWorking w)
  refine ⟨hl.pending, hl.bounded, hl.attention, ?_, ?_, hl.tariff, hl.roster⟩
  · intro _
    change (s.withWorking w).recomputeCeiling.feeder.effective = ceilingOf (s.withWorking w).recomputeCeiling.feeder
      (s.withWorking w).recomputeCeiling.store.working
    rw [k1, k3]
    rfl
  · rintro ⟨a, b⟩
    exact hl.conditions ⟨a.trans (hr .stop).symm, b.trans (hr .derate).symm⟩

theorem State.applySetting_lawful (s : State) (id : SettingId) (v : SettingValue)
    (hv : ∀ y, id = .input y → ∃ c, v = .input c) : Lawful s (s.applySetting id v) := by
  unfold State.applySetting
  dsimp only
  split
  · exact s.reconfigure_lawful _ _
  · split
    · exact (s.writeSetting_lawful _ _ (by simp) (by simp) (by simp)).trans (State.raisePostMin_lawful _)
    · exact s.writeSetting_lawful _ _ (by simp) (by simp) (by simp)
  · split
    · exact (s.writeSetting_lawful _ _ (by simp) (by simp) (by simp)).trans (State.lowerRating_lawful _ _ _)
    · exact s.writeSetting_lawful _ _ (by simp) (by simp) (by simp)
  · exact s.writeCeiling_lawful _ (by unfold Settings.write; split <;> first | rfl | contradiction)
  · exact s.writeCeiling_lawful _ (by unfold Settings.write; split <;> first | rfl | contradiction)
  · rename_i n1 n2 n3 n4 n5
    refine s.writeSetting_lawful id v n1 n2 (fun y e => ?_)
    obtain ⟨c, hc⟩ := hv y e
    exact n3 y c e hc

theorem State.beginCommit_lawful (s : State) : Lawful s s.beginCommit := .of_same rfl

theorem State.commitOver_lawful (s : State) (c : Commit) (good : Bool) : Lawful s (s.commitOver c good) := by
  unfold State.commitOver
  refine Lawful.trans ?_ (State.append_lawful _ _ _ _)
  exact .of_same rfl

/-- R184: after a reset every law holds, whatever the state was; the queue of commands is the same. -/
theorem State.doReset_lawful (s : State) : Lawful s s.doReset := by
  have base : ∀ (im : Image) (n : Nat), Lawful s (s.resetTo im n) := by
    intro im n
    refine ⟨rfl, fun _ => ?_, fun _ => ?_, fun _ => rfl, fun _ => ⟨rfl, rfl⟩, fun _ => ⟨?_, ?_⟩,
      fun _ => ⟨List.Pairwise.nil, List.Pairwise.nil⟩⟩
    · exact ⟨Nat.zero_le _, fun h => absurd h Bool.false_ne_true, Nat.zero_le _, fun h => absurd rfl h, Nat.zero_le _,
        Nat.zero_le _⟩
    · refine ⟨?_, ?_, ?_⟩ <;> simp [State.resetTo, attentionFor]
    · exact fun w hw => absurd hw (List.not_mem_nil)
    · exact List.Pairwise.nil
  unfold State.doReset
  dsimp only
  refine Lawful.trans ?_ (State.settle_lawful _)
  unfold State.endStartUp
  refine Lawful.trans ?_ (State.refreshAttention_lawful _)
  split
  · exact base _ _
  · exact (base _ _).trans (State.append_lawful _ _ _ _)

end Sys2Proof.Machine
end

