-- ==== Sys2Proof/Laws/LawfulCommands.lean ====
section
/-! SUPPORT. The owners of the requests, and what the timers and the posts bring about, are lawful: each meaning answers
a next state that keeps the queue and every law. -/

namespace Sys2Proof.Machine

/-- R173: a request whose owner is lawful is served lawfully. -/
theorem State.serve_lawful (s : State) (r : Req) (code : Byte) (permits : Port → Bool)
    (owner : List Byte → State → State × Reply) (h : Lawful s (owner r.body s).1) :
    Lawful s (s.serve r code permits owner) := by
  unfold State.serve
  dsimp only
  split
  · exact .refl s
  all_goals
    refine Lawful.trans ?_ (State.withSlot_lawful _ _ _)
    split
    · exact h
    · exact .refl s

/-! ### Reads -/

theorem readIdentityOwner_state (p : Port) (body : List Byte) (s : State) : (readIdentityOwner p body s).1 = s := by
  unfold readIdentityOwner
  split <;> rfl

theorem readOrderOwner_state (body : List Byte) (s : State) : (readOrderOwner body s).1 = s := by
  unfold readOrderOwner
  split
  · split <;> rfl
  · rfl

theorem listRosterOwner_state (body : List Byte) (s : State) : (listRosterOwner body s).1 = s := by
  unfold listRosterOwner
  split
  · split <;> rfl
  · rfl

theorem readBayOwner_state (body : List Byte) (s : State) : (readBayOwner body s).1 = s := by
  unfold readBayOwner
  split
  · split <;> rfl
  · rfl

theorem readFeederOwner_state (body : List Byte) (s : State) : (readFeederOwner body s).1 = s := by
  unfold readFeederOwner
  split <;> rfl

theorem readTableOwner_state (body : List Byte) (s : State) : (readTableOwner body s).1 = s := by
  unfold readTableOwner
  split
  · split
    · split <;> rfl
    · rfl
  · rfl

theorem readSettingOwner_state (body : List Byte) (s : State) : (readSettingOwner body s).1 = s := by
  unfold readSettingOwner
  split
  · split <;> rfl
  · rfl

theorem peekCompletionsOwner_state (body : List Byte) (s : State) : (peekCompletionsOwner body s).1 = s := by
  unfold peekCompletionsOwner
  split <;> rfl

/-! ### Events and attention -/

/-- R156: TakeEvents. -/
theorem State.takeEvents_lawful (s : State) : Lawful s s.takeEvents := by
  refine ⟨rfl, ?_, fun _ => ⟨rfl, rfl, rfl⟩, id, id, id, id⟩
  rintro ⟨h1, h2, h3, h4, h5, h6⟩
  refine ⟨?_, fun h => absurd h Bool.false_ne_true, h3, h4, h5, h6⟩
  simp only [State.takeEvents, State.refreshAttention, List.length_drop]
  omega

theorem takeEventsOwner_lawful (body : List Byte) (s : State) : Lawful s (takeEventsOwner body s).1 := by
  unfold takeEventsOwner
  split
  · exact s.takeEvents_lawful
  · exact .refl s

theorem State.setMask_lawful (s : State) (p : Port) (m : Mask) : Lawful s (s.setMask p m) := by
  cases p <;> exact ⟨rfl, id, fun _ => ⟨rfl, rfl, rfl⟩, id, id, id, id⟩

theorem setAttentionOwner_lawful (p : Port) (body : List Byte) (s : State) :
    Lawful s (setAttentionOwner p body s).1 := by
  unfold setAttentionOwner
  split
  · split
    · exact s.setMask_lawful p _
    · exact .refl s
  · exact .refl s

/-! ### Planner -/

theorem State.setClock_lawful (s : State) (t : Nat) : Lawful s (s.setClock t) := by
  have h : Lawful s (State.append { s with alloc := { s.alloc with clock := some ⟨t, s.elapsed⟩ } } .clockSet none
      .raised) := (s.alloc_lawful _).trans (State.append_lawful _ _ _ _)
  unfold State.setClock
  dsimp only
  split
  · refine Lawful.trans ?_ (State.settle_lawful _)
    refine Lawful.trans ?_ (State.startRoundTimer_lawful _)
    exact h.trans (State.round_lawful _)
  · exact h

theorem setClockOwner_lawful (body : List Byte) (s : State) : Lawful s (setClockOwner body s).1 := by
  unfold setClockOwner
  split
  · exact s.setClock_lawful _
  · exact .refl s

theorem insertOrder_perm (o : Order) (l : List Order) : (insertOrder o l).Perm (o :: l) := by
  induction l with
  | nil => exact .refl _
  | cons x xs ih =>
    unfold insertOrder
    split
    · exact (ih.cons x).trans (.swap o x xs)
    · exact .refl _

theorem length_insertOrder (o : Order) (l : List Order) : (insertOrder o l).length = l.length + 1 :=
  (insertOrder_perm o l).length_eq

/-- R5: a roster in order is in order after an order has entered it. -/
theorem insertOrder_sorted (o : Order) {l : List Order} (h : l.Pairwise (fun a b => a.departure ≤ b.departure)) :
    (insertOrder o l).Pairwise (fun a b => a.departure ≤ b.departure) := by
  induction h with
  | nil => exact List.pairwise_singleton _ _
  | cons h1 h2 ih =>
    rename_i x xs
    unfold insertOrder
    split
    case isTrue e =>
      refine List.pairwise_cons.mpr ⟨fun y hy => ?_, ih⟩
      rcases List.mem_cons.mp ((insertOrder_perm o xs).mem_iff.mp hy) with rfl | hy
      · exact e
      · exact h1 y hy
    case isFalse e =>
      refine List.pairwise_cons.mpr ⟨fun y hy => ?_, List.pairwise_cons.mpr ⟨h1, h2⟩⟩
      rcases List.mem_cons.mp hy with rfl | hy
      · omega
      · have := h1 y hy
        omega

/-- R6: tags stay distinct when an order with a new tag enters. -/
theorem insertOrder_tags (o : Order) {l : List Order} (h : l.Pairwise (fun a b => a.tag ≠ b.tag))
    (hn : ∀ x ∈ l, x.tag ≠ o.tag) : (insertOrder o l).Pairwise (fun a b => a.tag ≠ b.tag) := by
  refine ((insertOrder_perm o l).pairwise_iff (fun hab => Ne.symm hab)).mpr ?_
  exact List.pairwise_cons.mpr ⟨fun x hx => (hn x hx).symm, h⟩

theorem State.tag_free (s : State) {tag : Nat} (h : s.order? tag = none) : ∀ x ∈ s.roster, x.tag ≠ tag := by
  intro x hx e
  have := List.find?_eq_none.mp h x hx
  simp [e] at this

/-- R8: an order that has passed the checks of R7 enters lawfully. -/
theorem State.addOrder_lawful (s : State) (o : Order) (h : s.addOrderStatus o = .done) : Lawful s (s.addOrder o) := by
  have hroom : s.roster.length < 40 ∧ s.order? o.tag = none := by
    unfold State.addOrderStatus at h
    split at h
    · cases h
    · split at h
      · cases h
      · split at h
        · cases h
        · split at h
          · rename_i h1 h2 h3 h4
            exact ⟨h4, by simpa using h2⟩
          · cases h
  unfold State.addOrder
  refine Lawful.trans ?_ (State.bindingCheckOrder_lawful _ _)
  refine ⟨rfl, ?_, id, id, id, id, ?_⟩
  · rintro ⟨h1, h2, h3, h4, h5, h6⟩
    refine ⟨h1, h2, h3, h4, ?_, h6⟩
    change (insertOrder o s.roster).length ≤ 40
    rw [length_insertOrder]
    omega
  · rintro ⟨h1, h2⟩
    exact ⟨insertOrder_sorted o h1, insertOrder_tags o h2 (s.tag_free hroom.2)⟩

theorem addOrderOwner_lawful (body : List Byte) (s : State) : Lawful s (addOrderOwner body s).1 := by
  unfold addOrderOwner
  split
  · split
    · split
      · split
        case h_1 h => exact s.addOrder_lawful _ h
        case h_2 => exact .refl s
      · exact .refl s
    · exact .refl s
  · exact .refl s

/-- R10: an amended order keeps its place, or is taken out and enters anew. -/
theorem State.amendFields_lawful (s : State) {o o' : Order} {toNone : Bool} (h : s.order? o.tag = some o)
    (ht : o'.tag = o.tag) : Lawful s (s.amendFields o o' toNone) := by
  have hmem := s.mem_of_order? h
  have base : Lawful s (if o'.departure = o.departure then s.updOrder o.tag (fun _ => amendedRecord o' toNone)
      else { s with roster := insertOrder (amendedRecord o' toNone) (s.roster.filter (fun x => x.tag != o.tag)) }) := by
    split
    case isTrue e => exact s.putOrder_lawful h ht e
    case isFalse =>
      refine ⟨rfl, ?_, id, id, id, id, ?_⟩
      · rintro ⟨h1, h2, h3, h4, h5, h6⟩
        refine ⟨h1, h2, h3, h4, ?_, h6⟩
        change (insertOrder _ _).length ≤ 40
        rw [length_insertOrder]
        have : (s.roster.filter (fun x => x.tag != o.tag)).length < s.roster.length := by
          refine List.length_filter_lt_length_iff_exists.mpr ⟨o, hmem, ?_⟩
          simp
        omega
      · rintro ⟨h1, h2⟩
        refine ⟨insertOrder_sorted _ (h1.filter _), insertOrder_tags _ (h2.filter _) (fun x hx => ?_)⟩
        have := (List.mem_filter.mp hx).2
        simp only [bne_iff_ne, ne_eq] at this
        simpa [amendedRecord, ht] using this
  unfold State.amendFields
  dsimp only
  split
  · exact base.trans (State.updBay_lawful _ _ _)
  · exact base

theorem State.rebind_lawful (s : State) (tag : Nat) : Lawful s (s.rebind tag) := by
  unfold State.rebind
  split
  · exact .refl s
  · split
    · dsimp only
      refine Lawful.trans ?_ (State.bindingCheckOrder_lawful _ _)
      refine Lawful.trans ?_ (State.leaveEligibility_lawful _ _ _)
      exact (s.unbindOrder_lawful tag).trans (State.unbindBay_lawful _ _)
    · exact s.bindingCheckOrder_lawful tag

theorem State.amendOrder_lawful (s : State) {o o' : Order} {toNone : Bool} (h : s.order? o.tag = some o)
    (ht : o'.tag = o.tag) : Lawful s (s.amendOrder o o' toNone) := by
  unfold State.amendOrder
  dsimp only
  split
  · exact s.amendFields_lawful h ht
  · exact (s.amendFields_lawful h ht).trans (State.rebind_lawful _ _)

theorem amended_tag {o o' : Order} {set : Byte} {f : OrderFields} (h : amended o set f = some o') : o'.tag = o.tag := by
  unfold amended at h
  split at h
  · simp only [Option.ite_none_right_eq_some, Option.some.injEq] at h
    rw [← h.2]
  · exact absurd h (by simp)

theorem amendOrderOwner_lawful (body : List Byte) (s : State) : Lawful s (amendOrderOwner body s).1 := by
  unfold amendOrderOwner
  split
  · split
    · split
      · exact .refl s
      case h_2 o ho =>
        split
        · exact .refl s
        · split
          · exact .refl s
          case h_2 o' ho' =>
            split
            · have e := s.tag_of_order? ho
              rw [← e] at ho
              exact (s.amendOrder_lawful ho (amended_tag ho')).trans (State.settle_lawful _)
            · exact .refl s
    · exact .refl s
  · exact .refl s

theorem State.cancelOrder_lawful (s : State) (o : Order) : Lawful s (s.cancelOrder o) := by
  have h : ∀ b, Lawful s (s.cancelBound o.tag b) := by
    intro b
    unfold State.cancelBound
    dsimp only
    refine Lawful.trans ?_ (State.decreaseDone_lawful _ b)
    refine Lawful.trans ?_ (State.leaveEligibility_lawful _ _ b)
    exact s.updOrder_lawful _ _ (fun _ => rfl) (fun _ => rfl)
  unfold State.cancelOrder
  split <;> first
    | exact s.closeOrder_lawful _ _
    | exact h _
    | exact .refl s

theorem cancelOrderOwner_lawful (body : List Byte) (s : State) : Lawful s (cancelOrderOwner body s).1 := by
  unfold cancelOrderOwner
  split
  · split
    · exact .refl s
    · split
      · exact .refl s
      · exact (s.cancelOrder_lawful _).trans (State.settle_lawful _)
  · exact .refl s

theorem State.handUnlock_lawful (s : State) (b : BayNo) : Lawful s (s.handUnlock b) := by
  unfold State.handUnlock
  split
  · exact .refl s
  · exact .of_same rfl

theorem State.releaseVan_lawful (s : State) (tag : Nat) (b : BayNo) : Lawful s (s.releaseVan tag b) := by
  unfold State.releaseVan
  dsimp only
  refine Lawful.trans ?_ (State.handUnlock_lawful _ b)
  refine Lawful.trans ?_ (State.leaveEligibility_lawful _ _ b)
  exact s.updOrder_lawful _ _ (fun _ => rfl) (fun _ => rfl)

theorem releaseVanOwner_lawful (body : List Byte) (s : State) : Lawful s (releaseVanOwner body s).1 := by
  unfold releaseVanOwner
  split
  · split
    · exact .refl s
    · split
      · exact .refl s
      · exact .refl s
      · exact .refl s
      · split
        · exact .refl s
        · split
          · exact (s.releaseVan_lawful _ _).trans (State.settle_lawful _)
          · exact .refl s
  · exact .refl s

/-- R151 step 2: what moving the waiting line into the log makes: records enter while there is room, and orders are left
waiting only beside a full log. -/
theorem moveWaiting_laws (l : List Nat) (s : State) (hw : s.waitingLine = l) :
    (moveWaiting l s).pending = s.pending ∧ (moveWaiting l s).events = s.events ∧
      (moveWaiting l s).feeder = s.feeder ∧ (moveWaiting l s).inputs = s.inputs ∧ (moveWaiting l s).store = s.store ∧
      (s.log.length ≤ 32 → (moveWaiting l s).log.length ≤ 32 ∧
        ((moveWaiting l s).waitingLine ≠ [] → (moveWaiting l s).log.length = 32)) ∧
      (moveWaiting l s).roster.Sublist s.roster := by
  induction l generalizing s with
  | nil => exact ⟨rfl, rfl, rfl, rfl, rfl, fun hb => ⟨hb, fun h => absurd hw h⟩, .refl _⟩
  | cons tag rest ih =>
    unfold moveWaiting
    split
    case isTrue hl =>
      simp only [Config.logCapacity] at hl
      split
      case h_1 o ho =>
        obtain ⟨h1, h2, h3, h4, h5, h6, h7⟩ := ih (State.logOrder { s with waitingLine := rest } o) rfl
        refine ⟨h1, h2, h3, h4, h5, fun _ => h6 ?_, h7.trans List.filter_sublist⟩
        simp only [State.logOrder, State.refreshAttention, List.length_append, List.length_singleton]
        omega
      case h_2 =>
        obtain ⟨h1, h2, h3, h4, h5, h6, h7⟩ := ih { s with waitingLine := rest } rfl
        exact ⟨h1, h2, h3, h4, h5, h6, h7⟩
    case isFalse hl =>
      simp only [Config.logCapacity] at hl
      exact ⟨rfl, rfl, rfl, rfl, rfl, fun hb => ⟨hb, fun _ => by omega⟩, .refl _⟩

/-- R151: TakeCompletions. -/
theorem State.takeCompletions_lawful (s : State) : Lawful s s.takeCompletions := by
  obtain ⟨h1, h2, h3, h4, h5, h6, h7⟩ := moveWaiting_laws s.waitingLine { s with log := s.log.drop 4 } rfl
  unfold State.takeCompletions
  dsimp only
  refine ⟨h1, ?_, fun _ => ⟨rfl, rfl, rfl⟩, ?_, ?_, ?_, ?_⟩
  · rintro ⟨a, b, c, d, e, g⟩
    obtain ⟨k1, k2⟩ := h6 (by simp only [List.length_drop]; omega)
    refine ⟨?_, ?_, k1, k2, le_trans h7.length_le e, ?_⟩
    · simp only [State.refreshAttention_events, h2]
      exact a
    · simp only [State.refreshAttention_events, h2]
      exact b
    · simp only [State.refreshAttention_feeder, h3]
      exact g
  · intro h
    simp only [State.ceilingRight, State.cfg, State.refreshAttention_feeder, State.refreshAttention_store, h3, h5]
    exact h
  · rintro ⟨a, b⟩
    have hr : ∀ r, (State.refreshAttention (moveWaiting s.waitingLine { s with log := s.log.drop 4 })).roleInForce r =
        s.roleInForce r := fun r => State.roleInForce_congr h4 h5 r
    refine ⟨?_, ?_⟩
    · rw [hr]
      simp only [State.refreshAttention_feeder, h3]
      exact a
    · rw [hr]
      simp only [State.refreshAttention_feeder, h3]
      exact b
  · intro h
    simp only [State.tariffInOrder, State.refreshAttention_feeder, h3]
    exact h
  · rintro ⟨a, b⟩
    exact ⟨a.sublist h7, b.sublist h7⟩

theorem takeCompletionsOwner_lawful (body : List Byte) (s : State) : Lawful s (takeCompletionsOwner body s).1 := by
  unfold takeCompletionsOwner
  split
  · exact s.takeCompletions_lawful
  · exact .refl s

theorem reallocateOwner_lawful (body : List Byte) (s : State) : Lawful s (reallocateOwner body s).1 := by
  unfold reallocateOwner
  split
  · split
    · refine Lawful.trans ?_ (State.settle_lawful _)
      exact s.round_lawful.trans (State.startRoundTimer_lawful _)
    · exact .refl s
  · exact .refl s

/-! ### Site -/

theorem setCeilingOwner_lawful (body : List Byte) (s : State) : Lawful s (setCeilingOwner body s).1 := by
  unfold setCeilingOwner
  split
  · split
    · refine Lawful.trans ?_ (State.settle_lawful _)
      exact s.recompute_after _ rfl rfl rfl
    · exact .refl s
  · exact .refl s

/-- Every law but the one of the effective ceiling is kept. -/
structure BarCeiling (s t : State) : Prop where
  pending : t.pending = s.pending
  bounded : s.collectionsBounded → t.collectionsBounded
  attention : s.attentionRight → t.attentionRight
  conditions : s.conditionsRight → t.conditionsRight
  tariff : s.tariffInOrder → t.tariffInOrder
  roster : s.rosterInOrder → t.rosterInOrder

theorem Lawful.barCeiling {s t : State} (h : Lawful s t) : BarCeiling s t :=
  ⟨h.pending, h.bounded, h.attention, h.conditions, h.tariff, h.roster⟩

theorem BarCeiling.trans {s t u : State} (h : BarCeiling s t) (k : BarCeiling t u) : BarCeiling s u :=
  ⟨k.pending.trans h.pending, fun x => k.bounded (h.bounded x), fun x => k.attention (h.attention x),
    fun x => k.conditions (h.conditions x), fun x => k.tariff (h.tariff x), fun x => k.roster (h.roster x)⟩

/-- Feeder fields other than the tariff list and the two conditions. -/
theorem State.feeder_barCeiling (s : State) (f : Feeder) (h1 : f.tariff = s.feeder.tariff)
    (h2 : f.stop = s.feeder.stop) (h3 : f.derate = s.feeder.derate) : BarCeiling s { s with feeder := f } := by
  refine ⟨rfl, ?_, id, ?_, ?_, id⟩
  · rintro ⟨a, b, c, d, e, g⟩
    exact ⟨a, b, c, d, e, by simpa only [h1] using g⟩
  · rintro ⟨a, b⟩
    exact ⟨h2.trans a, h3.trans b⟩
  · intro h
    simpa only [State.tariffInOrder, h1] using h

/-- R80: a recomputation makes the effective ceiling right, whatever came before. -/
theorem BarCeiling.recompute {s t : State} (h : BarCeiling s t) : Lawful s t.recomputeCeiling := by
  have k := h.trans t.recomputeCeiling_lawful.barCeiling
  refine ⟨k.pending, k.bounded, k.attention, fun _ => ?_, k.conditions, k.tariff, k.roster⟩
  obtain ⟨e1, -, e3⟩ := t.recomputeCeiling_feeder
  change t.recomputeCeiling.feeder.effective = ceilingOf t.recomputeCeiling.feeder t.recomputeCeiling.store.working
  rw [e1, e3]
  rfl

theorem State.flagEvent_lawful (s : State) (k : EventKind) (old new : Bool) : Lawful s (s.flagEvent k old new) := by
  unfold State.flagEvent
  split
  · exact .refl s
  · exact s.append_lawful _ _ _

theorem State.meterArrives_barCeiling (s : State) (load : Nat) : BarCeiling s (s.meterArrives load) := by
  have h := s.feeder_barCeiling
    { s.feeder with load := load, stale := false, staleTimer := some (s.elapsed + Config.staleTime) } rfl rfl rfl
  unfold State.meterArrives
  dsimp only
  split
  · exact h.trans (State.append_lawful _ _ _ _).barCeiling
  · exact h

theorem State.evaluateMeter_barCeiling (s : State) (load : Nat) : BarCeiling s (s.evaluateMeter load) := by
  unfold State.evaluateMeter
  refine BarCeiling.trans ?_ (State.flagEvent_lawful _ _ _ _).barCeiling
  refine BarCeiling.trans ?_ (State.flagEvent_lawful _ _ _ _).barCeiling
  exact s.feeder_barCeiling _ rfl rfl rfl

/-- R65: an accepted report is lawful: its last step recomputes the effective ceiling. -/
theorem State.reportMeter_lawful (s : State) (load : Nat) : Lawful s (s.reportMeter load) := by
  unfold State.reportMeter
  refine BarCeiling.recompute ?_
  refine BarCeiling.trans ?_ (State.feeder_barCeiling _ _ rfl rfl rfl)
  exact (s.meterArrives_barCeiling load).trans (State.evaluateMeter_barCeiling _ load)

theorem reportMeterOwner_lawful (body : List Byte) (s : State) : Lawful s (reportMeterOwner body s).1 := by
  unfold reportMeterOwner
  split
  · split
    · exact (s.reportMeter_lawful _).trans (State.settle_lawful _)
    · exact .refl s
  · exact .refl s

/-! #### SetTariff (R72) -/

theorem insertWindow_perm (w : Window) (l : List Window) : (insertWindow w l).Perm (w :: l) := by
  induction l with
  | nil => exact .refl _
  | cons x xs ih =>
    unfold insertWindow
    split
    · exact .refl _
    · exact (ih.cons x).trans (.swap w x xs)

theorem sortWindows_perm (l : List Window) : (sortWindows l).Perm l := by
  induction l with
  | nil => exact .refl _
  | cons x xs ih => exact (insertWindow_perm x _).trans (ih.cons x)

theorem windows?_length {n : Nat} {bytes : List Byte} {ws : List Window} (h : windows? n bytes = some ws) :
    ws.length = n := by
  induction n generalizing bytes ws with
  | zero =>
    simp only [windows?, Option.some.injEq] at h
    rw [← h]
    rfl
  | succ n ih =>
    unfold windows? at h
    split at h
    · rename_i h1 h2
      simp only [Option.some.injEq] at h
      rw [← h, List.length_cons, ih h2]
    · exact absurd h (by simp)

theorem window?_start {bytes : List Byte} {w : Window} (h : window? bytes = some w) : w.start < w.stop := by
  unfold window? at h
  split at h
  · split at h
    · split at h
      · simp only [Option.some.injEq] at h
        rw [← h]
        assumption
      · exact absurd h (by simp)
    · exact absurd h (by simp)
  · exact absurd h (by simp)

theorem windows?_start {n : Nat} {bytes : List Byte} {ws : List Window} (h : windows? n bytes = some ws) :
    ∀ w ∈ ws, w.start < w.stop := by
  induction n generalizing bytes ws with
  | zero =>
    simp only [windows?, Option.some.injEq] at h
    rw [← h]
    simp
  | succ n ih =>
    unfold windows? at h
    split at h
    · rename_i h1 h2
      simp only [Option.some.injEq] at h
      rw [← h]
      intro w hw
      rcases List.mem_cons.mp hw with rfl | hw
      · exact window?_start h1
      · exact ih h2 w hw
    · exact absurd h (by simp)

theorem noOverlap_pairwise {l : List Window} (h : noOverlap l = true) : l.Pairwise (fun v w => v.overlaps w = false) := by
  induction l with
  | nil => exact .nil
  | cons x xs ih =>
    simp only [noOverlap, Bool.and_eq_true, List.all_eq_true, Bool.not_eq_true'] at h
    exact List.pairwise_cons.mpr ⟨h.1, ih h.2⟩

/-- R71, R72: windows that start before they end and do not overlap, put in by start, are in order. -/
theorem insertWindow_ordered (w : Window) {l : List Window} (hw : w.start < w.stop) (hl : ∀ v ∈ l, v.start < v.stop)
    (ho : ∀ v ∈ l, w.overlaps v = false) (h : l.Pairwise (fun a b => a.stop ≤ b.start)) :
    (insertWindow w l).Pairwise (fun a b => a.stop ≤ b.start) := by
  induction h with
  | nil => exact List.pairwise_singleton _ _
  | cons h1 h2 ih =>
    rename_i x xs
    have hx := ho x List.mem_cons_self
    have hxs := hl x List.mem_cons_self
    simp only [Window.overlaps, Bool.and_eq_false_iff, decide_eq_false_iff_not, not_lt] at hx
    unfold insertWindow
    split
    case isTrue e =>
      refine List.pairwise_cons.mpr ⟨fun y hy => ?_, List.pairwise_cons.mpr ⟨h1, h2⟩⟩
      have hwx : w.stop ≤ x.start := by omega
      rcases List.mem_cons.mp hy with rfl | hy
      · exact hwx
      · have := h1 y hy
        omega
    case isFalse e =>
      have ih' := ih (fun v hv => hl v (List.mem_cons_of_mem _ hv)) (fun v hv => ho v (List.mem_cons_of_mem _ hv))
      refine List.pairwise_cons.mpr ⟨fun y hy => ?_, ih'⟩
      rcases List.mem_cons.mp ((insertWindow_perm w xs).mem_iff.mp hy) with rfl | hy
      · omega
      · exact h1 y hy

theorem sortWindows_ordered {l : List Window} (hl : ∀ w ∈ l, w.start < w.stop) (ho : noOverlap l = true) :
    (sortWindows l).Pairwise (fun a b => a.stop ≤ b.start) := by
  induction l with
  | nil => exact .nil
  | cons x xs ih =>
    have h := noOverlap_pairwise ho
    simp only [noOverlap, Bool.and_eq_true] at ho
    rw [List.pairwise_cons] at h
    refine insertWindow_ordered x (hl x List.mem_cons_self) (fun v hv => ?_) (fun v hv => ?_)
      (ih (fun w hw => hl w (List.mem_cons_of_mem _ hw)) ho.2)
    · exact hl v (List.mem_cons_of_mem _ ((sortWindows_perm xs).mem_iff.mp hv))
    · exact h.1 v ((sortWindows_perm xs).mem_iff.mp hv)

theorem setTariffOwner_lawful (body : List Byte) (s : State) : Lawful s (setTariffOwner body s).1 := by
  unfold setTariffOwner
  split
  · split
    · split
      · split
        case isTrue h3 =>
          rename_i n rest h1 _ ws h2
          refine ⟨rfl, ?_, id, id, id, ?_, id⟩
          · rintro ⟨a, b, c, d, e, g⟩
            refine ⟨a, b, c, d, e, ?_⟩
            change (sortWindows ws).length ≤ 8
            rw [(sortWindows_perm ws).length_eq, windows?_length h2]
            exact h1.1
          · intro _
            have hs := windows?_start h2
            exact ⟨fun w hw => hs w ((sortWindows_perm ws).mem_iff.mp hw), sortWindows_ordered hs h3⟩
        case isFalse => exact .refl s
      · exact .refl s
    · exact .refl s
  · exact .refl s

/-! ### Service -/

theorem holdDepotOwner_lawful (body : List Byte) (s : State) : Lawful s (holdDepotOwner body s).1 := by
  have h : Lawful s s.holdDepot := by
    unfold State.holdDepot
    split
    · refine Lawful.trans ?_ (State.settle_lawful _)
      refine Lawful.trans ?_ (State.heldCheck_lawful _)
      exact s.recompute_after _ rfl rfl rfl
    · exact .refl s
  unfold holdDepotOwner
  split
  · exact h
  · exact .refl s

theorem resumeDepotOwner_lawful (body : List Byte) (s : State) : Lawful s (resumeDepotOwner body s).1 := by
  have h : Lawful s s.resumeDepot := by
    unfold State.resumeDepot
    split
    · exact .refl s
    · dsimp only
      refine Lawful.trans ?_ (State.settle_lawful _)
      have hr : Lawful s (State.recomputeCeiling { s with feeder := { s.feeder with hold := .running } }) :=
        s.recompute_after _ rfl rfl rfl
      split
      · exact (hr.trans (State.round_lawful _)).trans (State.startRoundTimer_lawful _)
      · exact hr
  unfold resumeDepotOwner
  split
  · exact h
  · exact .refl s

theorem State.clearFeederLatch_lawful (s : State) : Lawful s s.clearFeederLatch := by
  unfold State.clearFeederLatch
  dsimp only
  have h : Lawful s { s with feeder := { s.feeder with
      warnFlag := s.feeder.warnFlag && s.feeder.warnCond, alarmFlag := s.feeder.alarmFlag && s.feeder.alarmCond } } :=
    s.feeder_lawful _ rfl rfl rfl rfl rfl
  revert h
  generalize ({ s with feeder := { s.feeder with
      warnFlag := s.feeder.warnFlag && s.feeder.warnCond,
      alarmFlag := s.feeder.alarmFlag && s.feeder.alarmCond } } : State) = t
  intro h
  have h2 : Lawful s (if s.feeder.warnFlag = (s.feeder.warnFlag && s.feeder.warnCond) then t
      else t.append .feederWarn none .cleared) := by
    split
    · exact h
    · exact h.trans (t.append_lawful _ _ _)
  revert h2
  generalize (if s.feeder.warnFlag = (s.feeder.warnFlag && s.feeder.warnCond) then t
      else t.append .feederWarn none .cleared) = u
  intro h2
  split
  · exact h2
  · exact h2.trans (u.append_lawful _ _ _)

theorem clearLatchOwner_lawful (body : List Byte) (s : State) : Lawful s (clearLatchOwner body s).1 := by
  unfold clearLatchOwner
  split
  · split
    · exact s.clearFeederLatch_lawful
    · split
      · split
        · exact .refl s
        · exact (s.clearInputLatch_lawful _).trans (State.settle_lawful _)
      · exact .refl s
  · exact .refl s

theorem clearBayOwner_lawful (body : List Byte) (s : State) : Lawful s (clearBayOwner body s).1 := by
  unfold clearBayOwner
  split
  · split
    · exact (s.clearBay_lawful _).trans (State.settle_lawful _)
    · exact .refl s
  · exact .refl s

theorem State.retryAdmission_lawful (s : State) (b : BayNo) : Lawful s (s.retryAdmission b) := s.updBay_lawful b _

theorem State.setOverride_lawful (s : State) (b : BayNo) (o : Override) : Lawful s (s.setOverride b o) :=
  s.updBay_lawful b _

theorem retryAdmissionOwner_lawful (body : List Byte) (s : State) : Lawful s (retryAdmissionOwner body s).1 := by
  unfold retryAdmissionOwner
  split
  · split
    · split
      · exact s.retryAdmission_lawful _
      · exact .refl s
    · exact .refl s
  · exact .refl s

theorem setOverrideOwner_lawful (body : List Byte) (s : State) : Lawful s (setOverrideOwner body s).1 := by
  unfold setOverrideOwner
  split
  · split
    · exact s.setOverride_lawful _ _
    · exact .refl s
  · exact .refl s

theorem Settings.writeTable_same (w : Settings) (rate : Bool) (i : Fin 41) (v : Nat) :
    (w.writeTable rate i v).safeCeiling = w.safeCeiling ∧ (w.writeTable rate i v).derateCeiling = w.derateCeiling ∧
      (w.writeTable rate i v).inputs = w.inputs := by
  unfold Settings.writeTable
  split <;> exact ⟨rfl, rfl, rfl⟩

theorem writeTableOwner_lawful (body : List Byte) (s : State) : Lawful s (writeTableOwner body s).1 := by
  have h : ∀ rate i v, Lawful s (s.withWorking (s.cfg.writeTable rate i v)) := by
    intro rate i v
    obtain ⟨h1, h2, h3⟩ := s.cfg.writeTable_same rate i v
    exact s.withWorking_lawful _ h1 h2 (fun y => by simp only [h3]; rfl)
  unfold writeTableOwner
  split
  · split
    · split
      · split
        · split
          · exact .refl s
          · exact h _ _ _
        · exact .refl s
      · exact .refl s
    · exact .refl s
  · exact .refl s

/-- A value read for an input setting is an input configuration. -/
theorem settingValue?_input {id : SettingId} {a b c d : Byte} {v : SettingValue}
    (h : settingValue? id a b c d = some v) (y : InputNo) (e : id = .input y) : ∃ k, v = .input k := by
  subst e
  simp only [settingValue?, Option.map_eq_some_iff] at h
  obtain ⟨k, -, hk⟩ := h
  exact ⟨k, hk.symm⟩

theorem writeSettingOwner_lawful (body : List Byte) (s : State) : Lawful s (writeSettingOwner body s).1 := by
  unfold writeSettingOwner
  split
  · split
    · split
      · split
        · exact .refl s
        · rename_i hv _
          exact (s.applySetting_lawful _ _ (settingValue?_input hv)).trans (State.settle_lawful _)
      · exact .refl s
    · exact .refl s
  · exact .refl s

theorem storeSettingsOwner_lawful (body : List Byte) (s : State) : Lawful s (storeSettingsOwner body s).1 := by
  unfold storeSettingsOwner
  split
  · split
    · exact .refl s
    · exact s.beginCommit_lawful
  · exact .refl s

theorem restartOwner_state (body : List Byte) (s : State) : (restartOwner body s).1 = s := by
  unfold restartOwner
  split <;> rfl

/-! ### Timers -/

theorem State.meterStale_lawful (s : State) : Lawful s s.meterStale := by
  unfold State.meterStale
  refine BarCeiling.recompute ?_
  refine BarCeiling.trans ?_ (State.append_lawful _ _ _ _).barCeiling
  exact s.feeder_barCeiling _ rfl rfl rfl

/-! ### Ports -/

theorem State.dropFrame_lawful (s : State) (p : Port) : Lawful s (s.dropFrame p) := by
  unfold State.dropFrame
  split
  · exact .refl s
  all_goals exact s.withSlot_lawful p _

theorem State.listenByte_lawful (s : State) (p : Port) (b : Byte) : Lawful s (s.listenByte p b) := by
  unfold State.listenByte
  split
  · split
    · exact s.withSlot_lawful p _
    · exact .refl s
  all_goals exact .refl s

end Sys2Proof.Machine
end

