-- ==== Sys2Proof/Laws/Exposure.lean ====
section
/-! SUPPORT. No operation of the device raises an exposure but the sending of a Grant and a status that reports more
output than the held grant (R132, R137, R141). -/

namespace Sys2Proof.Machine

/-- From one state to another no bay's exposure rises. -/
structure NoRise (s t : State) : Prop where
  le : ∀ b, (t.lineBay b).exposure ≤ (s.lineBay b).exposure

theorem NoRise.refl (s : State) : NoRise s s := ⟨fun _ => Nat.le_refl _⟩

theorem NoRise.trans {s t u : State} (h : NoRise s t) (k : NoRise t u) : NoRise s u :=
  ⟨fun b => Nat.le_trans (k.le b) (h.le b)⟩

theorem NoRise.foldl {α : Type} {f : State → α → State} (h : ∀ s x, NoRise s (f s x)) (l : List α) (s : State) :
    NoRise s (l.foldl f s) := by
  induction l generalizing s with
  | nil => exact .refl s
  | cons x xs ih => exact (h s x).trans (ih (f s x))

/-- An update that leaves the line records alone raises no exposure. -/
theorem NoRise.of_same {s t : State} (h : t.line.bays = s.line.bays) : NoRise s t := by
  refine ⟨fun b => ?_⟩
  unfold State.lineBay
  rw [h]

/-- A line record whose held grant and open exchange are the same has the same exposure. -/
theorem LineBay.exposure_le {l k : LineBay} (h : k.held ≤ l.held) (o : k.opn = l.opn) : k.exposure ≤ l.exposure := by
  unfold LineBay.exposure LineBay.openGrant
  rw [o]
  exact max_le_max h (Nat.le_refl _)

/-- A line record with a lower held grant and nothing open has no larger exposure. -/
theorem LineBay.exposure_closed {l k : LineBay} (h : k.held ≤ l.exposure) (o : k.opn = none) :
    k.exposure ≤ l.exposure := by
  have : k.openGrant = 0 := by unfold LineBay.openGrant; rw [o]
  unfold LineBay.exposure at h ⊢
  rw [this]
  omega

theorem State.updLineBay_norise_at (s : State) (b : BayNo) (f : LineBay → LineBay)
    (h : (f (s.lineBay b)).exposure ≤ (s.lineBay b).exposure) : NoRise s (s.updLineBay b f) := by
  refine ⟨fun c => ?_⟩
  by_cases hc : c = b
  · subst hc
    rw [State.lineBay_updLineBay]
    exact h
  · rw [State.lineBay_updLineBay_ne _ _ hc]

theorem State.updLineBay_norise (s : State) (b : BayNo) (f : LineBay → LineBay)
    (h : ∀ l, (f l).exposure ≤ l.exposure) : NoRise s (s.updLineBay b f) := s.updLineBay_norise_at b f (h _)

theorem State.line_norise (s : State) (l : LineCtl) (h : l.bays = s.line.bays) : NoRise s { s with line := l } :=
  .of_same h
theorem State.updBay_norise (s : State) (b : BayNo) (f : BayRec → BayRec) : NoRise s (s.updBay b f) := .of_same rfl
theorem State.withTarget_norise (s : State) (b : BayNo) (v : Nat) : NoRise s (s.withTarget b v) := .of_same rfl
theorem State.withCap_norise (s : State) (b : BayNo) (v : Nat) : NoRise s (s.withCap b v) := .of_same rfl
theorem State.withLimit_norise (s : State) (b : BayNo) (v : Option Nat) : NoRise s (s.withLimit b v) := .of_same rfl
theorem State.runTo_norise (s : State) (t : Nat) : NoRise s (s.runTo t) := .of_same rfl
theorem State.freeLine_norise (s : State) : NoRise s s.freeLine := .of_same rfl
theorem State.carry_norise (s : State) (b : BayNo) (x : Exchange) (r : Bool) : NoRise s (s.carry b x r) := .of_same rfl
theorem State.startRoundTimer_norise (s : State) : NoRise s s.startRoundTimer := .of_same rfl
theorem State.withSlot_norise (s : State) (p : Port) (x : Slot) : NoRise s (s.withSlot p x) := by
  cases p <;> exact .of_same rfl
theorem State.refreshAttention_norise (s : State) : NoRise s s.refreshAttention := .of_same rfl
theorem State.updOrder_norise (s : State) (tag : Nat) (f : Order → Order) : NoRise s (s.updOrder tag f) := .of_same rfl
theorem State.updInput_norise (s : State) (y : InputNo) (f : InputState → InputState) : NoRise s (s.updInput y f) :=
  .of_same rfl
theorem State.append_norise (s : State) (k : EventKind) (x : Option Subject) (e : Edge) : NoRise s (s.append k x e) := by
  unfold State.append
  split <;> exact .of_same rfl

/-! ### Between rounds -/

theorem State.reconcile_norise (s : State) (b : BayNo) : NoRise s (s.reconcile b) := by
  unfold State.reconcile
  dsimp only
  split
  · split
    · exact s.updLineBay_norise b _ (fun _ => LineBay.exposure_le (Nat.le_refl _) rfl)
    · split
      · exact s.updLineBay_norise b _ (fun _ => LineBay.exposure_le (Nat.le_refl _) rfl)
      · exact NoRise.trans (s.updLineBay_norise b (fun l => { l with pGrant := some ⟨s.target b, s.line.nextAge⟩ })
          (fun _ => LineBay.exposure_le (Nat.le_refl _) rfl)) (NoRise.of_same rfl)
  · exact .refl s

theorem State.setTarget_norise (s : State) (b : BayNo) (v : Nat) : NoRise s (s.setTarget b v) := by
  unfold State.setTarget
  split
  · exact .refl s
  · exact (s.withTarget_norise b v).trans (State.reconcile_norise _ b)

theorem State.trimBay_norise (s : State) (b : BayNo) : NoRise s (s.trimBay b) := by
  unfold State.trimBay
  split
  · exact .refl s
  · exact s.setTarget_norise b _

theorem State.trimCheck_norise (s : State) : NoRise s s.trimCheck := .foldl State.trimBay_norise _ s

theorem State.leaveEligibility_norise (s : State) (was : Bool) (b : BayNo) : NoRise s (s.leaveEligibility was b) := by
  unfold State.leaveEligibility
  split
  · exact (s.setTarget_norise b 0).trans (State.trimCheck_norise _)
  · exact .refl s

theorem State.heldCheck_norise (s : State) : NoRise s s.heldCheck := by
  unfold State.heldCheck
  split
  · refine NoRise.trans ?_ (State.append_norise _ _ _ _)
    exact .of_same rfl
  · exact .of_same rfl
  · exact .refl s

theorem State.noteExposure_norise (s : State) (b : BayNo) (before : Nat) : NoRise s (s.noteExposure b before) := by
  unfold State.noteExposure
  dsimp only
  split
  · exact .refl s
  · split
    · exact s.heldCheck_norise.trans (State.trimCheck_norise _)
    · exact s.heldCheck_norise

theorem State.refusedIncrease_norise (s : State) (b : BayNo) : NoRise s (s.refusedIncrease b) := by
  unfold State.refusedIncrease
  dsimp only
  split
  · exact (s.withLimit_norise b _).trans (State.setTarget_norise _ b _)
  · exact s.withLimit_norise b _

theorem State.recomputeCeiling_norise (s : State) : NoRise s s.recomputeCeiling := by
  unfold State.recomputeCeiling
  dsimp only
  split
  · refine NoRise.trans ?_ (State.trimCheck_norise _)
    exact .of_same rfl
  · exact .of_same rfl

/-! ### Roster unit -/

theorem State.logOrder_norise (s : State) (o : Order) : NoRise s (s.logOrder o) := .of_same rfl

theorem State.enterLog_norise (s : State) (o : Order) : NoRise s (s.enterLog o) := by
  unfold State.enterLog
  split <;> exact .of_same rfl

theorem State.closeOrder_norise (s : State) (tag : Nat) (out : CloseOutcome) : NoRise s (s.closeOrder tag out) := by
  unfold State.closeOrder
  split
  · exact .refl s
  case h_2 o h =>
    refine NoRise.trans ?_ (State.enterLog_norise _ _)
    refine NoRise.trans ?_ (State.append_norise _ _ _ _)
    exact .of_same rfl

theorem State.takeCounter_norise (s : State) (b : BayNo) (reading : Nat) : NoRise s (s.takeCounter b reading) := by
  unfold State.takeCounter
  split
  · exact .refl s
  · split
    · split
      · exact s.updOrder_norise _ _
      · refine NoRise.trans ?_ (State.updBay_norise _ b _)
        exact s.updOrder_norise _ _
    · exact .refl s

theorem State.withdrawWake_norise (s : State) (b : BayNo) : NoRise s (s.withdrawWake b) :=
  (s.updLineBay_norise b (fun l => { l with pWake := none })
    (fun _ => LineBay.exposure_le (Nat.le_refl _) rfl)).trans (State.updBay_norise _ b _)

theorem State.bind_norise (s : State) (b : BayNo) (tag : Nat) : NoRise s (s.bind b tag) :=
  (s.updBay_norise b _).trans (State.updOrder_norise _ tag _)

theorem State.bindingCheckOrder_norise (s : State) (tag : Nat) : NoRise s (s.bindingCheckOrder tag) := by
  unfold State.bindingCheckOrder
  split
  · exact .refl s
  · split
    · split
      · exact s.bind_norise _ tag
      · exact .foldl (fun t x => t.append_norise _ _ _) _ s
    · split
      · exact .refl s
      · exact s.bind_norise _ tag

theorem State.bindingCheckAdmission_norise (s : State) (b : BayNo) (key : Nat) :
    NoRise s (s.bindingCheckAdmission b key) := by
  unfold State.bindingCheckAdmission
  dsimp only
  split
  · exact (s.updBay_norise b _).trans (State.append_norise _ _ _ _)
  · split
    · exact s.bind_norise b _
    · exact (s.updBay_norise b _).trans (State.append_norise _ _ _ _)

theorem State.unbindOrder_norise (s : State) (tag : Nat) : NoRise s (s.unbindOrder tag) := by
  unfold State.unbindOrder
  split
  · exact .refl s
  · dsimp only
    split
    · refine NoRise.trans ?_ (State.append_norise _ _ _ _)
      exact s.updOrder_norise tag _
    · exact s.updOrder_norise tag _

theorem State.unbindBay_norise (s : State) (b : BayNo) : NoRise s (s.unbindBay b) := by
  unfold State.unbindBay
  split
  · exact s.updBay_norise b _
  · exact (s.updBay_norise b _).trans (State.withdrawWake_norise _ b)

theorem State.decreaseDone_norise (s : State) (b : BayNo) : NoRise s (s.decreaseDone b) := by
  unfold State.decreaseDone
  split
  · exact .refl s
  · split
    · exact (s.closeOrder_norise _ _).trans (State.unbindBay_norise _ b)
    · exact .refl s

/-! ### Bay unit -/

theorem State.attach_norise (s : State) (b : BayNo) : NoRise s (s.attach b) :=
  (s.updBay_norise b _).trans (State.append_norise _ _ _ _)

theorem State.plugOut_norise (s : State) (b : BayNo) : NoRise s (s.plugOut b) := by
  unfold State.plugOut
  dsimp only
  refine NoRise.trans ?_ (State.leaveEligibility_norise _ _ b)
  refine NoRise.trans ?_ (State.append_norise _ _ _ _)
  refine NoRise.trans ?_ (State.updBay_norise _ b _)
  split
  · exact s.closeOrder_norise _ _
  · exact .refl s

theorem State.plugOutFaulted_norise (s : State) (b : BayNo) (wasIn : Bool) : NoRise s (s.plugOutFaulted b wasIn) := by
  unfold State.plugOutFaulted
  split
  · exact ((s.closeOrder_norise _ _).trans (State.updBay_norise _ b _)).trans (State.append_norise _ _ _ _)
  · split
    · exact s.append_norise _ _ _
    · exact .refl s

theorem State.plugReaction_norise (s : State) (b : BayNo) (plugIn wasIn : Bool) :
    NoRise s (s.plugReaction b plugIn wasIn) := by
  unfold State.plugReaction
  split <;> first
    | exact s.updBay_norise b _
    | exact s.attach_norise b
    | exact .refl s
    | exact s.plugOut_norise b
    | exact s.plugOutFaulted_norise b wasIn

theorem State.bayTakesStatus_norise (s : State) (b : BayNo) (st : PostStatus) : NoRise s (s.bayTakesStatus b st) :=
  ((s.updBay_norise b _).trans (State.takeCounter_norise _ b _)).trans (State.plugReaction_norise _ b _ _)

theorem State.completeAdmission_norise (s : State) (b : BayNo) : NoRise s (s.completeAdmission b) := by
  unfold State.completeAdmission
  dsimp only
  split
  · exact (s.updBay_norise b _).trans (State.bindingCheckAdmission_norise _ b _)
  · exact s.updBay_norise b _

theorem State.admittingFrame_norise (s : State) (b : BayNo) (f : VanFrame) : NoRise s (s.admittingFrame b f) := by
  unfold State.admittingFrame
  split <;> first
    | exact s.updBay_norise b _
    | exact .refl s
    | exact s.completeAdmission_norise b

theorem State.identityConflict_norise (s : State) (b : BayNo) : NoRise s (s.identityConflict b) := by
  unfold State.identityConflict
  split
  · exact .refl s
  · exact (s.updBay_norise b _).trans (State.append_norise _ _ _ _)

theorem State.clearWakeFailed_norise (s : State) (b : BayNo) : NoRise s (s.clearWakeFailed b) := by
  unfold State.clearWakeFailed
  split
  · exact s.updOrder_norise _ _
  · exact .refl s

theorem State.countFrame_norise (s : State) (b : BayNo) : NoRise s (s.countFrame b) :=
  (s.updBay_norise b _).trans (State.clearWakeFailed_norise _ b)

theorem State.boundFrame_norise (s : State) (b : BayNo) (f : VanFrame) : NoRise s (s.boundFrame b f) := by
  unfold State.boundFrame
  split
  · split
    · exact (s.countFrame_norise b).trans (State.updBay_norise _ b _)
    · exact s.countFrame_norise b
    · exact s.countFrame_norise b
  · exact s.identityConflict_norise b

theorem State.returnToBound_norise (s : State) (b : BayNo) : NoRise s (s.returnToBound b) :=
  (((s.updBay_norise b _).trans (State.clearWakeFailed_norise _ b)).trans (State.withdrawWake_norise _ b)).trans
    (State.append_norise _ _ _ _)

theorem State.dormantFrame_norise (s : State) (b : BayNo) (f : VanFrame) : NoRise s (s.dormantFrame b f) := by
  unfold State.dormantFrame
  split
  · exact (s.returnToBound_norise b).trans (State.boundFrame_norise _ b f)
  · exact s.identityConflict_norise b

theorem State.wakingFrame_norise (s : State) (b : BayNo) (f : VanFrame) : NoRise s (s.wakingFrame b f) := by
  unfold State.wakingFrame
  split
  · exact (s.returnToBound_norise b).trans (State.boundFrame_norise _ b _)
  · split
    · exact .refl s
    · exact s.identityConflict_norise b
  · exact .refl s

theorem State.takeFrame_norise (s : State) (b : BayNo) (f : VanFrame) : NoRise s (s.takeFrame b f) := by
  unfold State.takeFrame
  split
  · split
    all_goals first
      | exact .refl s
      | exact s.updBay_norise b _
      | exact s.admittingFrame_norise b _
      | exact s.boundFrame_norise b _
      | exact s.dormantFrame_norise b _
      | exact s.wakingFrame_norise b _
      | (split
         · exact s.updBay_norise b _
         · exact .refl s)
  · exact .refl s

theorem State.admissionTimeout_norise (s : State) (b : BayNo) : NoRise s (s.admissionTimeout b) :=
  (s.updBay_norise b _).trans (State.append_norise _ _ _ _)

theorem State.becomeDormant_norise (s : State) (b : BayNo) : NoRise s (s.becomeDormant b) :=
  ((s.updBay_norise b _).trans (State.append_norise _ _ _ _)).trans (State.leaveEligibility_norise _ _ b)

theorem State.wakeTryFailed_norise (s : State) (b : BayNo) : NoRise s (s.wakeTryFailed b) := by
  unfold State.wakeTryFailed
  split
  · exact .refl s
  · split
    · exact .refl s
    · split
      · exact s.updBay_norise b _
      · refine NoRise.trans ?_ (State.append_norise _ _ _ _)
        refine NoRise.trans ?_ (State.updOrder_norise _ _ _)
        exact s.updBay_norise b _
      · exact .refl s

theorem State.wakeWindowOver_norise (s : State) (b : BayNo) : NoRise s (s.wakeWindowOver b) :=
  (s.updBay_norise b _).trans (State.wakeTryFailed_norise _ b)

theorem State.faultReport_norise (s : State) (b : BayNo) : NoRise s (s.faultReport b) := by
  unfold State.faultReport
  split
  · exact .refl s
  · dsimp only
    refine NoRise.trans ?_ (State.heldCheck_norise _)
    refine NoRise.trans ?_ (State.leaveEligibility_norise _ _ b)
    split
    · split
      · exact ((s.updBay_norise b _).trans (State.closeOrder_norise _ _ _)).trans (State.updBay_norise _ b _)
      · exact s.updBay_norise b _
    · exact s.updBay_norise b _

theorem State.faultLimit_norise (s : State) (b : BayNo) : NoRise s (s.faultLimit b) :=
  ((s.append_norise _ _ _).trans (State.updLineBay_norise _ b
    (fun l => { l with pGrant := none, pWake := none, pUnlock := none, keepDue := none })
    (fun _ => LineBay.exposure_le (Nat.le_refl _) rfl))).trans (State.faultReport_norise _ b)

theorem State.clearLine_norise (s : State) (b : BayNo) : NoRise s (s.clearLine b) := by
  unfold State.clearLine
  dsimp only
  refine NoRise.trans ?_ (State.noteExposure_norise _ b _)
  have h : NoRise s (s.updLineBay b (fun _ => LineBay.reset)) :=
    s.updLineBay_norise b _ (fun _ => LineBay.exposure_closed (Nat.zero_le _) rfl)
  split
  · split
    · exact h.trans (.of_same rfl)
    · exact h
  · exact h

theorem State.clearBayOrder_norise (s : State) (b : BayNo) : NoRise s (s.clearBayOrder b) := by
  unfold State.clearBayOrder
  split
  · exact .refl s
  · split
    · exact s.closeOrder_norise _ _
    · exact (s.unbindOrder_norise _).trans (State.bindingCheckOrder_norise _ _)

theorem State.clearBay_norise (s : State) (b : BayNo) : NoRise s (s.clearBay b) :=
  ((((s.updBay_norise b _).trans (State.clearLine_norise _ b)).trans (State.clearBayOrder_norise _ b)).trans
    (State.leaveEligibility_norise _ _ b)).trans (State.updBay_norise _ b _)

/-! ### The Line controller: what sends nothing new -/

theorem LineBay.sent_exposure (l : LineBay) (x : Exchange) (now : Nat) : (l.sent x now).exposure = l.exposure := by
  cases x <;> rfl

theorem LineBay.sent_opn (l : LineBay) (x : Exchange) (now : Nat) : (l.sent x now).opn = l.opn := by
  cases x <;> rfl

theorem LineBay.sent_held (l : LineBay) (x : Exchange) (now : Nat) : (l.sent x now).held = l.held := by
  cases x <;> rfl

/-- The value an open exchange counts in the exposure (R132). -/
def OpenX.value (o : OpenX) : Nat :=
  match o.what with
  | .grant v => v
  | _ => 0

theorem LineBay.exposure_eq (l : LineBay) : l.exposure = max l.held ((l.opn.map OpenX.value).getD 0) := by
  unfold LineBay.exposure LineBay.openGrant
  rcases l.opn with _ | ⟨x, _, _, _⟩
  · rfl
  · cases x <;> rfl

/-- An update of the open exchange that keeps its content keeps the exposure. -/
theorem LineBay.exposure_what {l k : LineBay} (h : k.held = l.held)
    (o : k.opn.map OpenX.what = l.opn.map OpenX.what) : k.exposure ≤ l.exposure := by
  have : k.opn.map OpenX.value = l.opn.map OpenX.value := by
    rcases hk : k.opn with _ | a <;> rcases hl : l.opn with _ | b <;> rw [hk, hl] at o <;> simp at o
    · simp [OpenX.value, o]
  rw [LineBay.exposure_eq, LineBay.exposure_eq, h, this]

theorem State.repeatSending_norise (s : State) (b : BayNo) (x : Exchange) : NoRise s (s.repeatSending b x) :=
  (s.updLineBay_norise b (fun l => { l.sent x s.elapsed with opn := l.opn.map (fun o => { o with sentAt := s.elapsed }) })
    (fun l => LineBay.exposure_what (l.sent_held x s.elapsed) (by cases h : l.opn <;> rfl))).trans
    (State.carry_norise _ b x true)

theorem State.count_norise (s : State) (b : BayNo) (o : PostOutcome) : NoRise s (s.count b o) := by
  unfold State.count
  split
  · exact s.updLineBay_norise b _ (fun l => by cases o <;> exact LineBay.exposure_le (Nat.le_refl _) rfl)
  · exact .refl s

theorem State.endExchange_norise (s : State) (b : BayNo) : NoRise s (s.endExchange b) :=
  (s.updLineBay_norise b (fun l => { l with opn := none })
    (fun l => LineBay.exposure_closed (Nat.le_max_left l.held l.openGrant) rfl)).trans (State.freeLine_norise _)

/-- What a Grant's outcome leaves held was in the exposure before: the Grant is still open. -/
theorem State.grantHeld_norise (s : State) (b : BayNo) {v : Nat} {o : OpenX} (ho : (s.lineBay b).opn = some o)
    (hv : o.what = .grant v) (held : LineBay → Nat) (hh : held (s.lineBay b) ≤ max (s.lineBay b).held v) :
    NoRise s (s.updLineBay b (fun l => { l with held := held l })) := by
  refine ⟨fun c => ?_⟩
  by_cases hc : c = b
  · subst hc
    rw [State.lineBay_updLineBay]
    have h : (s.lineBay c).exposure = max (s.lineBay c).held v := by
      rw [LineBay.exposure_eq, ho]
      simp [OpenX.value, hv]
    have h' : ({ s.lineBay c with held := held (s.lineBay c) } : LineBay).exposure = max (held (s.lineBay c)) v := by
      rw [LineBay.exposure_eq]
      simp [ho, OpenX.value, hv]
    rw [h, h']
    omega
  · rw [State.lineBay_updLineBay_ne _ _ hc]

theorem State.endGrant_norise (s : State) (b : BayNo) (before : Nat) : NoRise s (s.endGrant b before) :=
  ((s.updLineBay_norise b (fun l => { l with increase := false }) (fun _ => LineBay.exposure_le (Nat.le_refl _) rfl)).trans
    (State.endExchange_norise _ b)).trans (State.noteExposure_norise _ b before)

theorem State.finishGrant_norise (s : State) (b : BayNo) {v : Nat} {x : OpenX} (hx : (s.lineBay b).opn = some x)
    (hv : x.what = .grant v) (sentAt : Nat) (o : PostOutcome) : NoRise s (s.finishGrant b v sentAt o) := by
  have h : NoRise s ((s.updLineBay b (fun l => { l with held := if o = .accept then v else l.held })).count b o) :=
    NoRise.trans (s.grantHeld_norise b hx hv (fun l => if o = .accept then v else l.held) (by split <;> omega))
      (State.count_norise _ b o)
  unfold State.finishGrant
  dsimp only
  revert h
  generalize (s.updLineBay b (fun l => { l with held := if o = .accept then v else l.held })).count b o = s1
  intro h
  generalize ((s.lineBay b).increase && o == .refuse) = up
  generalize s.exposure b = before
  have h2 : NoRise s ((if s1.atFaultLimit b then s1.faultLimit b else s1).endGrant b before) := by
    refine NoRise.trans ?_ (State.endGrant_norise _ b before)
    split
    · exact h.trans (State.faultLimit_norise s1 b)
    · exact h
  revert h2
  generalize (if s1.atFaultLimit b then s1.faultLimit b else s1).endGrant b before = s2
  intro h2
  have h3 : NoRise s (if up then s2.refusedIncrease b else s2) := by
    split
    · exact h2.trans (State.refusedIncrease_norise _ b)
    · exact h2
  revert h3
  generalize (if up then s2.refusedIncrease b else s2) = s3
  intro h3
  split
  · exact h3
  · refine NoRise.trans ?_ (State.reconcile_norise _ b)
    refine NoRise.trans ?_ (State.decreaseDone_norise _ b)
    exact h3.trans (State.updLineBay_norise _ b _ (fun _ => LineBay.exposure_le (Nat.le_refl _) rfl))

theorem State.wakeAccepted_norise (s : State) (b : BayNo) (period : Nat) : NoRise s (s.wakeAccepted b period) := by
  unfold State.wakeAccepted
  dsimp only
  split
  · exact (s.updBay_norise b _).trans (State.updBay_norise _ b _)
  · exact s.updBay_norise b _

theorem State.wakeNotAccepted_norise (s : State) (b : BayNo) (period : Nat) : NoRise s (s.wakeNotAccepted b period) := by
  unfold State.wakeNotAccepted
  dsimp only
  split
  · exact (s.updBay_norise b _).trans (State.wakeTryFailed_norise _ b)
  · exact s.updBay_norise b _

theorem State.finishWake_norise (s : State) (b : BayNo) (period : Nat) (o : PostOutcome) :
    NoRise s (s.finishWake b period o) := by
  unfold State.finishWake
  dsimp only
  refine NoRise.trans ((s.endExchange_norise b).trans (State.count_norise _ b o)) ?_
  split
  · exact (State.updBay_norise _ b _).trans (State.faultLimit_norise _ b)
  · split
    · exact State.wakeAccepted_norise _ b period
    · exact State.wakeNotAccepted_norise _ b period
    · exact State.wakeNotAccepted_norise _ b period

theorem State.finishUnlock_norise (s : State) (b : BayNo) (age : Nat) (o : PostOutcome) :
    NoRise s (s.finishUnlock b age o) := by
  have h : NoRise s ((s.endExchange b).count b o) := (s.endExchange_norise b).trans (State.count_norise _ b o)
  have h' : NoRise s (if o = .accept then (s.endExchange b).count b o
      else ((s.endExchange b).count b o).updLineBay b (fun l => { l with pUnlock := some age })) := by
    split
    · exact h
    · exact h.trans (State.updLineBay_norise _ b _ (fun _ => LineBay.exposure_le (Nat.le_refl _) rfl))
  unfold State.finishUnlock
  dsimp only
  by_cases hf : State.atFaultLimit (if o = .accept then (s.endExchange b).count b o
      else ((s.endExchange b).count b o).updLineBay b (fun l => { l with pUnlock := some age })) b = true
  · rw [if_pos hf]
    exact h'.trans (State.faultLimit_norise _ b)
  · rw [if_neg hf]
    exact h'

theorem State.finishPoll_norise (s : State) (b : BayNo) (o : PostOutcome) : NoRise s (s.finishPoll b o) := by
  have h : NoRise s ((s.endExchange b).count b o) := (s.endExchange_norise b).trans (State.count_norise _ b o)
  unfold State.finishPoll
  dsimp only
  split
  · exact h.trans (State.faultLimit_norise _ b)
  · exact h

theorem State.finish_norise (s : State) (b : BayNo) (o : PostOutcome) : NoRise s (s.finish b o) := by
  unfold State.finish
  split
  · exact s.finishPoll_norise b o
  case h_2 h => exact s.finishGrant_norise b h rfl _ o
  · exact s.finishWake_norise b _ o
  · exact s.finishUnlock_norise b _ o
  · exact s.freeLine_norise

theorem State.windowOver_norise (s : State) : NoRise s s.windowOver := by
  unfold State.windowOver
  split
  · exact .refl s
  · split
    · exact s.freeLine_norise
    · split
      · exact s.finish_norise _ _
      · exact s.repeatSending_norise _ _

theorem State.runWindow_norise (s : State) : NoRise s s.runWindow := by
  unfold State.runWindow
  split
  · exact .refl s
  · exact (s.runTo_norise _).trans (State.windowOver_norise _)

theorem State.silence_norise (s : State) : NoRise s s.silence := by
  unfold State.silence
  split
  · split
    · exact s.runWindow_norise
    · exact s.runWindow_norise.trans (State.runWindow_norise _)
  · exact .refl s

/-- R127: an answer raises no exposure when what takes it raises none. -/
theorem State.answer_norise (s : State) {take : State → State} (h : NoRise s (take s)) : NoRise s (s.answer take) := by
  unfold State.answer
  split
  · split
    · exact s.freeLine_norise
    · exact h
  · exact .refl s

theorem State.takeOutcome_norise (s : State) (b : BayNo) (k : Exchange → Bool) (o : PostOutcome) :
    NoRise s (s.takeOutcome b k o) := by
  unfold State.takeOutcome
  split
  · split
    · exact s.silence_norise
    · exact s.answer_norise (s.finish_norise b _)
    · exact s.answer_norise (s.finish_norise b _)
  · exact .refl s

theorem State.defer_norise (s : State) (b : BayNo) {o : OpenX} (ho : (s.lineBay b).opn = some o) :
    NoRise s (s.defer b o) := by
  unfold State.defer
  dsimp only
  split
  · exact s.finish_norise b _
  · exact (s.updLineBay_norise_at b _ (LineBay.exposure_what rfl (by rw [ho]; rfl))).trans (State.freeLine_norise _)

theorem State.deferOpen_norise (s : State) (b : BayNo) : NoRise s (s.deferOpen b) := by
  unfold State.deferOpen
  split
  case h_1 h => exact s.defer_norise b h
  · exact s.freeLine_norise

theorem State.takeDefer_norise (s : State) (b : BayNo) : NoRise s (s.takeDefer b) := by
  unfold State.takeDefer
  split
  · exact s.answer_norise (s.deferOpen_norise b)
  · exact .refl s

/-! ### Sending, and the sum of the exposures -/

theorem State.exposure_eq (s : State) (b : BayNo) : s.exposure b = (s.lineBay b).exposure := rfl

theorem State.exposureSum_eq (s : State) : s.exposureSum = ∑ b : BayNo, s.exposure b := (Fin.sum_univ_def _).symm

theorem NoRise.sum {s t : State} (h : NoRise s t) : t.exposureSum ≤ s.exposureSum := by
  rw [State.exposureSum_eq, State.exposureSum_eq]
  exact Finset.sum_le_sum (fun b _ => h.le b)

/-- The sum of the exposures when only one bay's has changed. -/
theorem exposureSum_one {s t : State} (b : BayNo) (h : ∀ c, c ≠ b → t.exposure c = s.exposure c) :
    t.exposureSum + s.exposure b = s.exposureSum + t.exposure b := by
  have hs : s.exposure b + ∑ c ∈ Finset.univ.erase b, s.exposure c = ∑ c, s.exposure c :=
    Finset.add_sum_erase _ _ (Finset.mem_univ b)
  have ht : t.exposure b + ∑ c ∈ Finset.univ.erase b, t.exposure c = ∑ c, t.exposure c :=
    Finset.add_sum_erase _ _ (Finset.mem_univ b)
  have rest : ∑ c ∈ Finset.univ.erase b, t.exposure c = ∑ c ∈ Finset.univ.erase b, s.exposure c :=
    Finset.sum_congr rfl (fun c hc => h c (Finset.ne_of_mem_erase hc))
  rw [t.exposureSum_eq, s.exposureSum_eq]
  omega

/-- The exposure of one bay is part of the sum. -/
theorem State.exposure_le_sum (s : State) (b : BayNo) : s.exposure b ≤ s.exposureSum := by
  rw [State.exposureSum_eq]
  exact Finset.single_le_sum (fun _ _ => Nat.zero_le _) (Finset.mem_univ b)

theorem State.heldCheck_effective (s : State) : s.heldCheck.feeder.effective = s.feeder.effective := by
  unfold State.heldCheck
  split <;> simp [State.append_feeder]

theorem State.noteExposure_effective (s : State) (b : BayNo) (before : Nat) :
    (s.noteExposure b before).feeder.effective = s.feeder.effective := by
  unfold State.noteExposure
  dsimp only
  split
  · rfl
  · split
    · rw [(State.trimCheck_feeder _).1, s.heldCheck_effective]
    · exact s.heldCheck_effective

/-- What a sending may do: the ceiling stays, and the sum of the exposures rises no higher than it. -/
structure SafeSend (s t : State) : Prop where
  effective : t.feeder.effective = s.feeder.effective
  sum : t.exposureSum ≤ max s.exposureSum s.feeder.effective

theorem SafeSend.refl (s : State) : SafeSend s s := ⟨rfl, Nat.le_max_left _ _⟩

theorem SafeSend.trans {s t u : State} (h : SafeSend s t) (k : SafeSend t u) : SafeSend s u := by
  obtain ⟨h1, h2⟩ := h
  obtain ⟨k1, k2⟩ := k
  refine ⟨k1.trans h1, ?_⟩
  rw [h1] at k2
  omega

theorem NoRise.safe {s t : State} (h : NoRise s t) (e : t.feeder.effective = s.feeder.effective) : SafeSend s t :=
  ⟨e, Nat.le_trans h.sum (Nat.le_max_left _ _)⟩

theorem SafeSend.foldl {α : Type} {f : State → α → State} (h : ∀ s x, SafeSend s (f s x)) (l : List α) (s : State) :
    SafeSend s (l.foldl f s) := by
  induction l generalizing s with
  | nil => exact .refl s
  | cons x xs ih => exact (h s x).trans (ih (f s x))

/-- The power an exchange carries. -/
def Exchange.power : Exchange → Nat
  | .grant v => v
  | .poll | .wake _ _ | .unlock _ => 0

theorem State.exposure_updLineBay (s : State) (b : BayNo) (f : LineBay → LineBay) :
    (s.updLineBay b f).exposure b = (f (s.lineBay b)).exposure := by
  rw [State.exposure_eq, State.lineBay_updLineBay]

theorem State.exposure_updLineBay_ne (s : State) {b c : BayNo} (f : LineBay → LineBay) (h : c ≠ b) :
    (s.updLineBay b f).exposure c = s.exposure c := by
  rw [State.exposure_eq, State.exposure_eq, State.lineBay_updLineBay_ne _ _ h]

/-- A bay's line record takes an exchange that carries no more than is held, or that fits under the ceiling. -/
theorem State.opening_safe (s : State) (b : BayNo) (f : LineBay → LineBay) (v : Nat)
    (hf : (f (s.lineBay b)).exposure = max (s.lineBay b).held v)
    (h : v ≤ (s.lineBay b).held ∨ s.exposureSum - s.exposure b + v ≤ s.feeder.effective) :
    SafeSend s (s.updLineBay b f) := by
  refine ⟨rfl, ?_⟩
  have key := exposureSum_one (s := s) (t := s.updLineBay b f) b (fun c hc => s.exposure_updLineBay_ne f hc)
  rw [s.exposure_updLineBay, hf] at key
  have old : (s.lineBay b).held ≤ s.exposure b := by
    rw [s.exposure_eq, LineBay.exposure_eq]
    exact Nat.le_max_left _ _
  have part := s.exposure_le_sum b
  omega

/-- R126, R132, R137: starting an exchange that carries no more than is held, or that fits under the ceiling. -/
theorem State.start_safe (s : State) (b : BayNo) (x : Exchange)
    (h : x.power ≤ (s.lineBay b).held ∨ s.exposureSum - s.exposure b + x.power ≤ s.feeder.effective) :
    SafeSend s (s.start b x) := by
  unfold State.start
  dsimp only
  refine SafeSend.trans ?_ ((State.noteExposure_norise _ b _).safe (State.noteExposure_effective _ _ _))
  refine SafeSend.trans ?_ ((State.carry_norise _ b x false).safe rfl)
  refine s.opening_safe b _ x.power ?_ h
  rw [LineBay.exposure_eq]
  cases x <;> rfl

theorem State.startPending_safe (s : State) (b : BayNo) (v : Nat)
    (h : v ≤ (s.lineBay b).held ∨ s.exposureSum - s.exposure b + v ≤ s.feeder.effective) :
    SafeSend s (s.startPending b v) := by
  unfold State.startPending
  have same : ∀ c, (s.updLineBay b (fun l => { l with pGrant := none })).exposure c = s.exposure c := by
    intro c
    by_cases hc : c = b
    · subst hc
      exact s.exposure_updLineBay c _
    · exact s.exposure_updLineBay_ne _ hc
  have sum : (s.updLineBay b (fun l => { l with pGrant := none })).exposureSum = s.exposureSum := by
    rw [State.exposureSum_eq, State.exposureSum_eq]
    exact Finset.sum_congr rfl (fun c _ => same c)
  refine SafeSend.trans (t := s.updLineBay b (fun l => { l with pGrant := none }))
    (NoRise.safe (s.updLineBay_norise b _ (fun _ => LineBay.exposure_le (Nat.le_refl _) rfl)) rfl)
    (State.start_safe _ b _ ?_)
  change v ≤ _ ∨ _ + v ≤ _
  rw [sum, same, State.lineBay_updLineBay]
  exact h

/-- An element that is least by a key is one of the list. -/
theorem minBy_mem {α : Type} {key : α → Nat} {l : List α} {x : α} (h : minBy key l = some x) : x ∈ l := by
  induction l generalizing x with
  | nil => cases h
  | cons y ys ih =>
    unfold minBy at h
    split at h
    · simp_all
    · split at h <;> simp_all

theorem State.withdrawWake_safe (s : State) (b : BayNo) : SafeSend s (s.withdrawWake b) :=
  (s.withdrawWake_norise b).safe rfl

theorem State.serveRetry_safe (s : State) : SafeSend s s.serveRetry := by
  unfold State.serveRetry
  split
  · split
    case h_1 o ho =>
      refine NoRise.safe ((s.updLineBay_norise_at _ _ ?_).trans (State.carry_norise _ _ _ false)) rfl
      exact LineBay.exposure_what ((s.lineBay _).sent_held _ _) (by rw [ho]; rfl)
    · exact .refl s
  · exact .refl s

theorem State.serveDecrease_safe (s : State) : SafeSend s s.serveDecrease := by
  unfold State.serveDecrease
  split
  case h_1 b hb =>
    split
    case h_1 p hp =>
      refine s.startPending_safe b _ (.inl ?_)
      have := minBy_mem hb
      simp only [List.mem_filter, State.decreaseReady, hp] at this
      simp at this
      omega
    · exact .refl s
  · exact .refl s

theorem State.serveItem_safe (s : State) (i : ServiceItem) : SafeSend s (s.serveItem i) := by
  unfold State.serveItem
  split
  · exact .refl s
  · split
    · split
      · split
        · refine SafeSend.trans (NoRise.safe (s.updLineBay_norise i.bay (fun l => { l with pWake := none })
            (fun _ => LineBay.exposure_le (Nat.le_refl _) rfl)) rfl) (State.start_safe _ _ _ (.inl (Nat.zero_le _)))
        · exact s.withdrawWake_safe _
      · exact .refl s
    · split
      · split
        · refine SafeSend.trans (NoRise.safe (s.updLineBay_norise i.bay (fun l => { l with pUnlock := none })
            (fun _ => LineBay.exposure_le (Nat.le_refl _) rfl)) rfl) (State.start_safe _ _ _ (.inl (Nat.zero_le _)))
        · exact .refl s
      · exact .refl s

theorem State.serveItems_safe (s : State) : SafeSend s s.serveItems := .foldl State.serveItem_safe _ s

theorem State.serveIncrease_safe (s : State) : SafeSend s s.serveIncrease := by
  unfold State.serveIncrease
  split
  case h_1 b hb =>
    split
    case h_1 p hp =>
      refine s.startPending_safe b _ (.inr ?_)
      have := List.find?_some hb
      simp only [State.increaseReady, hp] at this
      simp at this
      exact this.2
    · exact .refl s
  · exact .refl s

theorem State.serveKeepAlive_safe (s : State) : SafeSend s s.serveKeepAlive := by
  unfold State.serveKeepAlive
  split
  · exact s.start_safe _ _ (.inl (Nat.le_refl _))
  · exact .refl s

theorem State.serveProbe_safe (s : State) : SafeSend s s.serveProbe := by
  unfold State.serveProbe
  split
  · split
    · refine SafeSend.trans ?_ (State.start_safe _ _ _ (.inl (Nat.zero_le _)))
      exact NoRise.safe (.of_same rfl) rfl
    · exact .refl s
  · exact .refl s

theorem State.servePoll_safe (s : State) : SafeSend s s.servePoll := by
  unfold State.servePoll
  split
  · refine SafeSend.trans ?_ (State.start_safe _ _ _ (.inl (Nat.zero_le _)))
    exact NoRise.safe (.of_same rfl) rfl
  · refine SafeSend.trans ?_ (State.serveProbe_safe _)
    exact NoRise.safe (.of_same rfl) rfl

theorem State.ifFree_safe (s : State) {f : State → State} (h : ∀ t, SafeSend t (f t)) : SafeSend s (s.ifFree f) := by
  unfold State.ifFree
  split
  · exact .refl s
  · exact h s

/-- R137: a selection raises no sum of exposures over the effective ceiling. -/
theorem State.settle_safe (s : State) : SafeSend s s.settle :=
  s.ifFree_safe (fun t => ((((((t.ifFree_safe State.serveRetry_safe).trans
    (State.ifFree_safe _ State.serveDecrease_safe)).trans (State.ifFree_safe _ State.serveItems_safe)).trans
    (State.ifFree_safe _ State.serveIncrease_safe)).trans (State.ifFree_safe _ State.serveKeepAlive_safe)).trans
    (State.ifFree_safe _ State.serveProbe_safe)).trans (State.ifFree_safe _ State.servePoll_safe))

/-- What a command may do: the sum of the exposures rises no higher than the ceiling it leaves. -/
structure Guarded (s t : State) : Prop where
  le : t.exposureSum ≤ max s.exposureSum t.feeder.effective

theorem Guarded.refl (s : State) : Guarded s s := ⟨Nat.le_max_left _ _⟩

theorem NoRise.guarded {s t : State} (h : NoRise s t) : Guarded s t := ⟨Nat.le_trans h.sum (Nat.le_max_left _ _)⟩

theorem NoRise.settles {s t : State} (h : NoRise s t) : Guarded s t.settle := by
  obtain ⟨e, k⟩ := t.settle_safe
  refine ⟨?_⟩
  have := h.sum
  omega

end Sys2Proof.Machine
end

