-- ==== Sys2Proof/Laws/ExposureCommands.lean ====
section
/-! SUPPORT. The rounds, the inputs, the settings and the owners of the requests: no command but a post status carries the
sum of the exposures further over the effective ceiling (R137). -/

namespace Sys2Proof.Machine

/-! ### Round -/

theorem State.closeMissed_norise (s : State) (now : Nat) : NoRise s (s.closeMissed now) :=
  .foldl (fun t tag => t.closeOrder_norise tag .missed) _ s

theorem State.dropWindows_norise (s : State) (now : Nat) : NoRise s (s.dropWindows now) := .of_same rfl

theorem State.clearDormantDeferred_norise (s : State) : NoRise s s.clearDormantDeferred := by
  refine .foldl (fun t x => ?_) _ s
  exact t.updOrder_norise _ _

theorem State.changePhase_norise (s : State) (now : Nat) (x : BayNo × Nat) : NoRise s (s.changePhase now x) := by
  unfold State.changePhase
  split
  · exact .refl s
  · split
    · exact .refl s
    · dsimp only
      split
      · refine NoRise.trans ?_ (State.append_norise _ _ _ _)
        exact s.updOrder_norise _ _
      · exact s.updOrder_norise _ _

theorem State.changePhases_norise (s : State) (now : Nat) : NoRise s (s.changePhases now) :=
  .foldl (fun t x => t.changePhase_norise now x) _ s

theorem State.storeCaps_norise (s : State) : NoRise s s.storeCaps := by
  refine .foldl (fun t b => ?_) _ s
  split
  · split
    · exact t.withCap_norise b _
    · exact .refl t
  · exact .refl t

theorem State.setAtRisk_norise (s : State) (now : Nat) (x : BayNo × Nat) : NoRise s (s.setAtRisk now x) := by
  unfold State.setAtRisk
  split
  · exact .refl s
  · dsimp only
    split
    · exact .refl s
    · refine NoRise.trans ?_ (State.append_norise _ _ _ _)
      exact s.updOrder_norise _ _

theorem State.setAtRisks_norise (s : State) (now : Nat) : NoRise s (s.setAtRisks now) :=
  .foldl (fun t x => t.setAtRisk_norise now x) _ s

theorem State.handWake_norise (s : State) (b : BayNo) : NoRise s (s.handWake b) := by
  unfold State.handWake
  refine NoRise.trans (t := (s.updBay b (fun r => { r with wakePending := true })).updLineBay b (fun l =>
    { l with pWake := some ⟨s.cfg.wakePulse, s.line.nextAge, (s.bay b).dormantSince.getD 0⟩ })) ?_ ?_
  · exact (s.updBay_norise b _).trans
      (State.updLineBay_norise _ b _ (fun _ => LineBay.exposure_le (Nat.le_refl _) rfl))
  · exact .of_same rfl

theorem State.wakeDecision_norise (s : State) (now : Nat) (x : BayNo × Nat) : NoRise s (s.wakeDecision now x) := by
  unfold State.wakeDecision
  split
  · exact .refl s
  · split
    · split
      · split
        · exact .refl s
        · exact (s.updBay_norise _ _).trans (State.append_norise _ _ _ _)
      · split
        · exact .refl s
        · exact s.handWake_norise _
    · exact .refl s

theorem State.wakeDecisions_norise (s : State) (now : Nat) : NoRise s (s.wakeDecisions now) :=
  .foldl (fun t x => t.wakeDecision_norise now x) _ s

theorem State.setDeferred_norise (s : State) (now : Nat) : NoRise s (s.setDeferred now) := by
  refine .foldl (fun t x => ?_) _ s
  split
  · exact .refl t
  · exact t.updOrder_norise _ _

theorem State.roundResult_norise (s : State) (ranking : List BayNo) (grants : List (BayNo × Nat)) :
    NoRise s (s.roundResult ranking grants) := by
  unfold State.roundResult
  dsimp only
  refine NoRise.trans ?_ (.foldl (fun t b => ?_) _ _)
  · exact .of_same rfl
  split
  · exact .refl t
  · exact t.reconcile_norise b

theorem State.roundAt_norise (s : State) (now : Nat) : NoRise s (s.roundAt now) := by
  unfold State.roundAt
  refine NoRise.trans ?_ (State.roundResult_norise _ _ _)
  refine NoRise.trans ?_ (State.setDeferred_norise _ now)
  refine NoRise.trans ?_ (State.wakeDecisions_norise _ now)
  refine NoRise.trans ?_ (State.setAtRisks_norise _ now)
  refine NoRise.trans ?_ (State.storeCaps_norise _)
  refine NoRise.trans ?_ (State.changePhases_norise _ now)
  refine NoRise.trans ?_ (State.clearDormantDeferred_norise _)
  exact (s.closeMissed_norise now).trans (State.dropWindows_norise _ now)

theorem State.round_norise (s : State) : NoRise s s.round := by
  unfold State.round
  split
  · exact s.roundAt_norise _
  · exact .refl s

/-! ### Input unit and settings -/

theorem State.recompute_norise (s : State) (f : Feeder) :
    NoRise s (State.recomputeCeiling { s with feeder := f }) :=
  NoRise.trans (t := { s with feeder := f }) (.of_same rfl) (State.recomputeCeiling_norise _)

theorem State.handRole_norise (s : State) (role : InputRole) : NoRise s (s.handRole role) := by
  have h1 : NoRise s s.handStop := by
    unfold State.handStop
    split
    · exact .refl s
    · exact s.recompute_norise _
  have h2 : NoRise s s.handDerate := by
    unfold State.handDerate
    split
    · exact .refl s
    · exact s.recompute_norise _
  cases role
  all_goals first
    | exact .refl s
    | exact h1
    | exact h2

theorem State.roleEvent_norise (s : State) (role : InputRole) (y : InputNo) (e : Edge) :
    NoRise s (s.roleEvent role y e) := by
  cases role
  all_goals first
    | exact .refl s
    | exact s.append_norise _ _ _

theorem State.actRole_norise (s : State) (y : InputNo) (e : Edge) : NoRise s (s.actRole y e) :=
  (s.roleEvent_norise _ y e).trans (State.handRole_norise _ _)

theorem State.setFiltered_norise (s : State) (y : InputNo) (active : Bool) : NoRise s (s.setFiltered y active) := by
  unfold State.setFiltered
  dsimp only
  split
  · exact s.updInput_norise y _
  · split
    · exact ((s.updInput_norise y _).trans (State.updInput_norise _ y _)).trans (State.actRole_norise _ y _)
    · exact (s.updInput_norise y _).trans (State.actRole_norise _ y _)

theorem State.lineLevel_norise (s : State) (y : InputNo) (high : Bool) : NoRise s (s.lineLevel y high) := by
  unfold State.lineLevel
  dsimp only
  split
  · exact .refl s
  · split
    · exact s.updInput_norise y _
    · split
      · exact (s.updInput_norise y _).trans (State.setFiltered_norise _ y _)
      · exact (s.updInput_norise y _).trans (State.updInput_norise _ y _)

theorem State.filterOver_norise (s : State) (y : InputNo) (p : PendingChange) : NoRise s (s.filterOver y p) :=
  (s.updInput_norise y _).trans (State.setFiltered_norise _ y _)

theorem State.clearInputLatch_norise (s : State) (y : InputNo) : NoRise s (s.clearInputLatch y) := by
  unfold State.clearInputLatch
  split
  · exact (s.updInput_norise y _).trans (State.actRole_norise _ y _)
  · exact .refl s

theorem State.withWorking_norise (s : State) (w : Settings) : NoRise s (s.withWorking w) := .of_same rfl

theorem State.withInputCfg_norise (s : State) (y : InputNo) (c : InputCfg) : NoRise s (s.withInputCfg y c) := .of_same rfl

theorem State.cfgActive_norise (s : State) (y : InputNo) (high : Bool) : NoRise s (s.cfgActive y high) := by
  unfold State.cfgActive
  split
  · exact .refl s
  · exact ((s.withInputCfg_norise y _).trans (State.updInput_norise _ y _)).trans (State.setFiltered_norise _ y _)

theorem State.cfgLatch_norise (s : State) (y : InputNo) (latch : Bool) : NoRise s (s.cfgLatch y latch) := by
  unfold State.cfgLatch
  dsimp only
  split
  · exact .refl s
  · split
    · exact (s.withInputCfg_norise y _).trans (State.updInput_norise _ y _)
    · split
      · exact ((s.withInputCfg_norise y _).trans (State.updInput_norise _ y _)).trans (State.actRole_norise _ y _)
      · exact (s.withInputCfg_norise y _).trans (State.updInput_norise _ y _)

theorem State.cfgRole_norise (s : State) (y : InputNo) (role : InputRole) : NoRise s (s.cfgRole y role) := by
  have h0 : NoRise s (if (s.input y).inForce then s.roleEvent (s.inputCfg y).role y .cleared else s) := by
    split
    · exact s.roleEvent_norise _ y _
    · exact .refl s
  unfold State.cfgRole
  dsimp only
  split
  · exact .refl s
  · have h1 := ((h0.trans (State.withInputCfg_norise _ y { s.inputCfg y with role := role })).trans
      (State.updInput_norise _ y (fun i => { i with latched := false }))).trans
      (State.handRole_norise _ (s.inputCfg y).role)
    split
    · exact (h1.trans (State.updInput_norise _ y _)).trans (State.actRole_norise _ y _)
    · exact h1

theorem State.reconfigure_norise (s : State) (y : InputNo) (c : InputCfg) : NoRise s (s.reconfigure y c) :=
  (((s.withInputCfg_norise y _).trans (State.cfgActive_norise _ y _)).trans (State.cfgLatch_norise _ y _)).trans
    (State.cfgRole_norise _ y _)

theorem State.raisePostMin_norise (s : State) : NoRise s s.raisePostMin := by
  refine .foldl (fun t b => ?_) _ s
  split
  · exact t.setTarget_norise b 0
  · exact .refl t

theorem State.lowerRating_norise (s : State) (b : BayNo) (rating : Nat) : NoRise s (s.lowerRating b rating) := by
  have h : NoRise s (if rating < s.cap b then s.withCap b rating else s) := by
    split
    · exact s.withCap_norise b rating
    · exact .refl s
  unfold State.lowerRating
  dsimp only
  generalize (if rating < s.cap b then s.withCap b rating else s) = t at h
  split
  · exact h.trans (State.setTarget_norise _ b _)
  · exact h

theorem State.applySetting_norise (s : State) (id : SettingId) (v : SettingValue) : NoRise s (s.applySetting id v) := by
  have h := s.withWorking_norise (s.cfg.write id v)
  unfold State.applySetting
  dsimp only
  split
  · exact s.reconfigure_norise _ _
  · split
    · exact h.trans (State.raisePostMin_norise _)
    · exact h
  · split
    · exact h.trans (State.lowerRating_norise _ _ _)
    · exact h
  · exact h.trans (State.recomputeCeiling_norise _)
  · exact h.trans (State.recomputeCeiling_norise _)
  · exact h

/-- R184: a reset clears every exposure before its first selection. -/
theorem State.doReset_guarded (s : State) : Guarded s s.doReset := by
  unfold State.doReset
  dsimp only
  refine NoRise.settles (NoRise.trans (t := s.resetTo s.imageAfterReset
    (s.freeCount + if s.store.commit.isSome then 1 else 0)) ⟨fun b => ?_⟩ ?_)
  · have : (s.resetTo s.imageAfterReset (s.freeCount + if s.store.commit.isSome then 1 else 0)).lineBay b =
        LineBay.reset := by
      change (Vector.replicate 24 LineBay.reset)[b] = _
      simp
    rw [this]
    exact Nat.zero_le _
  · unfold State.endStartUp
    refine NoRise.trans ?_ (State.refreshAttention_norise _)
    generalize s.resetTo s.imageAfterReset (s.freeCount + if s.store.commit.isSome then 1 else 0) = t
    split
    · exact .refl _
    · exact State.append_norise _ _ _ _

/-! ### The owners of the requests -/

theorem Guarded.slot {s t : State} (h : Guarded s t) (p : Port) (x : Slot) : Guarded s (t.withSlot p x) := by
  have hs := (t.withSlot_norise p x).sum
  have he : (t.withSlot p x).feeder = t.feeder := by cases p <;> rfl
  refine ⟨?_⟩
  rw [he]
  exact Nat.le_trans hs h.le

/-- R173: serving a request raises no more than its owner does. -/
theorem State.serve_guarded (s : State) (r : Req) (code : Byte) (permits : Port → Bool)
    (owner : List Byte → State → State × Reply) (h : Guarded s (owner r.body s).1) :
    Guarded s (s.serve r code permits owner) := by
  unfold State.serve
  dsimp only
  split
  · exact .refl s
  all_goals
    refine Guarded.slot ?_ _ _
    split
    · exact h
    · exact .refl s

theorem State.serve_guarded_same (s : State) (r : Req) (code : Byte) (permits : Port → Bool)
    (owner : List Byte → State → State × Reply) (h : (owner r.body s).1 = s) :
    Guarded s (s.serve r code permits owner) :=
  s.serve_guarded r code permits owner (by rw [h]; exact .refl s)

/-! ### Events and attention -/

theorem State.takeEvents_norise (s : State) : NoRise s s.takeEvents := .of_same rfl

theorem takeEventsOwner_norise (body : List Byte) (s : State) : NoRise s (takeEventsOwner body s).1 := by
  unfold takeEventsOwner
  split
  · exact s.takeEvents_norise
  · exact .refl s

theorem State.setMask_norise (s : State) (p : Port) (m : Mask) : NoRise s (s.setMask p m) := by
  cases p <;> exact .of_same rfl

theorem setAttentionOwner_norise (p : Port) (body : List Byte) (s : State) :
    NoRise s (setAttentionOwner p body s).1 := by
  unfold setAttentionOwner
  split
  · split
    · exact s.setMask_norise p _
    · exact .refl s
  · exact .refl s

/-! ### Planner -/

theorem State.setClock_guarded (s : State) (t : Nat) : Guarded s (s.setClock t) := by
  have h : NoRise s (State.append { s with alloc := { s.alloc with clock := some ⟨t, s.elapsed⟩ } } .clockSet none
      .raised) := by
    refine NoRise.trans ?_ (State.append_norise _ _ _ _)
    exact .of_same rfl
  unfold State.setClock
  dsimp only
  split
  · refine NoRise.settles ?_
    refine NoRise.trans ?_ (State.startRoundTimer_norise _)
    exact h.trans (State.round_norise _)
  · exact h.guarded

theorem setClockOwner_guarded (body : List Byte) (s : State) : Guarded s (setClockOwner body s).1 := by
  unfold setClockOwner
  split
  · exact s.setClock_guarded _
  · exact .refl s

theorem State.addOrder_norise (s : State) (o : Order) : NoRise s (s.addOrder o) := by
  unfold State.addOrder
  refine NoRise.trans ?_ (State.bindingCheckOrder_norise _ _)
  exact .of_same rfl

theorem addOrderOwner_norise (body : List Byte) (s : State) : NoRise s (addOrderOwner body s).1 := by
  unfold addOrderOwner
  split
  · split
    · split
      · split
        · exact s.addOrder_norise _
        · exact .refl s
      · exact .refl s
    · exact .refl s
  · exact .refl s

theorem State.amendFields_norise (s : State) (o o' : Order) (toNone : Bool) :
    NoRise s (s.amendFields o o' toNone) := by
  have base : NoRise s (if o'.departure = o.departure then s.updOrder o.tag (fun _ => amendedRecord o' toNone)
      else { s with roster := insertOrder (amendedRecord o' toNone) (s.roster.filter (fun x => x.tag != o.tag)) }) := by
    split <;> exact .of_same rfl
  unfold State.amendFields
  dsimp only
  split
  · exact base.trans (State.updBay_norise _ _ _)
  · exact base

theorem State.rebind_norise (s : State) (tag : Nat) : NoRise s (s.rebind tag) := by
  unfold State.rebind
  split
  · exact .refl s
  · split
    · dsimp only
      refine NoRise.trans ?_ (State.bindingCheckOrder_norise _ _)
      refine NoRise.trans ?_ (State.leaveEligibility_norise _ _ _)
      exact (s.unbindOrder_norise tag).trans (State.unbindBay_norise _ _)
    · exact s.bindingCheckOrder_norise tag

theorem State.amendOrder_norise (s : State) (o o' : Order) (toNone : Bool) :
    NoRise s (s.amendOrder o o' toNone) := by
  unfold State.amendOrder
  dsimp only
  split
  · exact s.amendFields_norise o o' _
  · exact (s.amendFields_norise o o' _).trans (State.rebind_norise _ _)

theorem amendOrderOwner_guarded (body : List Byte) (s : State) : Guarded s (amendOrderOwner body s).1 := by
  unfold amendOrderOwner
  split
  · split
    · split
      · exact .refl s
      case h_2 o ho =>
        split
        · exact .refl s
        · split
          · exact .refl s
          case h_2 o' ho' =>
            split
            · exact (s.amendOrder_norise _ _ _).settles
            · exact .refl s
    · exact .refl s
  · exact .refl s

theorem State.cancelOrder_norise (s : State) (o : Order) : NoRise s (s.cancelOrder o) := by
  have h : ∀ b, NoRise s (s.cancelBound o.tag b) := by
    intro b
    unfold State.cancelBound
    dsimp only
    refine NoRise.trans ?_ (State.decreaseDone_norise _ b)
    refine NoRise.trans ?_ (State.leaveEligibility_norise _ _ b)
    exact s.updOrder_norise _ _
  unfold State.cancelOrder
  split <;> first
    | exact s.closeOrder_norise _ _
    | exact h _
    | exact .refl s

theorem cancelOrderOwner_guarded (body : List Byte) (s : State) : Guarded s (cancelOrderOwner body s).1 := by
  unfold cancelOrderOwner
  split
  · split
    · exact .refl s
    · split
      · exact .refl s
      · exact NoRise.settles (s.cancelOrder_norise _)
  · exact .refl s

theorem State.handUnlock_norise (s : State) (b : BayNo) : NoRise s (s.handUnlock b) := by
  unfold State.handUnlock
  dsimp only
  split
  · exact .refl s
  · refine NoRise.trans (s.updLineBay_norise b (fun l => { l with pUnlock := some s.line.nextAge })
      (fun _ => LineBay.exposure_le (Nat.le_refl _) rfl)) ?_
    exact .of_same rfl

theorem State.releaseVan_norise (s : State) (tag : Nat) (b : BayNo) : NoRise s (s.releaseVan tag b) := by
  unfold State.releaseVan
  dsimp only
  refine NoRise.trans ?_ (State.handUnlock_norise _ b)
  refine NoRise.trans ?_ (State.leaveEligibility_norise _ _ b)
  exact s.updOrder_norise _ _

theorem releaseVanOwner_guarded (body : List Byte) (s : State) : Guarded s (releaseVanOwner body s).1 := by
  unfold releaseVanOwner
  split
  · split
    · exact .refl s
    · split
      · exact .refl s
      · exact .refl s
      · exact .refl s
      · split
        · exact .refl s
        · split
          · exact NoRise.settles (s.releaseVan_norise _ _)
          · exact .refl s
  · exact .refl s

theorem moveWaiting_line (l : List Nat) (s : State) : (moveWaiting l s).line = s.line := by
  induction l generalizing s with
  | nil => rfl
  | cons tag rest ih =>
    unfold moveWaiting
    split
    · split
      · exact ih _
      · exact ih _
    · rfl

theorem State.takeCompletions_norise (s : State) : NoRise s s.takeCompletions := by
  unfold State.takeCompletions
  dsimp only
  refine NoRise.trans (NoRise.of_same ?_) (State.refreshAttention_norise _)
  rw [moveWaiting_line]

theorem takeCompletionsOwner_norise (body : List Byte) (s : State) : NoRise s (takeCompletionsOwner body s).1 := by
  unfold takeCompletionsOwner
  split
  · exact s.takeCompletions_norise
  · exact .refl s

theorem reallocateOwner_guarded (body : List Byte) (s : State) : Guarded s (reallocateOwner body s).1 := by
  unfold reallocateOwner
  split
  · split
    · refine NoRise.settles ?_
      exact s.round_norise.trans (State.startRoundTimer_norise _)
    · exact .refl s
  · exact .refl s

/-! ### Site -/

theorem setCeilingOwner_guarded (body : List Byte) (s : State) : Guarded s (setCeilingOwner body s).1 := by
  unfold setCeilingOwner
  split
  · split
    · refine NoRise.settles ?_
      exact s.recompute_norise _
    · exact .refl s
  · exact .refl s

theorem State.flagEvent_norise (s : State) (k : EventKind) (old new : Bool) : NoRise s (s.flagEvent k old new) := by
  unfold State.flagEvent
  split
  · exact .refl s
  · exact s.append_norise _ _ _

theorem State.reportMeter_norise (s : State) (load : Nat) : NoRise s (s.reportMeter load) := by
  have h1 : NoRise s (s.meterArrives load) := by
    unfold State.meterArrives
    dsimp only
    split
    · refine NoRise.trans ?_ (State.append_norise _ _ _ _)
      exact .of_same rfl
    · exact .of_same rfl
  have h2 : ∀ t : State, NoRise t (t.evaluateMeter load) := by
    intro t
    unfold State.evaluateMeter
    refine NoRise.trans ?_ (State.flagEvent_norise _ _ _ _)
    refine NoRise.trans ?_ (State.flagEvent_norise _ _ _ _)
    exact .of_same rfl
  unfold State.reportMeter
  exact (h1.trans (h2 _)).trans (State.recompute_norise _ _)

theorem reportMeterOwner_guarded (body : List Byte) (s : State) : Guarded s (reportMeterOwner body s).1 := by
  unfold reportMeterOwner
  split
  · split
    · exact NoRise.settles (s.reportMeter_norise _)
    · exact .refl s
  · exact .refl s

theorem setTariffOwner_norise (body : List Byte) (s : State) : NoRise s (setTariffOwner body s).1 := by
  unfold setTariffOwner
  split
  · split
    · split
      · split
        · exact .of_same rfl
        · exact .refl s
      · exact .refl s
    · exact .refl s
  · exact .refl s

/-! ### Service -/

theorem holdDepotOwner_guarded (body : List Byte) (s : State) : Guarded s (holdDepotOwner body s).1 := by
  have h : Guarded s s.holdDepot := by
    unfold State.holdDepot
    split
    · refine NoRise.settles ?_
      refine NoRise.trans ?_ (State.heldCheck_norise _)
      exact s.recompute_norise _
    · exact .refl s
  unfold holdDepotOwner
  split
  · exact h
  · exact .refl s

theorem resumeDepotOwner_guarded (body : List Byte) (s : State) : Guarded s (resumeDepotOwner body s).1 := by
  have h : Guarded s s.resumeDepot := by
    unfold State.resumeDepot
    split
    · exact .refl s
    · dsimp only
      refine NoRise.settles ?_
      have hr : NoRise s (State.recomputeCeiling { s with feeder := { s.feeder with hold := .running } }) :=
        s.recompute_norise _
      split
      · exact (hr.trans (State.round_norise _)).trans (State.startRoundTimer_norise _)
      · exact hr
  unfold resumeDepotOwner
  split
  · exact h
  · exact .refl s

theorem State.clearFeederLatch_norise (s : State) : NoRise s s.clearFeederLatch := by
  unfold State.clearFeederLatch
  dsimp only
  have h : NoRise s { s with feeder := { s.feeder with
      warnFlag := s.feeder.warnFlag && s.feeder.warnCond, alarmFlag := s.feeder.alarmFlag && s.feeder.alarmCond } } :=
    .of_same rfl
  revert h
  generalize ({ s with feeder := { s.feeder with
      warnFlag := s.feeder.warnFlag && s.feeder.warnCond,
      alarmFlag := s.feeder.alarmFlag && s.feeder.alarmCond } } : State) = t
  intro h
  have h2 : NoRise s (if s.feeder.warnFlag = (s.feeder.warnFlag && s.feeder.warnCond) then t
      else t.append .feederWarn none .cleared) := by
    split
    · exact h
    · exact h.trans (t.append_norise _ _ _)
  revert h2
  generalize (if s.feeder.warnFlag = (s.feeder.warnFlag && s.feeder.warnCond) then t
      else t.append .feederWarn none .cleared) = u
  intro h2
  split
  · exact h2
  · exact h2.trans (u.append_norise _ _ _)

theorem clearLatchOwner_guarded (body : List Byte) (s : State) : Guarded s (clearLatchOwner body s).1 := by
  unfold clearLatchOwner
  split
  · split
    · exact s.clearFeederLatch_norise.guarded
    · split
      · split
        · exact .refl s
        · exact NoRise.settles (s.clearInputLatch_norise _)
      · exact .refl s
  · exact .refl s

theorem clearBayOwner_guarded (body : List Byte) (s : State) : Guarded s (clearBayOwner body s).1 := by
  unfold clearBayOwner
  split
  · split
    · exact NoRise.settles (s.clearBay_norise _)
    · exact .refl s
  · exact .refl s

theorem State.retryAdmission_norise (s : State) (b : BayNo) : NoRise s (s.retryAdmission b) := s.updBay_norise b _

theorem State.setOverride_norise (s : State) (b : BayNo) (o : Override) : NoRise s (s.setOverride b o) :=
  s.updBay_norise b _

theorem retryAdmissionOwner_norise (body : List Byte) (s : State) : NoRise s (retryAdmissionOwner body s).1 := by
  unfold retryAdmissionOwner
  split
  · split
    · split
      · exact s.retryAdmission_norise _
      · exact .refl s
    · exact .refl s
  · exact .refl s

theorem setOverrideOwner_norise (body : List Byte) (s : State) : NoRise s (setOverrideOwner body s).1 := by
  unfold setOverrideOwner
  split
  · split
    · exact s.setOverride_norise _ _
    · exact .refl s
  · exact .refl s

theorem writeTableOwner_norise (body : List Byte) (s : State) : NoRise s (writeTableOwner body s).1 := by
  have h : ∀ rate i v, NoRise s (s.withWorking (s.cfg.writeTable rate i v)) := by
    intro rate i v
    exact s.withWorking_norise _
  unfold writeTableOwner
  split
  · split
    · split
      · split
        · split
          · exact .refl s
          · exact h _ _ _
        · exact .refl s
      · exact .refl s
    · exact .refl s
  · exact .refl s

theorem writeSettingOwner_guarded (body : List Byte) (s : State) : Guarded s (writeSettingOwner body s).1 := by
  unfold writeSettingOwner
  split
  · split
    · split
      · split
        · exact .refl s
        · exact (s.applySetting_norise _ _).settles
      · exact .refl s
    · exact .refl s
  · exact .refl s

theorem storeSettingsOwner_norise (body : List Byte) (s : State) : NoRise s (storeSettingsOwner body s).1 := by
  unfold storeSettingsOwner
  split
  · split
    · exact .refl s
    · exact (NoRise.of_same rfl)
  · exact .refl s

/-! ### The posts -/

/-- R141: a status raises the sum of the exposures by no more than the output it reports. -/
theorem State.lineTakesStatus_sum (s : State) (b : BayNo) (st : PostStatus) :
    (s.lineTakesStatus b st).exposureSum ≤ s.exposureSum + st.output := by
  have keep : ∀ t : State, NoRise s t → t.exposureSum ≤ s.exposureSum + st.output :=
    fun t h => Nat.le_trans h.sum (Nat.le_add_right _ _)
  unfold State.lineTakesStatus
  dsimp only
  split
  · refine keep _ (NoRise.trans ?_ (State.noteExposure_norise _ b _))
    refine NoRise.trans ?_ (State.updBay_norise _ b _)
    exact s.updLineBay_norise b _ (fun _ => LineBay.exposure_le (Nat.zero_le _) rfl)
  · split
    case isTrue hlt =>
      refine Nat.le_trans ((State.reconcile_norise _ b).trans (State.noteExposure_norise _ b _)).sum ?_
      have key := exposureSum_one (s := s) (t := s.updLineBay b (fun l =>
        { l with held := st.output, keepDue := some (l.keepDue.getD (s.elapsed + Config.keepAliveInterval)) })) b
        (fun c hc => s.exposure_updLineBay_ne _ hc)
      have part := s.exposure_le_sum b
      rw [s.exposure_updLineBay, LineBay.exposure_eq] at key
      have old := s.exposure_eq b
      rw [LineBay.exposure_eq] at old
      dsimp only at key
      omega
    · split
      · refine keep _ (NoRise.trans ?_ (State.decreaseDone_norise _ b))
        refine NoRise.trans ?_ (State.noteExposure_norise _ b _)
        exact s.updLineBay_norise b _ (fun _ => LineBay.exposure_le (Nat.zero_le _) rfl)
      · exact keep _ (.refl s)

theorem State.takeStatus_sum (s : State) (b : BayNo) (st : PostStatus) :
    (s.takeStatus b st).exposureSum ≤ s.exposureSum + st.output := by
  have h1 : NoRise s ((s.endExchange b).count b .accept) := (s.endExchange_norise b).trans (State.count_norise _ b _)
  have h2 := State.lineTakesStatus_sum ((s.endExchange b).count b .accept) b st
  have h3 : NoRise (((s.endExchange b).count b .accept).lineTakesStatus b st) (s.takeStatus b st) := by
    have h4 := State.bayTakesStatus_norise (((s.endExchange b).count b .accept).lineTakesStatus b st) b st
    unfold State.takeStatus
    dsimp only
    split
    · refine NoRise.trans ?_ (State.reconcile_norise _ b)
      split
      · exact h4.trans (State.takeFrame_norise _ b _)
      · exact h4
    · split
      · exact h4.trans (State.takeFrame_norise _ b _)
      · exact h4
  have := h1.sum
  have := h3.sum
  omega

theorem State.takePostStatus_sum (s : State) (b : BayNo) (st : PostStatus) :
    (s.takePostStatus b st).exposureSum ≤ s.exposureSum + st.output := by
  unfold State.takePostStatus State.answer
  split
  · split
    · split
      · exact Nat.le_trans s.freeLine_norise.sum (Nat.le_add_right _ _)
      · exact s.takeStatus_sum b st
    · exact Nat.le_add_right _ _
  · exact Nat.le_add_right _ _

/-! ### The stale timer -/

theorem State.meterStale_norise (s : State) : NoRise s s.meterStale := by
  unfold State.meterStale
  refine NoRise.trans ?_ (State.recomputeCeiling_norise _)
  refine NoRise.trans ?_ (State.append_norise _ _ _ _)
  exact .of_same rfl

theorem State.commitOver_norise (s : State) (c : Commit) (good : Bool) : NoRise s (s.commitOver c good) := by
  unfold State.commitOver
  refine NoRise.trans ?_ (State.append_norise _ _ _ _)
  exact .of_same rfl

/-! ### The ports -/

theorem State.dropFrame_norise (s : State) (p : Port) : NoRise s (s.dropFrame p) := by
  unfold State.dropFrame
  split
  · exact .refl s
  all_goals exact s.withSlot_norise p _

theorem State.listenByte_norise (s : State) (p : Port) (b : Byte) : NoRise s (s.listenByte p b) := by
  unfold State.listenByte
  split
  · split
    · exact s.withSlot_norise p _
    · exact .refl s
  all_goals exact .refl s

end Sys2Proof.Machine
end

