-- ==== Sys2Proof/Laws/Inputs.lean ====
section
/-! SUPPORT. What the operations of the Input unit leave of the input configurations (R163 to R166): nothing but a written
part changes one, and a part written as it stands changes nothing at all. -/

namespace Sys2Proof.Machine

theorem State.withInputCfg_self (s : State) (y : InputNo) : s.withInputCfg y (s.inputCfg y) = s := by
  simp [State.withInputCfg, State.inputCfg, State.withWorking, State.cfg]

/-! ### The settings a recomputation reads stay -/

theorem State.append_store (s : State) (k : EventKind) (x : Option Subject) (e : Edge) : (s.append k x e).store = s.store := by
  unfold State.append
  split <;> rfl

theorem State.reconcile_store (s : State) (b : BayNo) : (s.reconcile b).store = s.store := by
  unfold State.reconcile
  dsimp only
  split
  · split
    · rfl
    · split <;> rfl
  · rfl

theorem State.setTarget_store (s : State) (b : BayNo) (v : Nat) : (s.setTarget b v).store = s.store := by
  unfold State.setTarget
  split
  · rfl
  · exact State.reconcile_store _ b

theorem State.trimBay_store (s : State) (b : BayNo) : (s.trimBay b).store = s.store := by
  unfold State.trimBay
  split
  · rfl
  · exact s.setTarget_store b _

theorem State.trimCheck_store (s : State) : s.trimCheck.store = s.store := by
  unfold State.trimCheck
  generalize s.alloc.ranking.reverse = l
  induction l generalizing s with
  | nil => rfl
  | cons b bs ih => rw [List.foldl_cons, ih, State.trimBay_store]

theorem State.recomputeCeiling_store (s : State) : s.recomputeCeiling.store = s.store := by
  unfold State.recomputeCeiling
  dsimp only
  split
  · exact State.trimCheck_store _
  · rfl

/-! ### What acting on an input leaves of its configuration -/

theorem State.roleEvent_inputCfg (s : State) (role : InputRole) (y z : InputNo) (e : Edge) :
    (s.roleEvent role y e).inputCfg z = s.inputCfg z := by
  cases role <;> simp [State.roleEvent, State.inputCfg, State.cfg, State.append_store]

theorem State.handRole_inputCfg (s : State) (role : InputRole) (z : InputNo) :
    (s.handRole role).inputCfg z = s.inputCfg z := by
  have h : (s.handRole role).store = s.store := by
    cases role
    · rfl
    · simp only [State.handRole, State.handStop]
      split
      · rfl
      · exact State.recomputeCeiling_store _
    · simp only [State.handRole, State.handDerate]
      split
      · rfl
      · exact State.recomputeCeiling_store _
  unfold State.inputCfg State.cfg
  rw [h]

theorem State.actRole_inputCfg (s : State) (y z : InputNo) (e : Edge) : (s.actRole y e).inputCfg z = s.inputCfg z := by
  unfold State.actRole
  rw [State.handRole_inputCfg, State.roleEvent_inputCfg]

theorem State.updInput_inputCfg (s : State) (y z : InputNo) (f : InputState → InputState) :
    (s.updInput y f).inputCfg z = s.inputCfg z := rfl

theorem State.setFiltered_inputCfg (s : State) (y z : InputNo) (active : Bool) :
    (s.setFiltered y active).inputCfg z = s.inputCfg z := by
  unfold State.setFiltered
  dsimp only
  split
  · rfl
  · split <;> rw [State.actRole_inputCfg] <;> rfl

/-! ### The parts of a written configuration (R166) -/

theorem State.cfgFilter_inputCfg (s : State) (y : InputNo) (f : FilterTime) :
    (s.cfgFilter y f).inputCfg y = { s.inputCfg y with filter := f } := s.inputCfg_withInputCfg y _

theorem State.cfgActive_inputCfg (s : State) (y : InputNo) (high : Bool) :
    (s.cfgActive y high).inputCfg y = { s.inputCfg y with activeHigh := high } := by
  unfold State.cfgActive
  split
  case isTrue h => rw [← h]
  case isFalse => rw [State.setFiltered_inputCfg, State.updInput_inputCfg, State.inputCfg_withInputCfg]

theorem State.cfgLatch_inputCfg (s : State) (y : InputNo) (latch : Bool) :
    (s.cfgLatch y latch).inputCfg y = { s.inputCfg y with latch := latch } := by
  unfold State.cfgLatch
  split
  case isTrue h => rw [← h]
  case isFalse =>
    dsimp only
    split
    · rw [State.updInput_inputCfg, State.inputCfg_withInputCfg]
    · split
      · rw [State.actRole_inputCfg, State.updInput_inputCfg, State.inputCfg_withInputCfg]
      · rw [State.updInput_inputCfg, State.inputCfg_withInputCfg]

theorem State.cfgFilter_same {s : State} {y : InputNo} {f : FilterTime} (h : (s.inputCfg y).filter = f) :
    s.cfgFilter y f = s := by
  subst h
  exact s.withInputCfg_self y

theorem State.cfgActive_same {s : State} {y : InputNo} {high : Bool} (h : (s.inputCfg y).activeHigh = high) :
    s.cfgActive y high = s := if_pos h

theorem State.cfgLatch_same {s : State} {y : InputNo} {latch : Bool} (h : (s.inputCfg y).latch = latch) :
    s.cfgLatch y latch = s := if_pos h

theorem State.cfgRole_same {s : State} {y : InputNo} {role : InputRole} (h : (s.inputCfg y).role = role) :
    s.cfgRole y role = s := if_pos h

end Sys2Proof.Machine
end

