-- ==== Sys2Proof/Laws/Requests.lean ====
section
/-! SUPPORT. What serving a request comes to, for the port that takes it and for the port that is Held, and that
`State.reset` is what the reset operation leaves of itself. -/

namespace Sys2Proof.Machine

/-- A port that takes the frame: its owner's answer, or NotPermitted. -/
theorem State.serve_of_takes {s : State} {r : Req} (h : s.takes r.port = true) (code : Byte) (permits : Port → Bool)
    (owner : List Byte → State → State × Reply) :
    s.serve r code permits owner =
      if permits r.port then (owner r.body s).1.answered r code (owner r.body s).2.status (owner r.body s).2.body
      else s.answered r code .notPermitted [] := by
  cases hs : (s.port r.port).slot with
  | held a => simp [State.takes, Slot.takes, hs] at h
  | listening => cases hp : permits r.port <;> simp [State.serve, State.answered, answerKind, hs, hp, Reply.refuse]
  | receiving => cases hp : permits r.port <;> simp [State.serve, State.answered, answerKind, hs, hp, Reply.refuse]

/-- A Held port discards the frame (R172). -/
theorem State.serve_of_held {s : State} {r : Req} (h : s.takes r.port = false) (code : Byte) (permits : Port → Bool)
    (owner : List Byte → State → State × Reply) : s.serve r code permits owner = s := by
  cases hs : (s.port r.port).slot with
  | held a => simp [State.serve, hs]
  | listening => simp [State.takes, Slot.takes, hs] at h
  | receiving => simp [State.takes, Slot.takes, hs] at h

/-- R183: the image of a whole writing is good, whatever its check's computation gives. -/
theorem wholeImage_good (c : Settings) : (wholeImage c).good = true := by simp [wholeImage, Image.good]

/-- R183: start-up loads what a whole writing holds. -/
theorem wholeImage_load (c : Settings) : (wholeImage c).load = c := by
  unfold Image.load
  rw [wholeImage_good]
  rfl

set_option maxRecDepth 20000 in
/-- `State.reset` has gone through start-up and the first selection: a reset of it changes nothing. -/
theorem reset_is_startUp : State.doReset State.reset = State.reset := by
  have hi : State.reset.imageAfterReset = wholeImage Settings.factory := rfl
  unfold State.doReset
  rw [hi]
  unfold State.endStartUp State.resetTo
  dsimp only
  rw [wholeImage_good, wholeImage_load]
  rfl

end Sys2Proof.Machine
end

