-- ==== Sys2Proof/Laws/SameRecords.lean ====
section
/-! SUPPORT. What the dealings of the Allocator, the Feeder unit and the Line controller between events leave alone: the
orders, the waiting line, the states and bindings of the bays, the settings, the stored caps and the ranking. So they keep
every bay's eligibility and the agreement of the records (R6), and what is left of the target laws (R103) is the targets. -/

namespace Sys2Proof.Machine

/-- The records that the eligibility of a bay, its order and its place in a round rest on are the same. -/
structure SameRecords (s t : State) : Prop where
  roster : t.roster = s.roster
  waitingLine : t.waitingLine = s.waitingLine
  state : ∀ b, (t.bay b).state = (s.bay b).state
  bound : ∀ b, (t.bay b).boundOrder = (s.bay b).boundOrder
  working : t.store.working = s.store.working
  caps : t.alloc.caps = s.alloc.caps
  ranking : t.alloc.ranking = s.alloc.ranking

theorem SameRecords.refl (s : State) : SameRecords s s := ⟨rfl, rfl, fun _ => rfl, fun _ => rfl, rfl, rfl, rfl⟩

theorem SameRecords.trans {s t u : State} (h : SameRecords s t) (k : SameRecords t u) : SameRecords s u :=
  ⟨k.roster.trans h.roster, k.waitingLine.trans h.waitingLine, fun b => (k.state b).trans (h.state b),
    fun b => (k.bound b).trans (h.bound b), k.working.trans h.working, k.caps.trans h.caps, k.ranking.trans h.ranking⟩

theorem SameRecords.foldl {α : Type} {f : State → α → State} (h : ∀ s x, SameRecords s (f s x)) (l : List α) (s : State) :
    SameRecords s (l.foldl f s) := by
  induction l generalizing s with
  | nil => exact .refl s
  | cons x xs ih => exact (h s x).trans (ih (f s x))

/-- An update of none of these parts. -/
theorem SameRecords.of_same {s t : State} (h1 : t.roster = s.roster) (h2 : t.waitingLine = s.waitingLine)
    (h3 : t.bays = s.bays) (h4 : t.store = s.store) (h5 : t.alloc.caps = s.alloc.caps)
    (h6 : t.alloc.ranking = s.alloc.ranking) : SameRecords s t :=
  ⟨h1, h2, fun b => by unfold State.bay; rw [h3], fun b => by unfold State.bay; rw [h3], by rw [h4], h5, h6⟩

/-! ### What follows -/

theorem SameRecords.order? {s t : State} (h : SameRecords s t) (tag : Nat) : t.order? tag = s.order? tag := by
  unfold State.order?
  rw [h.roster]

theorem SameRecords.orderOf? {s t : State} (h : SameRecords s t) (b : BayNo) : t.orderOf? b = s.orderOf? b := by
  unfold State.orderOf?
  rw [h.bound b]
  cases (s.bay b).boundOrder with
  | none => rfl
  | some tag => exact h.order? tag

/-- R88: eligibility rests on the records alone. -/
theorem SameRecords.eligible {s t : State} (h : SameRecords s t) (b : BayNo) : t.eligible b = s.eligible b := by
  unfold State.eligible State.liveOrder?
  rw [h.state b, h.orderOf? b]

theorem SameRecords.cap {s t : State} (h : SameRecords s t) (b : BayNo) : t.cap b = s.cap b := by
  unfold State.cap
  rw [h.caps]

theorem SameRecords.rating {s t : State} (h : SameRecords s t) (b : BayNo) : t.rating b = s.rating b := by
  unfold State.rating State.cfg
  rw [h.working]

/-- R6: the records agree afterwards when they agreed before. -/
theorem SameRecords.recordsRight {s t : State} (h : SameRecords s t) (k : s.recordsRight) : t.recordsRight := by
  obtain ⟨k1, k2, k3, k4⟩ := k
  refine ⟨?_, ?_, ?_, ?_⟩
  · simpa only [State.rosterInOrder, h.roster] using k1
  · simpa only [State.keysUnique, h.roster] using k2
  · intro b tag hb
    rw [h.bound b] at hb
    rw [h.roster]
    exact k3 b tag hb
  · simpa only [State.waitingLineRight, h.roster, h.waitingLine] using k4

/-! ### Primitive updates -/

theorem State.updLineBay_records (s : State) (b : BayNo) (f : LineBay → LineBay) : SameRecords s (s.updLineBay b f) :=
  .of_same rfl rfl rfl rfl rfl rfl

theorem State.line_records (s : State) (l : LineCtl) : SameRecords s { s with line := l } :=
  .of_same rfl rfl rfl rfl rfl rfl

theorem State.feeder_records (s : State) (f : Feeder) : SameRecords s { s with feeder := f } :=
  .of_same rfl rfl rfl rfl rfl rfl

theorem State.withTarget_records (s : State) (b : BayNo) (v : Nat) : SameRecords s (s.withTarget b v) :=
  .of_same rfl rfl rfl rfl rfl rfl

theorem State.withLimit_records (s : State) (b : BayNo) (v : Option Nat) : SameRecords s (s.withLimit b v) :=
  .of_same rfl rfl rfl rfl rfl rfl

theorem State.runTo_records (s : State) (t : Nat) : SameRecords s (s.runTo t) := .of_same rfl rfl rfl rfl rfl rfl

theorem State.freeLine_records (s : State) : SameRecords s s.freeLine := .of_same rfl rfl rfl rfl rfl rfl

theorem State.carry_records (s : State) (b : BayNo) (x : Exchange) (r : Bool) : SameRecords s (s.carry b x r) :=
  .of_same rfl rfl rfl rfl rfl rfl

theorem State.withSlot_records (s : State) (p : Port) (x : Slot) : SameRecords s (s.withSlot p x) := by
  cases p <;> exact .of_same rfl rfl rfl rfl rfl rfl

theorem State.append_records (s : State) (k : EventKind) (x : Option Subject) (e : Edge) : SameRecords s (s.append k x e) := by
  unfold State.append
  split <;> exact .of_same rfl rfl rfl rfl rfl rfl

/-- An update of a bay's record that keeps its state and its bound order. -/
theorem State.updBay_records (s : State) (b : BayNo) (f : BayRec → BayRec) (h1 : ∀ r, (f r).state = r.state)
    (h2 : ∀ r, (f r).boundOrder = r.boundOrder) : SameRecords s (s.updBay b f) := by
  refine ⟨rfl, rfl, fun c => ?_, fun c => ?_, rfl, rfl, rfl⟩ <;> by_cases hc : c = b
  · subst hc
    rw [State.bay_updBay, h1]
  · rw [State.bay_updBay_ne _ _ hc]
  · subst hc
    rw [State.bay_updBay, h2]
  · rw [State.bay_updBay_ne _ _ hc]

/-! ### Between rounds -/

theorem State.reconcile_records (s : State) (b : BayNo) : SameRecords s (s.reconcile b) := by
  unfold State.reconcile
  dsimp only
  split
  · split
    · exact s.updLineBay_records b _
    · split
      · exact s.updLineBay_records b _
      · exact .of_same rfl rfl rfl rfl rfl rfl
  · exact .refl s

theorem State.setTarget_records (s : State) (b : BayNo) (v : Nat) : SameRecords s (s.setTarget b v) := by
  unfold State.setTarget
  split
  · exact .refl s
  · exact (s.withTarget_records b v).trans (State.reconcile_records _ b)

theorem State.trimBay_records (s : State) (b : BayNo) : SameRecords s (s.trimBay b) := by
  unfold State.trimBay
  split
  · exact .refl s
  · exact s.setTarget_records b _

theorem State.trimCheck_records (s : State) : SameRecords s s.trimCheck := .foldl State.trimBay_records _ s

theorem State.leaveEligibility_records (s : State) (was : Bool) (b : BayNo) : SameRecords s (s.leaveEligibility was b) := by
  unfold State.leaveEligibility
  split
  · exact (s.setTarget_records b 0).trans (State.trimCheck_records _)
  · exact .refl s

theorem State.heldCheck_records (s : State) : SameRecords s s.heldCheck := by
  unfold State.heldCheck
  split
  · exact (s.feeder_records _).trans (State.append_records _ _ _ _)
  · exact s.feeder_records _
  · exact .refl s

theorem State.noteExposure_records (s : State) (b : BayNo) (before : Nat) : SameRecords s (s.noteExposure b before) := by
  unfold State.noteExposure
  dsimp only
  split
  · exact .refl s
  · split
    · exact s.heldCheck_records.trans (State.trimCheck_records _)
    · exact s.heldCheck_records

theorem State.refusedIncrease_records (s : State) (b : BayNo) : SameRecords s (s.refusedIncrease b) := by
  unfold State.refusedIncrease
  dsimp only
  split
  · exact (s.withLimit_records b _).trans (State.setTarget_records _ b _)
  · exact s.withLimit_records b _

theorem State.recomputeCeiling_records (s : State) : SameRecords s s.recomputeCeiling := by
  unfold State.recomputeCeiling
  dsimp only
  split
  · exact (s.feeder_records _).trans (State.trimCheck_records _)
  · exact s.feeder_records _

/-! ### Inputs -/

theorem State.handRole_records (s : State) (role : InputRole) : SameRecords s (s.handRole role) := by
  cases role
  · exact .refl s
  · simp only [State.handRole, State.handStop]
    split
    · exact .refl s
    · exact (s.feeder_records _).trans (State.recomputeCeiling_records _)
  · simp only [State.handRole, State.handDerate]
    split
    · exact .refl s
    · exact (s.feeder_records _).trans (State.recomputeCeiling_records _)

theorem State.roleEvent_records (s : State) (role : InputRole) (y : InputNo) (e : Edge) :
    SameRecords s (s.roleEvent role y e) := by
  cases role
  · exact s.append_records _ _ _
  · exact s.append_records _ _ _
  · exact .refl s

theorem State.actRole_records (s : State) (y : InputNo) (e : Edge) : SameRecords s (s.actRole y e) :=
  (s.roleEvent_records _ y e).trans (State.handRole_records _ _)

theorem State.updInput_records (s : State) (y : InputNo) (f : InputState → InputState) : SameRecords s (s.updInput y f) :=
  .of_same rfl rfl rfl rfl rfl rfl

theorem State.setFiltered_records (s : State) (y : InputNo) (active : Bool) : SameRecords s (s.setFiltered y active) := by
  unfold State.setFiltered
  dsimp only
  split
  · exact s.updInput_records y _
  · split
    · exact ((s.updInput_records y _).trans (State.updInput_records _ y _)).trans (State.actRole_records _ y _)
    · exact (s.updInput_records y _).trans (State.actRole_records _ y _)

/-! ### The line -/

theorem State.withdrawWake_records (s : State) (b : BayNo) : SameRecords s (s.withdrawWake b) :=
  (s.updLineBay_records b _).trans (State.updBay_records _ b _ (fun _ => rfl) (fun _ => rfl))

theorem State.start_records (s : State) (b : BayNo) (x : Exchange) : SameRecords s (s.start b x) :=
  ((s.updLineBay_records b _).trans (State.carry_records _ b x false)).trans (State.noteExposure_records _ b _)

theorem State.resend_records (s : State) (b : BayNo) (o : OpenX) : SameRecords s (s.resend b o) :=
  (s.updLineBay_records b _).trans (State.carry_records _ b _ false)

theorem State.repeatSending_records (s : State) (b : BayNo) (x : Exchange) : SameRecords s (s.repeatSending b x) :=
  (s.updLineBay_records b _).trans (State.carry_records _ b x true)

theorem State.startPending_records (s : State) (b : BayNo) (v : Nat) : SameRecords s (s.startPending b v) :=
  (s.updLineBay_records b _).trans (State.start_records _ b _)

theorem State.serveRetry_records (s : State) : SameRecords s s.serveRetry := by
  unfold State.serveRetry
  split
  · split
    · exact s.resend_records _ _
    · exact .refl s
  · exact .refl s

theorem State.serveDecrease_records (s : State) : SameRecords s s.serveDecrease := by
  unfold State.serveDecrease
  split
  · split
    · exact s.startPending_records _ _
    · exact .refl s
  · exact .refl s

theorem State.serveItem_records (s : State) (i : ServiceItem) : SameRecords s (s.serveItem i) := by
  unfold State.serveItem
  split
  · exact .refl s
  · split
    · split
      · split
        · exact (s.updLineBay_records i.bay _).trans (State.start_records _ _ _)
        · exact s.withdrawWake_records _
      · exact .refl s
    · split
      · split
        · exact (s.updLineBay_records i.bay _).trans (State.start_records _ _ _)
        · exact .refl s
      · exact .refl s

theorem State.serveIncrease_records (s : State) : SameRecords s s.serveIncrease := by
  unfold State.serveIncrease
  split
  · split
    · exact s.startPending_records _ _
    · exact .refl s
  · exact .refl s

theorem State.serveKeepAlive_records (s : State) : SameRecords s s.serveKeepAlive := by
  unfold State.serveKeepAlive
  split
  · exact s.start_records _ _
  · exact .refl s

theorem State.serveProbe_records (s : State) : SameRecords s s.serveProbe := by
  unfold State.serveProbe
  split
  · split
    · exact (s.line_records _).trans (State.start_records _ _ _)
    · exact .refl s
  · exact .refl s

theorem State.servePoll_records (s : State) : SameRecords s s.servePoll := by
  unfold State.servePoll
  split
  · exact (s.line_records _).trans (State.start_records _ _ _)
  · exact (s.line_records _).trans (State.serveProbe_records _)

theorem State.ifFree_records (s : State) {f : State → State} (h : ∀ t, SameRecords t (f t)) : SameRecords s (s.ifFree f) := by
  unfold State.ifFree
  split
  · exact .refl s
  · exact h s

/-- R134: a selection. -/
theorem State.settle_records (s : State) : SameRecords s s.settle :=
  s.ifFree_records (fun t => ((((((t.ifFree_records State.serveRetry_records).trans
    (State.ifFree_records _ State.serveDecrease_records)).trans
    (State.ifFree_records _ (fun u => .foldl State.serveItem_records _ u))).trans
    (State.ifFree_records _ State.serveIncrease_records)).trans (State.ifFree_records _ State.serveKeepAlive_records)).trans
    (State.ifFree_records _ State.serveProbe_records)).trans (State.ifFree_records _ State.servePoll_records))

theorem State.count_records (s : State) (b : BayNo) (o : PostOutcome) : SameRecords s (s.count b o) := by
  unfold State.count
  split
  · exact s.updLineBay_records b _
  · exact .refl s

theorem State.endExchange_records (s : State) (b : BayNo) : SameRecords s (s.endExchange b) :=
  (s.updLineBay_records b _).trans (State.freeLine_records _)

end Sys2Proof.Machine
end

