-- ==== Sys2Proof/WellFormed.lean ====
section
/-! DEFINITION. Which commands can arrive at all. A command that is not well formed stands for no arrival the manual
describes; the machine is total on it all the same, and every meaning's docstring says what it then does. -/

namespace Sys2Proof

/-- The length byte counts the sequence byte, the kind byte and the body, and is at most 255 (R170). -/
def Req.wellFormed (r : Req) : Bool := r.body.length ≤ 253

/-- The commands that can arrive: request bodies that fit a frame, a ClearLatch under the row its selector names
(R69, R165), an unknown request whose code is outside the catalogue (R173), a bad length byte below 2 (R170), and a
post status that is a valid answer (R127). -/
def Instr.wellFormed : Instr → Bool
  | .readIdentity r | .readOrder r | .listRoster r | .readBay r | .readFeeder r | .readTable r | .readSetting r
  | .peekCompletions r | .takeEvents r | .setAttention r | .setClock r | .addOrder r | .amendOrder r | .cancelOrder r
  | .releaseVan r | .takeCompletions r | .reallocate r | .setCeiling r | .reportMeter r | .setTariff r | .holdDepot r
  | .resumeDepot r | .clearBay r | .retryAdmission r | .setOverride r | .writeTable r | .writeSetting r
  | .storeSettings r | .restart r => r.wellFormed
  | .clearLatchFeeder r => r.wellFormed && r.body.headD 0 == 0
  | .clearLatchInput r => r.wellFormed && r.body.headD 0 != 0
  | .unknownRequest r kind => r.wellFormed && !Machine.isCatalogueCode kind
  | .badLength _ len => len.toNat < 2
  | .postStatus _ st => Machine.statusValid st
  | .frameCheckFail _ | .frameGap _ _ | .answerEnd _ | .reset _ | .roundTimerExpiry | .staleTimerExpiry
  | .admissionTimerExpiry _ | .dormancyExpiry _ | .wakeWindowExpiry _ | .answerWindowExpiry | .deferRetryDue _
  | .keepAliveDue _ | .probeSpacingEnd | .filterTimerExpiry _ | .lineChange _ _ | .commitEnd _ | .grantOutcome _ _
  | .wakeOutcome _ _ | .unlockOutcome _ _ | .deferAnswer _ | .startByte _ => true

end Sys2Proof
end

