-- ==== Sys2Proof/Tests/Slice0.lean ====
section
/-! SUPPORT. The author's tests: what WellFormed refuses, small examples of the rules, and for every statement that has
hypotheses a state and operands that meet them. -/

namespace Sys2Proof.Tests

open Sys2Proof.Machine

set_option maxRecDepth 20000

/-! ### Small states -/

def req (p : Port) (body : List Byte) : Req := ⟨p, 7, body⟩

/-- A Charging order with departure at depot time 36,000 s. -/
def van (tag key : Nat) (st : OrderState) (bay : Option BayNo) : Order where
  tag := tag
  key := key
  departure := 36000
  targetSoc := 80
  conditioning := .none
  lead := 0
  wakePermitted := true
  cls := .standard
  assigned := none
  state := st
  boundBay := bay
  atRisk := false
  deferred := false
  wakeFailed := false
  begun := false
  released := false
  outcome := none
  delivered := 0
  carried := 0
  addedAt := .clockUnset
  closedAt := none
  finalSoc := none

/-- The machine after reset with one change of its parts. -/
def waiting : State := { State.reset with roster := [van 1 5 .waiting none] }

/-- Bay 1 in a state, with pack data at 40 %, 20 degrees, 1,000 x 0.1 kWh. -/
def inBay (st : BayState) : State :=
  State.reset.updBay 0 (fun r => { r with
    state := st, identity := some 5, pack := some ⟨40, 20, 1000⟩, limit := 50, plugIn := true, lastFrame := some 0 })

/-- Bay 1 in a state with an order bound to it in a state, and the depot clock at 1,000 s. -/
def served (st : BayState) (os : OrderState) : State :=
  let s := (inBay st).updBay 0 (fun r => { r with boundOrder := some 1 })
  { s with roster := [van 1 5 os (some 0)], alloc := { s.alloc with clock := some ⟨1000, 0⟩ } }

/-- An exchange of bay 1 of a bound van on the line, in its first or its repeated window. -/
def onLine (x : Exchange) (repeated : Bool) : State :=
  let s := served .bound .charging
  { s with
    line := { s.line with
      carrying := some ⟨0, x, 50, repeated, false⟩
      bays := s.line.bays.set 0 { LineBay.reset with opn := some ⟨x, none, 0, 0⟩ } } }

/-- The line free, and bay 1's line record as given. -/
def freeLine (l : LineBay) : State :=
  let s := served .bound .charging
  { s with line := { s.line with carrying := none, bays := (Vector.replicate 24 LineBay.reset).set 0 l } }

def heldSlot : State := State.reset.withSlot .planner (.held ⟨7, 0x81, .done, []⟩)

def nextOf : Host.Outcome State Fault Refusal → State
  | .next t => t
  | .fault _ => State.reset
  | .refused _ => State.reset

/-! ### WellFormed -/

theorem test_wf_body_too_long : (Instr.readIdentity (req .planner (List.replicate 254 0))).wellFormed = false := by decide
theorem test_wf_body_fits : (Instr.setTariff (req .site (List.replicate 253 0))).wellFormed = true := by decide
theorem test_wf_feeder_selector : (Instr.clearLatchFeeder (req .service [1])).wellFormed = false := by decide
theorem test_wf_input_selector : (Instr.clearLatchInput (req .service [0])).wellFormed = false := by decide
theorem test_wf_known_kind : (Instr.unknownRequest (req .site []) 0x1E).wellFormed = false := by decide
theorem test_wf_unknown_kind : (Instr.unknownRequest (req .site []) 0x1F).wellFormed = true := by decide
theorem test_wf_good_length : (Instr.badLength .planner 2).wellFormed = false := by decide
theorem test_wf_bad_length : (Instr.badLength .planner 1).wellFormed = true := by decide
theorem test_wf_status_out_of_range : (Instr.postStatus 0 ⟨true, 256, 0, 0, none⟩).wellFormed = false := by decide
theorem test_wf_status_with_plug_out : (Instr.postStatus 0 ⟨false, 0, 0, 0, none⟩).wellFormed = true := by decide

/-! ### Small examples of the rules -/

theorem test_temperature_index : [tempIndex (-40), tempIndex (-29), tempIndex (-28), tempIndex 21, tempIndex 85] =
    [0, 0, 1, 25, 40] := by decide

/-- The check of the nine digits is the well-known residue of this generator from all ones (R171). -/
theorem test_frame_check : frameCheck [0x31, 0x32, 0x33, 0x34, 0x35, 0x36, 0x37, 0x38, 0x39] = 0x29B1 := by decide

theorem test_request_frame : (requestFrame (req .planner [0, 5]) 0x02).take 6 = [0xA5, 4, 7, 2, 0, 5] := by decide

theorem test_start_byte : (nextOf (exec (.startByte .site) State.reset)).site.slot = .receiving := by decide

theorem test_wrong_role : (nextOf (exec (.setClock (req .site [0, 0, 3, 232])) State.reset)).site.slot =
    .held ⟨7, 0x8B, .notPermitted, []⟩ := by decide

theorem test_clock_set : (nextOf (exec (.setClock (req .planner [0, 0, 3, 232])) State.reset)).now? = some 1000 := by decide

theorem test_add_order : (nextOf (exec (.addOrder (req .planner [0, 1, 0, 0, 0, 5, 0, 0, 140, 160, 80, 0, 0, 1, 1, 0]))
    State.reset)).roster.map (fun o => o.tag) = [1] := by decide

theorem test_cancel_waiting : (nextOf (exec (.cancelOrder (req .planner [0, 1])) waiting)).log.map (fun c => c.outcome) =
    [.cancelled] := by decide

theorem test_ceiling : (nextOf (exec (.setCeiling (req .site [0, 90])) State.reset)).feeder.effective = 90 := by decide

theorem test_meter_alarm : (nextOf (exec (.reportMeter (req .site [1, 194])) State.reset)).feeder.cut = 30 := by decide

theorem test_hold : (nextOf (exec (.holdDepot (req .service [])) State.reset)).feeder.hold = .held := by decide

theorem test_reallocate_gives_power :
    (nextOf (exec (.reallocate (req .planner [])) (served .bound .charging))).target 0 = 50 := by decide

theorem test_grant_accepted : ((nextOf (exec (.grantOutcome 0 .accept) (onLine (.grant 20) false))).lineBay 0).held = 20 := by
  decide

theorem test_poll_attaches : ((nextOf (exec (.postStatus 0 ⟨true, 0, 10, 50, none⟩) State.reset)).bay 0).state = .attached := by
  decide

theorem test_stop_input : (nextOf (exec (.lineChange 0 true)
    (State.reset.withInputCfg 0 ⟨.stop, true, .ms0, false⟩))).feeder.effective = 0 := by decide

theorem test_commit : (nextOf (exec (.commitEnd true) (nextOf (exec (.storeSettings (req .service [])) State.reset)))).events =
    ⟨[⟨.storeDone, none, .raised, .elapsed 0⟩], false⟩ := by decide

theorem test_idle_runs_time : (nextOf (step State.reset)).elapsed = 1 := by decide

/-! ### Witnesses of the statements' hypotheses -/

/-- EmptyQueueLetsTimeRun: an expiry that is due, and none. -/
theorem test_w_idle : { State.reset with elapsed := 50 }.pending = [] ∧
    { State.reset with elapsed := 50 }.dueCommand = some .answerWindowExpiry ∧ State.reset.pending = [] ∧
    { State.reset with elapsed := 49 }.dueCommand = none := by decide

/-- The StepKeeps statements of Lawful's laws: a step from a state that meets them, with an order and a command
waiting. -/
theorem test_w_laws : { waiting with pending := [.startByte .site] }.collectionsBounded ∧
    { waiting with pending := [.startByte .site] }.attentionRight ∧ { waiting with pending := [.startByte .site] }.ceilingRight ∧
    { waiting with pending := [.startByte .site] }.conditionsRight ∧ { waiting with pending := [.startByte .site] }.tariffInOrder ∧
    { waiting with pending := [.startByte .site] }.rosterInOrder := by decide

/-- StepKeepsOrderRecords, StepKeepsTargetLaws: a state with a bound order and a target meets both laws. -/
theorem test_w_targets :
    let s := nextOf (exec (.reallocate (req .planner [])) (served .bound .charging))
    s.recordsRight ∧ s.targetsRight ∧ s.target 0 = 50 := by decide

/-- StepKeepsOrderRecords: a full log, and a Closed order in the waiting line with the key of another order. -/
theorem test_w_records :
    let s := { State.reset with
      roster := [van 1 5 .closed none, van 2 5 .waiting none]
      waitingLine := [1]
      log := List.replicate 32 (van 2 6 .closed none).completion }
    s.recordsRight := by decide

/-- StepKeepsTargetLaws: under a hold, and with a stranded exposure of 200 under a ceiling of 150. -/
theorem test_w_target_laws :
    let s := nextOf (exec (.holdDepot (req .service [])) State.reset)
    let t := State.reset.updLineBay 3 (fun l => { l with held := 200 })
    s.feeder.hold ≠ .running ∧ s.ceilingRight ∧ s.targetsRight ∧ t.feeder.effective < t.stranded ∧ t.targetsRight := by
  decide

theorem test_w_laws_step : ∃ t, step { waiting with pending := [.startByte .site] } = .next t := ⟨_, rfl⟩

/-- ResetClearsEveryUnit: with a commit in flight and without one. -/
theorem test_w_reset : State.reset.store.commit = none ∧ State.reset.beginCommit.store.commit = some ⟨Settings.factory, 600⟩ := by
  decide

/-- ResetClearsEveryUnit: with no bay enabled the line stays free, and the probe is owed. -/
theorem test_w_reset_disabled :
    let s := State.reset.withWorking { Settings.factory with enabled := Vector.replicate 24 false }
    let t := State.settle { s with line := LineCtl.reset }
    allBays.find? t.enabled = none ∧ t.line = LineCtl.reset := by decide

/-- FrameBytesMoveTheSlot: the three slots, both boundary lengths, and a request on a Held port. -/
theorem test_w_frames : heldSlot.takes .planner = false ∧ State.reset.planner.slot = .listening ∧
    (State.reset.withSlot .planner .receiving).planner.slot = .receiving ∧ (1 : Byte).toNat < 2 ∧ 2 ≤ (2 : Byte).toNat ∧
    (Instr.readIdentity (req .planner [])).request? = some (0x01, req .planner []) := by decide

/-- AnswerEndFreesTheSlotOrRestarts: an answer that restarts nothing, a port without one, and a Restart. -/
theorem test_w_answer_end : (heldSlot.port .planner).slot = .held ⟨7, 0x81, .done, []⟩ ∧
    ¬ ((0x81 : Byte) = 0x9E ∧ Status.done = Status.done) ∧ State.reset.takes .service = true ∧
    (req .service []).port = .service ∧ (req .service []).body = [] := by decide

/-- RoleTableIsKept, RefusedRequestChangesNothing: a barred and a permitted request. -/
theorem test_w_roles : (Instr.setClock (req .site [])).request? = some (0x0B, req .site []) ∧
    State.reset.takes .site = true ∧ Port.site ∉ rolesOf 0x0B ∧ Port.planner ∈ rolesOf 0x0B ∧
    Port.service ∈ rolesOf 0x1E ∧ Port.planner ∉ rolesOf 0x1E := by decide

/-- RoleTableIsKept: a SetAttention answers a next state, and the other ports are there. -/
theorem test_w_roles_mask : Port.planner ≠ (req .site [63, 1]).port ∧
    ∃ t, exec (.setAttention (req .site [63, 1])) State.reset = .next t := ⟨by decide, _, rfl⟩

/-- UnknownKindOrLengthIsBadValue: each way to be of a wrong length. -/
theorem test_w_lengths : State.reset.takes .planner = true ∧ Port.planner ∈ rolesOf 0x02 ∧ bodySize 0x02 = some 2 ∧
    (req .planner [1]).body.length ≠ 2 ∧ (req .site []).body = [] ∧ (req .site [1, 2]).body = 1 :: [2] ∧
    [(2 : Byte)].length ≠ 9 * (1 : Byte).toNat ∧ Port.site ∈ rolesOf 0x14 := by decide

/-- ReadIdentityAnswers and the other requests with an empty body. -/
theorem test_w_empty_body : State.reset.takes .planner = true ∧ (req .planner []).body = [] ∧ (req .planner []).port ≠ .site ∧
    (req .planner []).port ≠ .service ∧ State.reset.takes .site = true ∧ State.reset.takes .service = true := by decide

/-- RosterReadsAnswer: an order that is there, one that is not, and the range of a start position. -/
theorem test_w_roster : waiting.order? (val16 0 1) = some (van 1 5 .waiting none) ∧ waiting.order? (val16 0 2) = none ∧
    (req .site [0, 1]).body = [0, 1] ∧ (req .site [40]).body = [40] ∧ (40 : Byte).toNat ≤ 40 ∧ ¬ 1 ≤ (0 : Byte).toNat ∧
    { State.reset with roster := [van 2 6 .waiting none, van 1 5 .waiting none] }.roster =
      [van 2 6 .waiting none] ++ van 1 5 .waiting none :: [] ∧ (∀ x ∈ [van 2 6 .waiting none], x.tag ≠ 1) := by decide

/-- BayAndFeederReadsAnswer, TechnicianBayRequestsAct: the bays a byte names. -/
theorem test_w_bays : bay? 0 = none ∧ bay? 25 = none ∧ bay? 1 = some 0 ∧ bay? 24 = some 23 ∧ State.reset.takes .planner = true ∧
    (req .planner [24]).body = [24] := by decide

/-- TableAndSettingReadsAnswer: the greatest index and count, one past them, and an unknown setting. -/
theorem test_w_tables : (req .planner [1, 40, 41]).body = [1, 40, 41] ∧ (1 : Byte).toNat ≤ 1 ∧ (40 : Byte).toNat ≤ 40 ∧
    ¬ (42 : Byte).toNat ≤ 41 ∧ settingId? (val16 1 0) = none ∧ settingId? (val16 3 1) = some .postMin := by decide

/-- CompletionsArePeekedAndTaken: a full log with an order waiting for it. -/
theorem test_w_completions :
    let s := { State.reset with
      roster := [van 1 5 .closed none]
      waitingLine := [1]
      log := List.replicate 32 (van 2 6 .closed none).completion }
    s.takes .planner = true ∧ s.log.length ≤ 32 ∧ (s.waitingLine ≠ [] → s.log.length = 32) ∧ s.waitingLine.Nodup ∧
      ∀ tag ∈ s.waitingLine, (s.order? tag).isSome = true := by decide

/-- AppendOverflows: a queue with room for one and a full one. -/
theorem test_w_append : (List.replicate 15 (⟨.clockSet, none, .raised, .elapsed 0⟩ : EventRec)).length < 16 ∧
    ¬ (List.replicate 16 (⟨.clockSet, none, .raised, .elapsed 0⟩ : EventRec)).length < 16 := by decide

/-- SetAttentionSetsOwnMask: the greatest mask and one past it. -/
theorem test_w_attention : (req .site [63, 1]).body = [63, 1] ∧ (63 : Byte).toNat < 64 ∧ (1 : Byte).toNat ≤ 1 ∧
    ¬ (64 : Byte).toNat < 64 ∧ State.reset.takes .site = true := by decide

/-- ClockIsSetAndRuns: both clocks and the request that sets one. -/
theorem test_w_clock : State.reset.alloc.clock = none ∧ (served .bound .charging).alloc.clock = some ⟨1000, 0⟩ ∧
    State.reset.takes .planner = true ∧ (req .planner [0, 0, 3, 232]).port = .planner ∧
    (req .planner [0, 0, 3, 232]).body = [0, 0, 3, 232] := by decide

/-- AddOrderIsCheckedAndPlaced: a body out of its lists, one within, and each check's boundary. -/
theorem test_w_add : waiting.takes .planner = true ∧ waiting.rosterInOrder ∧ conditioning? 4 = none ∧
    conditioning? 3 = some .both ∧ yesNo? 2 = none ∧ yesNo? 1 = some true ∧ orderClass? 3 = none ∧
    orderClass? 2 = some .spare ∧ optBay? 25 = none ∧ optBay? 24 = some (some 23) ∧ optBay? 0 = some none ∧
    ((served .bound .charging).now?.any (fun now => decide (1000 ≤ now))) = true ∧
    ((served .bound .charging).now?.any (fun now => decide (1001 ≤ now))) = false ∧
    (∃ x ∈ waiting.roster, x.tag = 1) ∧ (∃ x ∈ waiting.roster, x.state ≠ .closed ∧ x.key = 5) := by decide

/-- AmendOrderIsCheckedInOrder: an order too late, one that may be amended, and a field out of its list. -/
theorem test_w_amend : (served .bound .closing).order? (val16 0 1) = some (van 1 5 .closing (some 0)) ∧
    waiting.order? (val16 0 1) = some (van 1 5 .waiting none) ∧ (van 1 5 .waiting none).state ≠ .closing ∧
    (van 1 5 .waiting none).state ≠ .closed ∧ (0xFF : Byte).getLsbD 3 = true ∧ (0 : Byte).getLsbD 3 = false ∧
    conditioning? 9 = none := by decide

/-- AmendOrderActsAndUnbinds: a bound order of the roster, and bays that are and are not Faulted. -/
theorem test_w_unbind : (served .bound .charging).order? 1 = some (van 1 5 .charging (some 0)) ∧
    (served .bound .charging).rosterInOrder ∧ ((served .bound .charging).bay 0).state ≠ .faulted ∧
    ((served .faulted .closing).bay 0).state = .faulted ∧
    ((((served .faulted .closing).unbindBay 0).bay 0).state, (((served .faulted .closing).unbindBay 0).bay 0).boundOrder) =
      (.faulted, none) := by decide

/-- BindingCheckBinds: a bay that holds the van, none that does, and an assigned bay that does not. -/
theorem test_w_binding :
    let s := { inBay .unmatched with roster := [van 1 5 .waiting none] }
    s.order? 1 = some (van 1 5 .waiting none) ∧ (s.bay 0).state = .unmatched ∧ (s.bay 0).identity = some 5 ∧
      (∀ c : BayNo, (s.bay c).state = .unmatched ∧ (s.bay c).identity = some 5 → 0 ≤ c) ∧
      (∀ b : BayNo, ¬ ((waiting.bay b).state = .unmatched ∧ (waiting.bay b).identity = some 5)) ∧
      ¬ ((s.bay 23).state = .unmatched ∧ (s.bay 23).identity = some 5) := by decide

/-- ClosureLogsOrWaits: a log with room and a full one. -/
theorem test_w_closure : waiting.order? 1 = some (van 1 5 .waiting none) ∧ waiting.log.length < 32 ∧ waiting.waitingLine = [] ∧
    ¬ (List.replicate 32 (van 2 6 .closed none).completion).length < 32 := by decide

/-- CancelOrderActs and ReleaseVanActs: an order in each state. -/
theorem test_w_cancel : waiting.order? (val16 0 2) = none ∧ (van 1 5 .closed none).state = .closed ∧
    (served .bound .closing).orderOf? 0 = some (van 1 5 .closing (some 0)) ∧
    (van 1 5 .charging (some 0)).state.live = true ∧ (van 1 5 .ready (some 0)).state.live = true ∧
    (van 1 5 .closing (some 0)).state.isBound = true ∧ (van 1 5 .charging (some 0)).boundBay = some 0 ∧
    { State.reset with roster := [van 1 5 .closed none] }.order? (val16 0 1) = some (van 1 5 .closed none) := by decide

/-- AdmissionFollowsItsSteps: each step of an Admitting bay, the greatest key, the edges of a Pack frame. -/
theorem test_w_admission : ((inBay .attached).bay 0).state = .attached ∧
    (((inBay .admitting).updBay 0 (fun r => { r with step := some .expectLock })).bay 0).step = some .expectLock ∧
    (((inBay .admitting).updBay 0 (fun r => { r with step := some .expectPack })).bay 0).step = some .expectPack ∧
    (((inBay .admitting).updBay 0 (fun r => { r with step := some .expectIdentity })).bay 0).step = some .expectIdentity ∧
    ((inBay .admitting).bay 0).identity = some 5 ∧ frameValid (.identity 4294967295) = true ∧
    frameValid (.pack 100 85 2000) = true ∧ frameValid (.pack 0 (-40) 100) = true := by decide

/-- VanFramesActByBayState: an Unmatched bay with a key and one without, a Dormant and a Waking bay. -/
theorem test_w_frames_by_state : ((inBay .unmatched).bay 0).state = .unmatched ∧ ((inBay .unmatched).bay 0).identity ≠ none ∧
    (((inBay .unmatched).updBay 0 (fun r => { r with identity := none })).bay 0).identity = none ∧
    ((served .dormant .charging).bay 0).state = .dormant ∧ ((served .dormant .charging).bay 0).identity = some 5 ∧
    ((served .waking .charging).bay 0).state = .waking ∧ ((served .waking .charging).bay 0).identity = some 5 ∧
    frameValid (.pack 40 20 1000) = true := by decide

/-- R113: a Lock frame returns a Dormant bay to Bound, a Waking bay stays until a Pack frame. -/
theorem test_dormancy_ends : (((served .dormant .charging).takeFrame 0 (.lock true)).bay 0).state = .bound ∧
    (((served .waking .charging).takeFrame 0 (.lock true)).bay 0).state = .waking ∧
    (((served .waking .charging).takeFrame 0 (.pack 41 20 1000)).bay 0).state = .bound := by decide

/-- VanFramesActByBayState: the admitted key, another one, and both values of the conflict flag. -/
theorem test_w_bound : ((served .bound .charging).bay 0).state = .bound ∧ ((served .bound .charging).bay 0).identity = some 5 ∧
    ((served .bound .charging).bay 0).identity ≠ some 6 ∧ ((served .bound .charging).bay 0).conflict = false ∧
    (((served .bound .charging).updBay 0 (fun r => { r with conflict := true })).bay 0).conflict = true := by decide

/-- RoundRunsAtItsEvents: a running round timer, a stopped one, and both clocks. -/
theorem test_w_round : (served .bound .charging).startRoundTimer.alloc.roundTimer = some 30000 ∧
    State.reset.alloc.roundTimer = none ∧ (served .bound .charging).alloc.clock ≠ none ∧ State.reset.alloc.clock = none ∧
    (served .bound .charging).now? = some 1000 ∧ (served .bound .charging).takes .planner = true := by decide

/-- RoundTakesItsStepsAndSetsTargets: an eligible bay, a reckoned one, one that is neither, and a missed order. -/
theorem test_w_round_steps : (served .bound .charging).eligible 0 = true ∧ (served .dormant .charging).reckoned 0 = true ∧
    (served .bound .closing).eligible 0 = false ∧ (served .bound .charging).roundOrders (fun _ => true) = [(0, 1)] ∧
    (served .bound .charging).orderOf? 0 = some (van 1 5 .charging (some 0)) ∧ State.reset.orderOf? 0 = none ∧
    (waiting.closeMissed 36900).log.map (fun c => c.outcome) = [.missed] ∧ (waiting.closeMissed 36899).log = [] := by decide

/-- RoundMovesPhases: an order that keeps its phase and one that takes another, at the minute its lead is reached. -/
theorem test_w_phases :
    phaseAfter (van 1 5 .charging (some 0)) 10 50 1000 = none ∧ phaseAfter (van 1 5 .charging (some 0)) 0 50 1000 = some .ready ∧
    phaseAfter { van 1 5 .charging (some 0) with conditioning := .cabin, lead := 90 } 10 50 30600 = some .conditioning ∧
    phaseAfter { van 1 5 .charging (some 0) with conditioning := .cabin, lead := 90 } 10 50 30599 = none ∧
    phaseAfter { van 1 5 .ready (some 0) with conditioning := .both, begun := true } 10 50 1000 = some .conditioning := by decide

/-- SlackSetsAtRiskAndDeferred: slack below 0, at the margin and one below it. -/
theorem test_w_slack : (served .bound .charging).order? 1 = some (van 1 5 .charging (some 0)) ∧
    ((served .bound .charging).bay 0).pack = some ⟨40, 20, 1000⟩ ∧ slackOf 100 10 59 0 = -1 ∧ slackOf 100 10 60 0 = 0 ∧ slackOf 0 10 0 0 = 32767 ∧ slackOf 1 0 0 0 = -32768 ∧
    deferredAfter .peak (van 1 5 .charging (some 0)) 60 60 = true ∧
    deferredAfter .peak (van 1 5 .charging (some 0)) 59 60 = false := by decide

/-- WakeDecisionFollowsItsTests: a Dormant bay for 60 s whose van is urgent, and one a millisecond short of it. -/
theorem test_w_wake :
    let s := { (served .dormant .charging).updBay 0 (fun r => { r with dormantSince := some 0 }) with elapsed := 60000 }
    s.order? 1 = some (van 1 5 .charging (some 0)) ∧ s.wakeNeeded 0 { van 1 5 .charging (some 0) with departure := 1100 } 1060 = true ∧
      { s with elapsed := 59999 }.wakeNeeded 0 { van 1 5 .charging (some 0) with departure := 1100 } 1060 = false ∧
      s.feeder.stop = false ∧ s.feeder.hold = .running ∧ (s.bay 0).barred = false ∧ (s.bay 0).dormantSince = some 0 := by decide

/-- DemandFollowsThePhase and PostMinimumRoundsDemand: a demand of 0, one below the post minimum, one at it. -/
theorem test_w_demand :
    let s := served .bound .charging
    0 < s.remaining 0 (van 1 5 .charging (some 0)) ∧ s.rawDemand 0 (van 1 5 .charging (some 0)) = 50 ∧
      s.cfg.postMin ≤ s.rawDemand 0 (van 1 5 .charging (some 0)) ∧ s.rawDemand 0 (van 1 5 .ready (some 0)) = 0 ∧
      (s.updBay 0 (fun r => { r with limit := 3 })).rawDemand 0 (van 1 5 .charging (some 0)) = 3 ∧
      (s.updBay 0 (fun r => { r with limit := 3 })).capOf 0 (van 1 5 .charging (some 0)) < s.cfg.postMin ∧
      s.rawDemand 0 { van 1 5 .ready (some 0) with conditioning := .both, begun := true } < 5 := by decide

/-- PostMinimumRoundsDemand: a heater's demand below the post minimum under a cap above it. -/
theorem test_w_post_minimum :
    let s := (served .bound .charging).withWorking { Settings.factory with cabinHeater := 3 }
    let o := { van 1 5 .ready (some 0) with conditioning := .cabin, begun := true }
    s.rawDemand 0 o = 3 ∧ s.rawDemand 0 o < s.cfg.postMin ∧ s.cfg.postMin ≤ s.capOf 0 o := by decide

/-- TemperatureIndexIsClamped and CapIsTheLeastOfThree: the first and the last entry, and each source of an index. -/
theorem test_w_index : ((-29 : Int) + 30) / 2 = 0 ∧ ((50 : Int) + 30) / 2 = 40 ∧ ((-33 : Int) + 30) / 2 < 0 ∧ 40 < ((52 : Int) + 30) / 2 ∧
    (BayRec.reset.index = 0) ∧ (((inBay .bound).bay 0).index = 25) ∧
    ({ BayRec.reset with ovr := ⟨.manual, some 30, some 40, true⟩ }.index = 40) ∧ (BayRec.reset.index < 41) ∧
    (BayRec.reset.ovr.mode = .table) := by decide

/-- RankingAndWalkKeepTheirRules: two ranked bays of different classes, the first not wholly granted. -/
theorem test_w_walk :
    let ranked : List RankEntry := [⟨0, .standard, 5, 50⟩, ⟨1, .spare, 1, 4⟩]
    (∀ e ∈ ranked, e.demand = 0 ∨ 4 ≤ e.demand) ∧ ranked.Pairwise (fun x y => x.cls.rank ≤ y.cls.rank) ∧
      grantWalk (Vector.replicate 24 none) false 4 ranked 54 true = [(0, 50), (1, 4)] ∧
      grantWalk (Vector.replicate 24 none) false 4 ranked 49 true = [(0, 49), (1, 0)] ∧
      grantWalk (Vector.replicate 24 none) true 4 ranked 53 true = [(0, 50), (1, 0)] ∧
      grantWalk (Vector.replicate 24 (some 46)) true 4 ranked 50 true = [(0, 46), (1, 4)] ∧
      ([((0 : BayNo), 46), (1, 4)].map (fun g => g.1)).Nodup ∧ (2 : BayNo) ∉ [((0 : BayNo), 46), (1, 4)].map (fun g => g.1) := by
  decide

/-- EffectiveCeilingIsComposed: a ceiling held at 0 and one composed of all three inputs. -/
theorem test_w_ceiling : ceilingOf { Feeder.reset with hold := .held } Settings.factory = 0 ∧
    ceilingOf { Feeder.reset with site := some 90, derate := true, cut := 30 } Settings.factory = 60 ∧
    Feeder.reset.hold = .running ∧ Feeder.reset.stop = false := by decide

/-- CeilingFallTrimsTargets: a ranked bay with a target above the available power. -/
theorem test_w_trim :
    let s := nextOf (exec (.reallocate (req .planner [])) (served .bound .charging))
    let t := { s with feeder := { s.feeder with effective := 20 } }
    ¬ t.eligibleTargets ≤ t.available ∧ (∀ b : BayNo, t.eligible b = true → 0 < t.target b → b ∈ t.alloc.ranking) ∧
      t.trimCheck.target 0 = 20 := by decide

/-- SiteReportsAct: the greatest ceiling and load, and one past each. -/
theorem test_w_site : val16 7 208 = 2000 ∧ 2000 < val16 7 209 ∧ val16 15 160 = 4000 ∧ 4000 < val16 15 161 ∧
    State.reset.takes .site = true ∧ (req .site [7, 208]).port = .site ∧ (req .site [7, 208]).body = [7, 208] := by decide

/-- SetTariffReplacesTheList: two windows that touch pass, two that overlap do not, and nine are too many. -/
theorem test_w_tariff :
    let ws : List Window := [⟨10, 20, .peak⟩, ⟨0, 10, .low⟩]
    ws.length ≤ 8 ∧ (∀ w ∈ ws, w.start < 4294967296 ∧ w.stop < 4294967296) ∧ (∀ w ∈ ws, w.band ≠ .normal ∧ w.start < w.stop) ∧
      ws.Pairwise (fun v w => v.stop ≤ w.start ∨ w.stop ≤ v.start) ∧
      ¬ ([⟨10, 20, .peak⟩, ⟨0, 11, .low⟩] : List Window).Pairwise (fun v w => v.stop ≤ w.start ∨ w.stop ≤ v.start) ∧
      ((served .bound .charging).setTariff [⟨1000, 1001, .low⟩]).band = .low ∧
      ((served .bound .charging).setTariff [⟨999, 1000, .low⟩]).band = .normal ∧
      ((served .bound .charging).setTariff [⟨1000, 1001, .low⟩]).tariffInOrder ∧ State.reset.now? = none ∧
      8 < (9 : Byte).toNat ∧ (req .site (byte ws.length :: ws.flatMap Window.bytes)).body = 2 :: ws.flatMap Window.bytes := by
  decide

/-- DepotHoldsAndResumes: each hold state, quiet and not. -/
theorem test_w_hold : State.reset.feeder.hold = .running ∧
    { Feeder.reset with hold := .draining }.hold ≠ .running ∧ (∀ b : BayNo, State.reset.exposure b = 0) ∧
    (freeLine { LineBay.reset with held := 1 }).exposure 0 = 1 ∧
    ((freeLine { LineBay.reset with held := 1 }).bay 0).state ≠ .faulted := by decide

/-- ClearLatchActs: the greatest selector and one past it, and an input in each state. -/
theorem test_w_latch : (6 : Byte).toNat = (5 : InputNo).val + 1 ∧ 6 < (7 : Byte).toNat ∧ (State.reset.input 5).active = false ∧
    (State.reset.input 5).latched = false ∧
    ((State.reset.updInput 5 (fun i => { i with latched := true })).input 5).latched = true ∧
    ((State.reset.updInput 5 (fun i => { i with active := true })).input 5).active = true ∧
    State.reset.takes .service = true := by decide

/-- TechnicianBayRequestsAct: an Unmatched bay, one that is not, and an override at its greatest values and past them. -/
theorem test_w_technician : ((inBay .unmatched).bay 0).state = .unmatched ∧ ((inBay .attached).bay 0).state ≠ .unmatched ∧
    override? 1 60 40 1 = some ⟨.manual, some 60, some 40, true⟩ ∧ override? 1 0xFF 40 1 = none ∧ override? 0 61 0 0 = none ∧
    override? 0 0xFF 0xFF 0 = some ⟨.table, none, none, false⟩ := by decide

/-- TablesAndSettingsAreWritten: values at their limits and past them, and a commit in flight. -/
theorem test_w_settings : State.reset.beginCommit.store.commit ≠ none ∧ State.reset.store.commit = none ∧
    settingValue? .postMin 0 0 0 10 = some (.num 10) ∧ settingValue? .postMin 0 0 0 11 = none ∧
    settingId? (val16 3 1) = some .postMin ∧ settingId? 0 = none ∧ (100 : Byte).toNat ≤ 100 ∧ ¬ (101 : Byte).toNat ≤ 100 ∧
    (40 : Byte).toNat < 41 ∧ 49 < State.reset.rating 0 ∧ State.reset.rating 0 ≤ 50 ∧ State.reset.cfg.postMin < 5 ∧
    (State.reset.applySetting (.enabled 3) (.flag false)).enabled 3 = false := by decide

/-- TablesAndSettingsAreWritten: the greatest input configuration and mask, and one past each. -/
theorem test_w_setting_values : settingValue? (.input 5) 2 1 3 1 = some (.input ⟨.derate, false, .ms500, true⟩) ∧
    settingValue? (.input 5) 3 1 3 1 = none ∧ settingValue? (.mask .site) 63 1 9 9 = some (.mask ⟨63, true⟩) ∧
    settingValue? (.mask .site) 64 1 0 0 = none ∧ settingValue? (.rating 0) 0 0 0 7 = some (.num 7) ∧
    settingValue? (.rating 0) 0 0 0 6 = none ∧ settingValue? (.enabled 0) 0 0 0 1 = some (.flag true) ∧
    settingValue? (.enabled 0) 0 0 0 2 = none := by decide

/-- TablesAndSettingsAreWritten: an input configuration that changes each part, of an input in force and latched. -/
theorem test_w_reconfigure :
    let s := (State.reset.withInputCfg 0 ⟨.stop, true, .ms0, true⟩).updInput 0 (fun i => { i with active := true, latched := true })
    false ≠ (s.inputCfg 0).activeHigh ∧ (s.inputCfg 0).latch = true ∧ InputRole.event ≠ (s.inputCfg 0).role ∧
      (State.reset.inputCfg 0).latch = false ∧ ((s.applySetting (.input 0) (.input ⟨.event, true, .ms0, true⟩)).input 0).latched = true := by
  decide

/-- CommitWritesTheImage: the image of a good read-back is good, and a commit is in flight. -/
theorem test_commit_image : ((nextOf (exec (.commitEnd true) State.reset.beginCommit)).store.image) = wholeImage Settings.factory ∧
    State.reset.beginCommit.store.commit = some ⟨Settings.factory, 600⟩ := ⟨rfl, by decide⟩

/-- FeederAndBayTimersExpire: each timer running, and stopped. -/
theorem test_w_timers : { Feeder.reset with staleTimer := some 30000 }.staleTimer = some 30000 ∧ State.reset.feeder.staleTimer = none ∧
    (((inBay .admitting).updBay 0 (fun r => { r with admTimer := some 9 })).bay 0).admTimer = some 9 ∧
    (((served .bound .charging).updBay 0 (fun r => { r with dormTimer := some 9 })).bay 0).dormTimer = some 9 ∧
    (((served .waking .charging).updBay 0 (fun r => { r with wakeWindow := some 9, tryCount := 1 })).bay 0).wakeWindow = some 9 ∧
    (served .waking .charging).orderOf? 0 = some (van 1 5 .charging (some 0)) ∧ (State.reset.bay 0).state ≠ .bound := by decide

/-- YardInputsAreFiltered: a level the line has, a change that makes the input Active, with and without a filter. -/
theorem test_w_inputs : (State.reset.input 0).levelHigh = false ∧ (true == (State.reset.inputCfg 0).activeHigh) ≠ (State.reset.input 0).active ∧
    (State.reset.inputCfg 0).filter ≠ .ms0 ∧
    ((State.reset.withInputCfg 0 ⟨.stop, true, .ms0, false⟩).inputCfg 0).filter = .ms0 ∧
    ((State.reset.withInputCfg 0 ⟨.derate, false, .ms0, false⟩).inputCfg 0).role = .derate ∧
    ((State.reset.updInput 0 (fun i => { i with pending := some ⟨true, 100⟩ })).input 0).pending = some ⟨true, 100⟩ := by decide

/-- PostStatusIsTaken, GrantOutcomeIsTaken and the other answers: the last moment of a window, and one past it; an answer
past it is discarded (R127). -/
theorem test_w_late : { State.reset with elapsed := 50 }.inWindow = true ∧ { State.reset with elapsed := 51 }.inWindow = false ∧
    (nextOf (exec (.postStatus 0 ⟨true, 0, 10, 50, none⟩) { State.reset with elapsed := 51 })).line.carrying =
      some ⟨0, .poll, 50, false, false⟩ ∧
    ((nextOf (exec (.postStatus 0 ⟨true, 0, 10, 50, none⟩) { State.reset with elapsed := 50 })).bay 0).state = .attached := by
  decide

/-- PostStatusIsTaken: a status out of range, and an energy that does not decrease (R17). -/
theorem test_w_status_out : statusValid ⟨true, 61, 0, 0, none⟩ = false ∧ statusValid ⟨true, 60, 65535, 60, none⟩ = true ∧
    (State.takeCounter { served .bound .charging with roster := [{ van 1 5 .charging (some 0) with delivered := 9 }] } 0 3).roster =
      [{ van 1 5 .charging (some 0) with delivered := 9 }] := by decide

/-- PostStatusIsTaken: the probe on the line after reset, an abandoned one, and a counter on either side of its baseline. -/
theorem test_w_status : statusValid ⟨true, 0, 10, 50, some (.lock true)⟩ = true ∧
    State.reset.line.carrying = some ⟨0, .poll, 50, false, false⟩ ∧
    (State.reset.clearBay 0).line.carrying = some ⟨0, .poll, 50, false, true⟩ ∧
    (served .bound .charging).orderOf? 0 = some (van 1 5 .charging (some 0)) ∧
    ((served .bound .charging).bay 0).baseline ≤ 0 ∧
    3 < (((served .bound .charging).updBay 0 (fun r => { r with baseline := 4 })).bay 0).baseline ∧
    ((freeLine { LineBay.reset with held := 1 }).lineBay 0).held < 2 := by decide

/-- VanFramesActByBayState: a frame at its greatest values and past them, and bays that discard frames. -/
theorem test_w_discarded : frameValid (.pack 100 85 2000) = true ∧ frameValid (.pack 101 0 100) = false ∧
    frameValid (.identity 0) = false ∧ ((inBay .attached).bay 0).state = .attached ∧
    ((inBay .faulted).bay 0).state = .faulted := by decide

/-- PostStatusIsTaken: the plug of each kind of bay, a Faulted one with and without an order, and a bay whose order takes no
counter. -/
theorem test_w_plug : (State.reset.bay 0).state = .off ∧ ((inBay .vacant).bay 0).state = .vacant ∧
    ((inBay .unmatched).bay 0).state ≠ .off ∧ ((inBay .unmatched).bay 0).state ≠ .vacant ∧
    ((inBay .unmatched).bay 0).state ≠ .faulted ∧
    (served .faulted .charging).orderOf? 0 = some (van 1 5 .charging (some 0)) ∧ (inBay .faulted).orderOf? 0 = none ∧
    ((inBay .faulted).bay 0).state = .faulted ∧
    (((served .faulted .charging).plugReaction 0 false true).bay 0).state = .faulted ∧
    (∀ o, (inBay .unmatched).orderOf? 0 = some o → o.state.isBound = false) := by
  refine ⟨by decide, by decide, by decide, by decide, by decide, by decide, by decide, by decide, by decide, ?_⟩
  intro o h
  rw [show (inBay .unmatched).orderOf? 0 = none by decide] at h
  cases h

/-- PostStatusIsTaken: an output above the held grant of a bay that is not eligible, and a Faulted bay at output 0 whose
Closing order is closed. -/
theorem test_w_held :
    let s := (served .faulted .closing).updLineBay 0 (fun l => { l with held := 9, opn := none })
    let t := s.lineTakesStatus 0 ⟨true, 0, 7, 50, none⟩
    (s.lineBay 0).held < 10 ∧ s.eligible 0 = false ∧ (s.lineTakesStatus 0 ⟨true, 10, 7, 50, none⟩).exposure 0 = 10 ∧
      (t.lineBay 0).held = 0 ∧ t.log.map (fun c => c.outcome) = [.cancelled] ∧ (t.bay 0).boundOrder = none := by decide

/-- GrantOutcomeIsTaken: a Grant on the line, and a refusal count at the edge of the fault limit. -/
theorem test_w_grant : (onLine (.grant 20) false).line.carrying = some ⟨0, .grant 20, 50, false, false⟩ ∧
    ((onLine (.grant 20) false).lineBay 0).opn = some ⟨.grant 20, none, 0, 0⟩ ∧
    ((onLine (.grant 20) false).bay 0).state ≠ .off ∧ ((onLine (.grant 20) false).bay 0).state ≠ .faulted ∧
    ((((onLine (.grant 20) false).updLineBay 0 (fun l => { l with refuse := 2, increase := true })).finish 0 .refuse).bay 0).state =
      .faulted ∧
    ((((onLine (.grant 20) false).updLineBay 0 (fun l => { l with refuse := 1 })).finish 0 .refuse).bay 0).state = .bound := by decide

/-- GrantOutcomeIsTaken: the Grant that faults its bay is still open, and counted, at the trim of the fault report (R131):
of 30 kW it strands 20, and the other bay keeps 10. The exchange ends after it. -/
theorem test_fault_counts_open_grant :
    let s := (onLine (.grant 20) false).updLineBay 0 (fun l => { l with refuse := 2, increase := true })
    let t := s.updBay 1 (fun r => { r with state := .bound, boundOrder := some 2 })
    let u := ({ t with
      roster := [van 1 5 .charging (some 0), van 2 6 .charging (some 1)]
      feeder := { t.feeder with effective := 30 }
      alloc := { t.alloc with ranking := [0, 1] } }.withTarget 1 20).finish 0 .refuse
    u.target 1 = 10 ∧ (u.lineBay 0).opn = none ∧ u.exposureSum = 0 ∧ u.alloc.limits[(0 : BayNo)] = some 0 := by decide

/-- WakeAndUnlockOutcomesAreTaken: a failed try of a bay without an order, and at each count. -/
theorem test_w_try_failed : (inBay .dormant).orderOf? 0 = none ∧
    (served .dormant .charging).orderOf? 0 = some (van 1 5 .charging (some 0)) ∧
    (((served .dormant .charging).wakeTryFailed 0).bay 0).tryCount = 1 ∧
    ((((served .dormant .charging).wakeTryFailed 0).wakeTryFailed 0).bay 0).tryCount = 2 ∧
    (((((served .dormant .charging).wakeTryFailed 0).wakeTryFailed 0).wakeTryFailed 0).bay 0).tryCount = 2 := by decide

/-- WakeAndUnlockOutcomesAreTaken: a Wake of the present dormancy period, one of another, and an Unlock. -/
theorem test_w_wake_unlock :
    let s := (onLine (.wake 5 0) false).updBay 0 (fun r => { r with state := .dormant, dormantSince := some 0 })
    s.line.carrying = some ⟨0, .wake 5 0, 50, false, false⟩ ∧ (s.lineBay 0).opn = some ⟨.wake 5 0, none, 0, 0⟩ ∧
      (s.bay 0).state = .dormant ∧ (s.bay 0).dormantSince = some 0 ∧ (s.bay 0).dormantSince ≠ some 1 ∧ (s.lineBay 0).refuse < 2 ∧
      (onLine (.unlock 3) false).line.carrying = some ⟨0, .unlock 3, 50, false, false⟩ ∧
      (onLine .poll true).line.carrying = some ⟨0, .poll, 50, true, false⟩ ∧
      ((onLine .poll true).lineBay 0).opn = some ⟨.poll, none, 0, 0⟩ ∧ (s.bay 0).state ≠ .off ∧ (s.bay 0).state ≠ .faulted := by
  decide

/-- WakeAndUnlockOutcomesAreTaken: the third Silent poll in a row faults the bay, and closes its Closing order Cancelled. -/
theorem test_w_fault_limit :
    let s := { (onLine .poll true).updLineBay 0 (fun l => { l with silent := 2 }) with roster := [van 1 5 .closing (some 0)] }
    ((s.finish 0 .silent).bay 0).state = .faulted ∧ (s.finish 0 .silent).log.map (fun c => c.outcome) = [.cancelled] ∧
      (s.finish 0 .silent).events.queue.map (fun e => e.kind) = [.bayFaulted, .orderClosed] := by decide

/-- WakeAndUnlockOutcomesAreTaken: the records of a fault that ends a drain, in the model's order (entry 44). -/
theorem test_fault_ends_drain :
    let s := { (onLine .poll true).updLineBay 0 (fun l => { l with silent := 2, held := 9 }) with
      roster := [van 1 5 .closing (some 0)] }
    let t := { s with feeder := { s.feeder with hold := .draining } }.finish 0 .silent
    t.events.queue.map (fun e => e.kind) = [.bayFaulted, .orderClosed, .holdReached] ∧ t.feeder.hold = .held := by decide

/-- WindowsDefersAndDueTimesAct: both windows, the fifth and the sixth Defer, and each due time. -/
theorem test_w_windows : (onLine (.grant 20) true).line.carrying = some ⟨0, .grant 20, 50, true, false⟩ ∧ (4 : Nat) < 5 ∧
    ((freeLine { LineBay.reset with opn := some ⟨.poll, some 250, 5, 0⟩ }).lineBay 0).opn = some ⟨.poll, some 250, 5, 0⟩ ∧
    ((freeLine { LineBay.reset with held := 4, keepDue := some 8000 }).lineBay 0).keepDue = some 8000 ∧
    LineCtl.reset.probeOwed = true ∧ LineCtl.firstProbe.probeOwed = false ∧ LineCtl.firstProbe.lastProbe = some 0 := by decide

/-- WindowsDefersAndDueTimesAct: an abandoned Grant; its Silent runs to the window's end, its Accept frees the line. -/
theorem test_w_abandoned :
    let s := (onLine (.grant 20) false).clearBay 0
    s.line.carrying = some ⟨0, .grant 20, 50, false, true⟩ ∧
      (nextOf (exec (.grantOutcome 0 .silent) s)).elapsed = 50 ∧ (nextOf (exec (.grantOutcome 0 .accept) s)).elapsed = 0 := by
  decide

theorem test_w_other_bay : ∀ c, State.reset.line.carrying = some c → c.bay ≠ 1 := by
  intro c h
  cases h
  decide

/-- ReconcilingKeepsThePendingGrant: a bay out of service, a target at its reference and one away from it. -/
theorem test_w_reconcile : (State.reset.bay 0).state = .off ∧ ((served .bound .charging).bay 0).state ≠ .off ∧
    ((served .bound .charging).bay 0).state ≠ .faulted ∧ (served .bound .charging).target 0 = ((served .bound .charging).lineBay 0).held ∧
    ((served .bound .charging).withTarget 0 9).target 0 ≠ ((served .bound .charging).lineBay 0).held ∧
    ((freeLine { LineBay.reset with pGrant := some ⟨7, 3⟩ }).lineBay 0).pGrant = some ⟨7, 3⟩ := by decide

/-- SelectionFollowsTheServiceOrder: a line that is busy, and a free one for each class in turn. -/
theorem test_w_selection : State.reset.line.carrying ≠ none ∧ (freeLine LineBay.reset).line.carrying = none ∧
    (freeLine { LineBay.reset with opn := some ⟨.poll, some 0, 1, 0⟩ }).retryIsDue 0 = true ∧
    (freeLine { LineBay.reset with held := 9, pGrant := some ⟨8, 0⟩ }).decreaseReady 0 = true ∧
    (freeLine { LineBay.reset with held := 9, pGrant := some ⟨150, 0⟩ }).increaseReady 0 = true ∧
    (freeLine { LineBay.reset with held := 9, pGrant := some ⟨151, 0⟩ }).increaseReady 0 = false ∧
    (freeLine { LineBay.reset with held := 9, keepDue := some 0 }).keepAliveReady 0 = true ∧
    (freeLine LineBay.reset).pollable 0 = true ∧ (freeLine LineBay.reset).probeable 1 = true := by decide

/-- SelectionFollowsTheServiceOrder, class 3: an Unlock that may not start before a Wake that may, and neither. -/
theorem test_w_items :
    let s := (freeLine { LineBay.reset with pWake := some ⟨5, 2, 0⟩, pUnlock := some 1, held := 1 }).updBay 0
      (fun r => { r with state := .dormant })
    s.line.carrying = none ∧ s.serviceItems = [⟨0, false, 1⟩] ++ ⟨0, true, 2⟩ :: [] ∧ s.unlockMayStart 0 = false ∧
      s.wakeMayStart 0 = true ∧ (s.settle.lineBay 0).opn = some ⟨.wake 5 0, none, 0, 0⟩ ∧
      { s with feeder := { s.feeder with stop := true } }.wakeMayStart 0 = false ∧
      (freeLine { LineBay.reset with pUnlock := some 1 }).unlockMayStart 0 = true := by decide

/-- SelectionFollowsTheServiceOrder, the last classes: no bay to be polled, the probe spacing over and not. -/
theorem test_w_no_poll :
    let s := { State.reset with line := { LineCtl.reset with probeOwed := false } }
    s.line.carrying = none ∧ (∀ b, s.pollable b = false) ∧ s.spacingOver = true ∧
      (baysFrom s.line.probePos).find? s.probeable = some 0 ∧
      { s with line := { s.line with lastProbe := some 0 } }.spacingOver = false ∧
      { s with line := { s.line with lastProbe := some 0 }, elapsed := 5000 }.spacingOver = true := by decide

/-- GuardKeepsExposuresUnderTheCeiling: a command that is no status, and a status. -/
theorem test_w_guard : (∀ b st, Instr.startByte .site ≠ .postStatus b st) ∧
    (∃ t, exec (.startByte .site) State.reset = .next t) ∧ ∃ t, exec (.postStatus 0 ⟨true, 9, 0, 50, none⟩) State.reset = .next t :=
  ⟨fun _ _ h => (nomatch h), ⟨_, rfl⟩, ⟨_, rfl⟩⟩

end Sys2Proof.Tests
end

section
/-! PROOFS. Every command is lawful (Lawful), and so is a step; with it O6. -/

namespace Sys2Proof.Machine

/-! ### Every command is lawful -/

/-- An owner that only reads is served lawfully. -/
theorem State.serve_lawful_of_read (s : State) (r : Req) (code : Byte) (permits : Port → Bool)
    (owner : List Byte → State → State × Reply) (h : (owner r.body s).1 = s) :
    Lawful s (s.serve r code permits owner) :=
  s.serve_lawful r code permits owner (by rw [h]; exact .refl s)

theorem execAnswerEnd_lawful (p : Port) (s : State) : ∃ t, execAnswerEnd p s = .next t ∧ Lawful s t := by
  unfold execAnswerEnd
  split
  · split
    · exact ⟨_, rfl, s.doReset_lawful⟩
    · exact ⟨_, rfl, s.withSlot_lawful p _⟩
  all_goals exact ⟨_, rfl, .refl s⟩

theorem execFrameGap_lawful (p : Port) (ending : Option Byte) (s : State) :
    ∃ t, execFrameGap p ending s = .next t ∧ Lawful s t := by
  unfold execFrameGap
  split
  · dsimp only
    split
    · exact ⟨_, rfl, (s.withSlot_lawful p _).trans (State.listenByte_lawful _ p _)⟩
    · exact ⟨_, rfl, s.withSlot_lawful p _⟩
  all_goals exact ⟨_, rfl, .refl s⟩

theorem execRoundTimerExpiry_lawful (s : State) : ∃ t, execRoundTimerExpiry s = .next t ∧ Lawful s t := by
  unfold execRoundTimerExpiry
  split
  · exact ⟨_, rfl, (((s.runTo_lawful _).trans (State.round_lawful _)).trans (State.startRoundTimer_lawful _)).trans
      (State.settle_lawful _)⟩
  · exact ⟨_, rfl, .refl s⟩

theorem execStaleTimerExpiry_lawful (s : State) : ∃ t, execStaleTimerExpiry s = .next t ∧ Lawful s t := by
  unfold execStaleTimerExpiry
  split
  · exact ⟨_, rfl, ((s.runTo_lawful _).trans (State.meterStale_lawful _)).trans (State.settle_lawful _)⟩
  · exact ⟨_, rfl, .refl s⟩

theorem execAdmissionTimerExpiry_lawful (b : BayNo) (s : State) :
    ∃ t, execAdmissionTimerExpiry b s = .next t ∧ Lawful s t := by
  unfold execAdmissionTimerExpiry
  split
  · exact ⟨_, rfl, (s.runTo_lawful _).trans (State.admissionTimeout_lawful _ b)⟩
  · exact ⟨_, rfl, .refl s⟩

theorem execDormancyExpiry_lawful (b : BayNo) (s : State) : ∃ t, execDormancyExpiry b s = .next t ∧ Lawful s t := by
  unfold execDormancyExpiry
  split
  · exact ⟨_, rfl, ((s.runTo_lawful _).trans (State.becomeDormant_lawful _ b)).trans (State.settle_lawful _)⟩
  · exact ⟨_, rfl, .refl s⟩

theorem execWakeWindowExpiry_lawful (b : BayNo) (s : State) :
    ∃ t, execWakeWindowExpiry b s = .next t ∧ Lawful s t := by
  unfold execWakeWindowExpiry
  split
  · exact ⟨_, rfl, (s.runTo_lawful _).trans (State.wakeWindowOver_lawful _ b)⟩
  · exact ⟨_, rfl, .refl s⟩

theorem execDeferRetryDue_lawful (b : BayNo) (s : State) : ∃ t, execDeferRetryDue b s = .next t ∧ Lawful s t := by
  unfold execDeferRetryDue
  split
  · exact ⟨_, rfl, (s.runTo_lawful _).trans (State.settle_lawful _)⟩
  · exact ⟨_, rfl, .refl s⟩

theorem execKeepAliveDue_lawful (b : BayNo) (s : State) : ∃ t, execKeepAliveDue b s = .next t ∧ Lawful s t := by
  unfold execKeepAliveDue
  split
  · exact ⟨_, rfl, (s.runTo_lawful _).trans (State.settle_lawful _)⟩
  · exact ⟨_, rfl, .refl s⟩

theorem execProbeSpacingEnd_lawful (s : State) : ∃ t, execProbeSpacingEnd s = .next t ∧ Lawful s t := by
  unfold execProbeSpacingEnd
  split
  · split
    · exact ⟨_, rfl, (s.runTo_lawful _).trans (State.settle_lawful _)⟩
    · exact ⟨_, rfl, s.settle_lawful⟩
  · exact ⟨_, rfl, .refl s⟩

theorem execFilterTimerExpiry_lawful (y : InputNo) (s : State) :
    ∃ t, execFilterTimerExpiry y s = .next t ∧ Lawful s t := by
  unfold execFilterTimerExpiry
  split
  · exact ⟨_, rfl, ((s.runTo_lawful _).trans (State.filterOver_lawful _ y _)).trans (State.settle_lawful _)⟩
  · exact ⟨_, rfl, .refl s⟩

theorem execCommitEnd_lawful (good : Bool) (s : State) : ∃ t, execCommitEnd good s = .next t ∧ Lawful s t := by
  unfold execCommitEnd
  split
  · exact ⟨_, rfl, s.commitOver_lawful _ good⟩
  · exact ⟨_, rfl, .refl s⟩

theorem execBadLength_lawful (p : Port) (len : Byte) (s : State) :
    ∃ t, execBadLength p len s = .next t ∧ Lawful s t := by
  refine ⟨_, rfl, ?_⟩
  split
  · exact s.dropFrame_lawful p
  · exact .refl s

/-- Every command answers a next state, and that state keeps the queue and every law of Safety.lean. -/
theorem exec_next_lawful (i : Instr) (s : State) : ∃ t, exec i s = .next t ∧ Lawful s t := by
  cases i with
  | readIdentity r => exact ⟨_, rfl, s.serve_lawful_of_read r _ _ _ (readIdentityOwner_state _ _ s)⟩
  | readOrder r => exact ⟨_, rfl, s.serve_lawful_of_read r _ _ _ (readOrderOwner_state _ s)⟩
  | listRoster r => exact ⟨_, rfl, s.serve_lawful_of_read r _ _ _ (listRosterOwner_state _ s)⟩
  | readBay r => exact ⟨_, rfl, s.serve_lawful_of_read r _ _ _ (readBayOwner_state _ s)⟩
  | readFeeder r => exact ⟨_, rfl, s.serve_lawful_of_read r _ _ _ (readFeederOwner_state _ s)⟩
  | readTable r => exact ⟨_, rfl, s.serve_lawful_of_read r _ _ _ (readTableOwner_state _ s)⟩
  | readSetting r => exact ⟨_, rfl, s.serve_lawful_of_read r _ _ _ (readSettingOwner_state _ s)⟩
  | peekCompletions r => exact ⟨_, rfl, s.serve_lawful_of_read r _ _ _ (peekCompletionsOwner_state _ s)⟩
  | takeEvents r => exact ⟨_, rfl, s.serve_lawful r _ _ _ (takeEventsOwner_lawful _ s)⟩
  | setAttention r => exact ⟨_, rfl, s.serve_lawful r _ _ _ (setAttentionOwner_lawful _ _ s)⟩
  | setClock r => exact ⟨_, rfl, s.serve_lawful r _ _ _ (setClockOwner_lawful _ s)⟩
  | addOrder r => exact ⟨_, rfl, s.serve_lawful r _ _ _ (addOrderOwner_lawful _ s)⟩
  | amendOrder r => exact ⟨_, rfl, s.serve_lawful r _ _ _ (amendOrderOwner_lawful _ s)⟩
  | cancelOrder r => exact ⟨_, rfl, s.serve_lawful r _ _ _ (cancelOrderOwner_lawful _ s)⟩
  | releaseVan r => exact ⟨_, rfl, s.serve_lawful r _ _ _ (releaseVanOwner_lawful _ s)⟩
  | takeCompletions r => exact ⟨_, rfl, s.serve_lawful r _ _ _ (takeCompletionsOwner_lawful _ s)⟩
  | reallocate r => exact ⟨_, rfl, s.serve_lawful r _ _ _ (reallocateOwner_lawful _ s)⟩
  | setCeiling r => exact ⟨_, rfl, s.serve_lawful r _ _ _ (setCeilingOwner_lawful _ s)⟩
  | reportMeter r => exact ⟨_, rfl, s.serve_lawful r _ _ _ (reportMeterOwner_lawful _ s)⟩
  | setTariff r => exact ⟨_, rfl, s.serve_lawful r _ _ _ (setTariffOwner_lawful _ s)⟩
  | holdDepot r => exact ⟨_, rfl, s.serve_lawful r _ _ _ (holdDepotOwner_lawful _ s)⟩
  | resumeDepot r => exact ⟨_, rfl, s.serve_lawful r _ _ _ (resumeDepotOwner_lawful _ s)⟩
  | clearLatchFeeder r => exact ⟨_, rfl, s.serve_lawful r _ _ _ (clearLatchOwner_lawful _ s)⟩
  | clearLatchInput r => exact ⟨_, rfl, s.serve_lawful r _ _ _ (clearLatchOwner_lawful _ s)⟩
  | clearBay r => exact ⟨_, rfl, s.serve_lawful r _ _ _ (clearBayOwner_lawful _ s)⟩
  | retryAdmission r => exact ⟨_, rfl, s.serve_lawful r _ _ _ (retryAdmissionOwner_lawful _ s)⟩
  | setOverride r => exact ⟨_, rfl, s.serve_lawful r _ _ _ (setOverrideOwner_lawful _ s)⟩
  | writeTable r => exact ⟨_, rfl, s.serve_lawful r _ _ _ (writeTableOwner_lawful _ s)⟩
  | writeSetting r => exact ⟨_, rfl, s.serve_lawful r _ _ _ (writeSettingOwner_lawful _ s)⟩
  | storeSettings r => exact ⟨_, rfl, s.serve_lawful r _ _ _ (storeSettingsOwner_lawful _ s)⟩
  | restart r => exact ⟨_, rfl, s.serve_lawful_of_read r _ _ _ (restartOwner_state _ s)⟩
  | unknownRequest r kind => exact ⟨_, rfl, s.serve_lawful_of_read r _ _ _ rfl⟩
  | frameCheckFail p => exact ⟨_, rfl, s.dropFrame_lawful p⟩
  | frameGap p ending => exact execFrameGap_lawful p ending s
  | answerEnd p => exact execAnswerEnd_lawful p s
  | reset cause => exact ⟨_, rfl, s.doReset_lawful⟩
  | roundTimerExpiry => exact execRoundTimerExpiry_lawful s
  | staleTimerExpiry => exact execStaleTimerExpiry_lawful s
  | admissionTimerExpiry b => exact execAdmissionTimerExpiry_lawful b s
  | dormancyExpiry b => exact execDormancyExpiry_lawful b s
  | wakeWindowExpiry b => exact execWakeWindowExpiry_lawful b s
  | answerWindowExpiry => exact ⟨_, rfl, s.runWindow_lawful.trans (State.settle_lawful _)⟩
  | deferRetryDue b => exact execDeferRetryDue_lawful b s
  | keepAliveDue b => exact execKeepAliveDue_lawful b s
  | probeSpacingEnd => exact execProbeSpacingEnd_lawful s
  | filterTimerExpiry y => exact execFilterTimerExpiry_lawful y s
  | lineChange y high => exact ⟨_, rfl, (s.lineLevel_lawful y high).trans (State.settle_lawful _)⟩
  | commitEnd good => exact execCommitEnd_lawful good s
  | postStatus b st => exact ⟨_, rfl, (s.takePostStatus_lawful b st).trans (State.settle_lawful _)⟩
  | grantOutcome b o => exact ⟨_, rfl, (s.takeOutcome_lawful b _ o).trans (State.settle_lawful _)⟩
  | wakeOutcome b o => exact ⟨_, rfl, (s.takeOutcome_lawful b _ o).trans (State.settle_lawful _)⟩
  | unlockOutcome b o => exact ⟨_, rfl, (s.takeOutcome_lawful b _ o).trans (State.settle_lawful _)⟩
  | deferAnswer b => exact ⟨_, rfl, (s.takeDefer_lawful b).trans (State.settle_lawful _)⟩
  | startByte p => exact ⟨_, rfl, s.listenByte_lawful p _⟩
  | badLength p len => exact execBadLength_lawful p len s

/-- What a command answers is lawful. -/
theorem exec_lawful {i : Instr} {s t : State} (h : exec i s = .next t) : Lawful s t := by
  obtain ⟨u, hu, hl⟩ := exec_next_lawful i s
  obtain rfl : u = t := Host.Outcome.next.inj (hu.symm.trans h)
  exact hl

/-! ### What a step does -/

/-- A step runs the command at the front of the queue on the queue's rest, or the due command on an idle block with its
free value counted, or lets one millisecond pass. -/
theorem step_cases {s t : State} (h : step s = .next t) :
    (∃ c rest, s.pending = c :: rest ∧ exec c { s with pending := rest } = .next t) ∨
      (∃ c, s.pending = [] ∧ s.dueCommand = some c ∧ exec c (s.countFree c) = .next t) ∨
      (s.pending = [] ∧ s.dueCommand = none ∧ t = s.tick) := by
  unfold step at h
  split at h
  next c rest hp => exact .inl ⟨c, rest, hp, h⟩
  next hp =>
    unfold State.idle at h
    split at h
    next c hc => exact .inr (.inl ⟨c, hp, hc, h⟩)
    next hc => exact .inr (.inr ⟨hp, hc, (Host.Outcome.next.inj h).symm⟩)

/-- Counting a free value changes nothing but the count. -/
theorem State.countFree_eq (s : State) (c : Instr) : ∃ n, s.countFree c = { s with freeCount := n } := by
  cases c <;> exact ⟨_, rfl⟩

/-- A law that no command breaks, and that reads neither the queue, the free count nor the elapsed time, is kept by
every step. -/
theorem step_keeps {P : State → Prop} (hexec : ∀ i s t, exec i s = .next t → P s → P t)
    (hpending : ∀ s cs, P s → P { s with pending := cs }) (hfree : ∀ s n, P s → P { s with freeCount := n })
    (htick : ∀ s, P s → P s.tick) {s t : State} (h : step s = .next t) (hs : P s) : P t := by
  obtain ⟨c, rest, -, he⟩ | ⟨c, -, -, he⟩ | ⟨-, -, rfl⟩ := step_cases h
  · exact hexec _ _ _ he (hpending s rest hs)
  · obtain ⟨n, hn⟩ := s.countFree_eq c
    rw [hn] at he
    exact hexec _ _ _ he (hfree s n hs)
  · exact htick s hs

/-! ### O6 -/

/-- Settles O6: every command is lawful, and both laws read the roster and the tariff list alone. -/
theorem stepKeepsListsInOrder : Obligations.StepKeepsListsInOrder := by
  unfold Obligations.StepKeepsListsInOrder
  intro s t h
  exact ⟨step_keeps (P := State.rosterInOrder) (fun _ _ _ he => (exec_lawful he).roster) (fun _ _ => id) (fun _ _ => id)
      (fun _ => id) h,
    step_keeps (P := State.tariffInOrder) (fun _ _ _ he => (exec_lawful he).tariff) (fun _ _ => id) (fun _ _ => id)
      (fun _ => id) h⟩

end Sys2Proof.Machine
end

section
/-! PROOFS. The agreement of the orders, the bays and the waiting line (R6, R12, R25, R150): what each operation on
them makes of it. While an order is closed or unbound its bay still names it, so the agreement is stated with one bay
left out, and the operation that clears the bay makes it whole again. -/

namespace Sys2Proof.Machine

/-! ### The orders of a roster with unique tags -/

/-- Where tags are unique, an order of the roster is the one found under its tag. -/
theorem State.order?_of_mem {s : State} (hs : s.rosterInOrder) {o : Order} (h : o ∈ s.roster) :
    s.order? o.tag = some o := by
  cases hf : s.order? o.tag with
  | none => exact absurd rfl (s.tag_free hf o h)
  | some p => rw [order_eq_of_tag hs.2 (s.mem_of_order? hf) h (s.tag_of_order? hf)]

/-- An update under a tag that no order has changes nothing. -/
theorem State.updOrder_of_none {s : State} {tag : Nat} (f : Order → Order) (h : s.order? tag = none) :
    s.updOrder tag f = s := by
  have hl : s.roster.map (fun o => if o.tag = tag then f o else o) = s.roster :=
    (List.map_congr_left (fun o ho => if_neg (s.tag_free h o ho))).trans (List.map_id' _)
  unfold State.updOrder
  rw [hl]

/-- Where tags are unique, an update under a tag replaces one order. -/
theorem State.mem_updOrder {s : State} {tag : Nat} {o : Order} (hs : s.rosterInOrder) (h : s.order? tag = some o)
    (f : Order → Order) (p : Order) :
    p ∈ (s.updOrder tag f).roster ↔ p = f o ∨ (p ∈ s.roster ∧ p.tag ≠ tag) := by
  have htag := s.tag_of_order? h
  have hmem := s.mem_of_order? h
  simp only [State.updOrder, List.mem_map]
  constructor
  · rintro ⟨q, hq, rfl⟩
    split
    next e => exact .inl (by rw [order_eq_of_tag hs.2 hq hmem (e.trans htag.symm)])
    next e => exact .inr ⟨hq, e⟩
  · rintro (rfl | ⟨hp, hne⟩)
    · exact ⟨o, hmem, if_pos htag⟩
    · exact ⟨p, hp, if_neg hne⟩

/-! ### The agreement of the records, one bay left out -/

/-- The records agree, the binding of one bay left out of account. The van keys are compared order by order, which is
what `keysUnique` says where tags are unique (`recordsExcept_none_iff`). -/
structure RecordsExcept (x : Option BayNo) (s : State) : Prop where
  roster : s.rosterInOrder
  keys : ∀ o ∈ s.roster, ∀ p ∈ s.roster, o.tag ≠ p.tag → o.state ≠ .closed → p.state ≠ .closed → o.key ≠ p.key
  bindings : ∀ b : BayNo, some b ≠ x → ∀ tag ∈ (s.bay b).boundOrder,
    ∃ o ∈ s.roster, o.tag = tag ∧ o.state.isBound = true ∧ o.boundBay = some b
  waiting : s.waitingLineRight

/-- With no bay left out the records agree as Safety.lean has it. -/
theorem recordsExcept_none_iff {s : State} : RecordsExcept none s ↔ s.recordsRight := by
  constructor
  · rintro ⟨hr, hk, hb, hw⟩
    exact ⟨hr, hr.2.imp_of_mem (fun ho hp hne => hk _ ho _ hp hne), fun b => hb b (by simp), hw⟩
  · rintro ⟨hr, hk, hb, hw⟩
    have : Std.Symm (fun o p : Order => o.state ≠ .closed → p.state ≠ .closed → o.key ≠ p.key) :=
      ⟨fun _ _ h hp ho e => h ho hp e.symm⟩
    exact ⟨hr, fun o ho p hp hne => hk.forall ho hp (fun e => hne (congrArg _ e)), fun b _ => hb b, hw⟩

/-- Leaving a bay out of account asks for less. -/
theorem RecordsExcept.leave {s : State} (h : RecordsExcept none s) (x : Option BayNo) : RecordsExcept x s :=
  ⟨h.roster, h.keys, fun b _ => h.bindings b (by simp), h.waiting⟩

/-- A bay whose binding is cleared need not be left out any more. -/
theorem RecordsExcept.updBay_clear {s : State} {b : BayNo} (h : RecordsExcept (some b) s) (f : BayRec → BayRec)
    (hf : (f (s.bay b)).boundOrder = none) : RecordsExcept none (s.updBay b f) := by
  refine ⟨h.roster, h.keys, fun c _ tag ht => ?_, h.waiting⟩
  by_cases hc : c = b
  · subst hc
    rw [State.bay_updBay, hf] at ht
    cases ht
  · rw [State.bay_updBay_ne _ _ hc] at ht
    exact h.bindings c (by simpa using hc) tag ht

/-- The order a bay is bound to: it stands in the roster under its tag, in a bound state, with that bay. -/
theorem RecordsExcept.orderOf? {x : Option BayNo} {s : State} (h : RecordsExcept x s) {b : BayNo} {o : Order}
    (hb : some b ≠ x) (ho : s.orderOf? b = some o) :
    s.order? o.tag = some o ∧ o.state.isBound = true ∧ o.boundBay = some b := by
  unfold State.orderOf? at ho
  split at ho
  · cases ho
  next tag ht =>
    obtain ⟨p, hp, hpt, hbound, hbay⟩ := h.bindings b hb tag ht
    have hpo : p = o := by
      have := State.order?_of_mem h.roster hp
      rw [hpt, ho] at this
      exact (Option.some.inj this).symm
    subst hpo
    exact ⟨by rw [hpt]; exact ho, hbound, hbay⟩

/-- What a bay that is bound to an order's tag says of the order. -/
theorem RecordsExcept.of_bound {x : Option BayNo} {s : State} (h : RecordsExcept x s) {b : BayNo} {o : Order}
    (hb : some b ≠ x) (ho : o ∈ s.roster) (ht : (s.bay b).boundOrder = some o.tag) :
    o.state.isBound = true ∧ o.boundBay = some b := by
  obtain ⟨p, hp, hpt, hbound, hbay⟩ := h.bindings b hb o.tag ht
  rw [order_eq_of_tag h.roster.2 ho hp hpt.symm]
  exact ⟨hbound, hbay⟩

theorem OrderState.ne_closed_of_isBound {st : OrderState} (h : st.isBound = true) : st ≠ .closed := by
  rintro rfl
  cases h

theorem OrderState.isBound_of_live {st : OrderState} (h : st.live = true) : st.isBound = true := by
  cases st with
  | charging | conditioning | ready => rfl
  | waiting | closing | closed => cases h

/-- R150: no order that is not Closed stands in the waiting line. -/
theorem RecordsExcept.not_waiting {x : Option BayNo} {s : State} (h : RecordsExcept x s) {o : Order}
    (ho : o ∈ s.roster) (hs : o.state ≠ .closed) : o.tag ∉ s.waitingLine := by
  intro hw
  obtain ⟨p, hp, hpt, hpc⟩ := h.waiting.2 o.tag hw
  rw [order_eq_of_tag h.roster.2 hp ho hpt] at hpc
  exact hs hpc

/-! ### Replacing, removing and entering an order -/

/-- One order of the roster is replaced by a record with its tag. The bays that are not left out afterwards name either
the new record, which then is bound to them, or another order, as before. -/
theorem RecordsExcept.replace {x y : Option BayNo} {s t : State} {o o' : Order} (h : RecordsExcept x s)
    (ho : o ∈ s.roster) (hr : t.rosterInOrder)
    (hm : ∀ p, p ∈ t.roster ↔ p = o' ∨ (p ∈ s.roster ∧ p.tag ≠ o.tag)) (htag : o'.tag = o.tag)
    (hkey : o'.state ≠ .closed → ∀ p ∈ s.roster, p.tag ≠ o.tag → p.state ≠ .closed → p.key ≠ o'.key)
    (hclosed : o.state = .closed → o'.state = .closed) (hw : t.waitingLine = s.waitingLine)
    (hb : ∀ b : BayNo, some b ≠ y → ∀ tag ∈ (t.bay b).boundOrder,
      (tag = o.tag ∧ o'.state.isBound = true ∧ o'.boundBay = some b) ∨
        (tag ≠ o.tag ∧ some b ≠ x ∧ (s.bay b).boundOrder = some tag)) :
    RecordsExcept y t := by
  refine ⟨hr, ?_, ?_, ?_, ?_⟩
  · intro p hp q hq hne hpc hqc
    rcases (hm p).mp hp with rfl | ⟨hp, hpt⟩ <;> rcases (hm q).mp hq with rfl | ⟨hq, hqt⟩
    · exact absurd rfl hne
    · exact fun e => hkey hpc q hq hqt hqc e.symm
    · exact hkey hqc p hp hpt hpc
    · exact h.keys p hp q hq hne hpc hqc
  · intro b hby tag ht
    rcases hb b hby tag ht with ⟨rfl, hbound, hbay⟩ | ⟨hne, hbx, hs⟩
    · exact ⟨o', (hm o').mpr (.inl rfl), htag, hbound, hbay⟩
    · obtain ⟨p, hp, rfl, hbound, hbay⟩ := h.bindings b hbx tag hs
      exact ⟨p, (hm p).mpr (.inr ⟨hp, hne⟩), rfl, hbound, hbay⟩
  · rw [hw]
    exact h.waiting.1
  · rw [hw]
    intro tag ht
    obtain ⟨p, hp, hpt, hpc⟩ := h.waiting.2 tag ht
    by_cases e : p.tag = o.tag
    · obtain rfl := order_eq_of_tag h.roster.2 hp ho e
      exact ⟨o', (hm o').mpr (.inl rfl), htag.trans hpt, hclosed hpc⟩
    · exact ⟨p, (hm p).mpr (.inr ⟨hp, e⟩), hpt, hpc⟩

/-- An order keeps the van key it had: no other order that is not Closed has it. -/
theorem RecordsExcept.key_kept {x : Option BayNo} {s : State} {o o' : Order} (h : RecordsExcept x s)
    (ho : o ∈ s.roster) (hk : o'.key = o.key) (hclosed : o.state = .closed → o'.state = .closed) :
    o'.state ≠ .closed → ∀ p ∈ s.roster, p.tag ≠ o.tag → p.state ≠ .closed → p.key ≠ o'.key := by
  intro hc p hp hne hpc
  rw [hk]
  exact h.keys p hp o ho hne hpc (fun e => hc (hclosed e))

/-- R149: a Closed order leaves the roster, and the waiting line with it. -/
theorem RecordsExcept.remove {x : Option BayNo} {s t : State} {o : Order} (h : RecordsExcept x s) (ho : o ∈ s.roster)
    (hc : o.state = .closed) (hr : t.roster = s.roster.filter (fun p => p.tag != o.tag)) (hbays : t.bays = s.bays)
    (hw : t.waitingLine.Sublist s.waitingLine) (hgone : o.tag ∉ t.waitingLine) : RecordsExcept x t := by
  have hm : ∀ p, p ∈ t.roster ↔ p ∈ s.roster ∧ p.tag ≠ o.tag := fun p => by simp [hr]
  refine ⟨?_, ?_, ?_, h.waiting.1.sublist hw, ?_⟩
  · simp only [State.rosterInOrder, hr]
    exact ⟨h.roster.1.filter _, h.roster.2.filter _⟩
  · exact fun p hp q hq => h.keys p ((hm p).mp hp).1 q ((hm q).mp hq).1
  · intro b hb tag ht
    simp only [State.bay, hbays] at ht
    obtain ⟨p, hp, rfl, hbound, hbay⟩ := h.bindings b hb tag ht
    refine ⟨p, (hm p).mpr ⟨hp, fun e => ?_⟩, rfl, hbound, hbay⟩
    rw [order_eq_of_tag h.roster.2 hp ho e, hc] at hbound
    cases hbound
  · intro tag ht
    obtain ⟨p, hp, rfl, hpc⟩ := h.waiting.2 tag (hw.subset ht)
    exact ⟨p, (hm p).mpr ⟨hp, fun e => hgone (e ▸ ht)⟩, rfl, hpc⟩

/-- R8: an order that is not Closed enters under a new tag and a van key that no order that is not Closed has. -/
theorem RecordsExcept.enter {s t : State} {o : Order} (h : RecordsExcept none s) (hr : t.rosterInOrder)
    (hm : ∀ p, p ∈ t.roster ↔ p = o ∨ p ∈ s.roster)
    (hkey : ∀ p ∈ s.roster, p.state ≠ .closed → p.key ≠ o.key) (hbays : t.bays = s.bays)
    (hw : t.waitingLine = s.waitingLine) : RecordsExcept none t := by
  refine ⟨hr, ?_, ?_, ?_, ?_⟩
  · intro p hp q hq hne hpc hqc
    rcases (hm p).mp hp with rfl | hp <;> rcases (hm q).mp hq with rfl | hq
    · exact absurd rfl hne
    · exact fun e => hkey q hq hqc e.symm
    · exact hkey p hp hpc
    · exact h.keys p hp q hq hne hpc hqc
  · intro b hb tag ht
    simp only [State.bay, hbays] at ht
    obtain ⟨p, hp, hrest⟩ := h.bindings b hb tag ht
    exact ⟨p, (hm p).mpr (.inr hp), hrest⟩
  · rw [hw]
    exact h.waiting.1
  · rw [hw]
    intro tag ht
    obtain ⟨p, hp, hrest⟩ := h.waiting.2 tag ht
    exact ⟨p, (hm p).mpr (.inr hp), hrest⟩

/-! ### Operations that leave the records alone -/

/-- The orders, the waiting line and the bindings of the bays are the same. -/
structure SameBindings (s t : State) : Prop where
  roster : t.roster = s.roster
  waitingLine : t.waitingLine = s.waitingLine
  bound : ∀ b, (t.bay b).boundOrder = (s.bay b).boundOrder

theorem SameBindings.refl (s : State) : SameBindings s s := ⟨rfl, rfl, fun _ => rfl⟩

theorem SameBindings.trans {s t u : State} (h : SameBindings s t) (k : SameBindings t u) : SameBindings s u :=
  ⟨k.roster.trans h.roster, k.waitingLine.trans h.waitingLine, fun b => (k.bound b).trans (h.bound b)⟩

theorem SameBindings.foldl {α : Type} {f : State → α → State} (h : ∀ s x, SameBindings s (f s x)) (l : List α)
    (s : State) : SameBindings s (l.foldl f s) := by
  induction l generalizing s with
  | nil => exact .refl s
  | cons x xs ih => exact (h s x).trans (ih (f s x))

/-- An update of neither the orders, the waiting line nor the bays. -/
theorem SameBindings.of_same {s t : State} (h1 : t.roster = s.roster) (h2 : t.waitingLine = s.waitingLine)
    (h3 : t.bays = s.bays) : SameBindings s t := ⟨h1, h2, fun b => by unfold State.bay; rw [h3]⟩

theorem SameRecords.bindings {s t : State} (h : SameRecords s t) : SameBindings s t :=
  ⟨h.roster, h.waitingLine, h.bound⟩

theorem SameBindings.except {x : Option BayNo} {s t : State} (h : SameBindings s t) (k : RecordsExcept x s) :
    RecordsExcept x t := by
  refine ⟨?_, ?_, ?_, ?_⟩
  · simpa only [State.rosterInOrder, h.roster] using k.roster
  · simpa only [h.roster] using k.keys
  · simpa only [h.roster, h.bound] using k.bindings
  · simpa only [State.waitingLineRight, h.roster, h.waitingLine] using k.waiting

/-- An update of a bay's record that keeps its binding. -/
theorem State.updBay_bindings (s : State) (b : BayNo) (f : BayRec → BayRec)
    (hf : ∀ r, (f r).boundOrder = r.boundOrder) : SameBindings s (s.updBay b f) := by
  refine ⟨rfl, rfl, fun c => ?_⟩
  by_cases hc : c = b
  · subst hc
    rw [State.bay_updBay, hf]
  · rw [State.bay_updBay_ne _ _ hc]

/-! ### Closure -/

/-- R150: a Closed order of the roster that does not wait enters the log, or the waiting line. -/
theorem State.enterLog_except {x : Option BayNo} {s : State} (h : RecordsExcept x s) {o : Order} (ho : o ∈ s.roster)
    (hc : o.state = .closed) (hw : o.tag ∉ s.waitingLine) : RecordsExcept x (s.enterLog o) := by
  unfold State.enterLog
  split
  · exact h.remove ho hc rfl rfl (.refl _) hw
  · refine ⟨h.roster, h.keys, h.bindings, ?_, ?_⟩
    · exact List.nodup_append.mpr ⟨h.waiting.1, List.nodup_singleton _, fun a ha b hb e =>
        hw (List.mem_singleton.mp hb ▸ e ▸ ha)⟩
    · intro tag ht
      rcases List.mem_append.mp ht with ht | ht
      · exact h.waiting.2 tag ht
      · exact ⟨o, ho, (List.mem_singleton.mp ht).symm, hc⟩

/-- R15: an order that is not Closed is closed; a bay that is bound to it is left out of account. -/
theorem State.closeOrder_except {x : Option BayNo} {s : State} (h : RecordsExcept x s) {tag : Nat} (out : CloseOutcome)
    {o : Order} (ho : s.order? tag = some o) (hs : o.state ≠ .closed)
    (hfree : ∀ b : BayNo, some b ≠ x → (s.bay b).boundOrder ≠ some tag) : RecordsExcept x (s.closeOrder tag out) := by
  have hmem := s.mem_of_order? ho
  have htag := s.tag_of_order? ho
  have hm := State.mem_updOrder h.roster ho (fun _ => s.closedForm o out)
  have hput : RecordsExcept x (s.updOrder tag (fun _ => s.closedForm o out)) := by
    refine h.replace (o' := s.closedForm o out) hmem
      ((s.putOrder_lawful ho (o' := s.closedForm o out) rfl rfl).roster h.roster) (by rw [htag]; exact hm) rfl
      (fun hc => absurd rfl hc) (fun _ => rfl) rfl (fun b hb t ht => .inr ⟨?_, hb, ht⟩)
    rintro rfl
    exact hfree b hb (htag ▸ ht)
  have happ := State.append_records (s.updOrder tag (fun _ => s.closedForm o out))
    (if out = .missed then .orderMissed else .orderClosed) (some (.order tag)) .raised
  unfold State.closeOrder
  rw [ho]
  refine State.enterLog_except (o := s.closedForm o out) (happ.bindings.except hput) ?_ rfl ?_
  · rw [happ.roster]
    exact (hm _).mpr (.inl rfl)
  · rw [happ.waitingLine]
    exact h.not_waiting (o := o) hmem hs

@[simp] theorem State.append_bays (s : State) (k : EventKind) (x : Option Subject) (e : Edge) :
    (s.append k x e).bays = s.bays := by
  unfold State.append
  split <;> rfl

theorem State.enterLog_bays (s : State) (o : Order) : (s.enterLog o).bays = s.bays := by
  unfold State.enterLog
  split <;> rfl

theorem State.enterLog_roster_subset (s : State) (o : Order) : (s.enterLog o).roster ⊆ s.roster := by
  unfold State.enterLog
  split
  · exact List.filter_subset_self _
  · exact List.Subset.refl _

/-- A closure leaves the bays alone. -/
theorem State.closeOrder_bays (s : State) (tag : Nat) (out : CloseOutcome) : (s.closeOrder tag out).bays = s.bays := by
  unfold State.closeOrder
  split
  · rfl
  · rw [State.enterLog_bays, State.append_bays, State.updOrder_bays]

/-- A closure leaves the orders of other tags as they were. -/
theorem State.mem_of_mem_closeOrder (s : State) {tag : Nat} {out : CloseOutcome} {p : Order}
    (hp : p ∈ (s.closeOrder tag out).roster) (hne : p.tag ≠ tag) : p ∈ s.roster := by
  unfold State.closeOrder at hp
  split at hp
  · exact hp
  next o ho =>
    have hmem := State.enterLog_roster_subset _ _ hp
    rw [(State.append_records _ _ _ _).roster] at hmem
    obtain ⟨q, hq, rfl⟩ := List.mem_map.mp hmem
    split at hne
    · exact absurd (s.tag_of_order? ho) hne
    next e => exact (if_neg e).symm ▸ hq

end Sys2Proof.Machine
end

section
/-! PROOFS. The operations of the Roster unit, the Bay unit, the Line controller and the round keep the records in
agreement. -/

namespace Sys2Proof.Machine

/-- From one state to another the agreement of the records is kept. -/
def KeepsRecords (s t : State) : Prop := RecordsExcept none s → RecordsExcept none t

theorem KeepsRecords.refl (s : State) : KeepsRecords s s := id

theorem KeepsRecords.trans {s t u : State} (h : KeepsRecords s t) (k : KeepsRecords t u) : KeepsRecords s u :=
  fun r => k (h r)

theorem KeepsRecords.foldl {α : Type} {f : State → α → State} (h : ∀ s x, KeepsRecords s (f s x)) (l : List α)
    (s : State) : KeepsRecords s (l.foldl f s) := by
  induction l generalizing s with
  | nil => exact .refl s
  | cons x xs ih => exact (h s x).trans (ih (f s x))

theorem SameBindings.keeps {s t : State} (h : SameBindings s t) : KeepsRecords s t := h.except

theorem SameRecords.keeps {s t : State} (h : SameRecords s t) : KeepsRecords s t := h.bindings.keeps

/-- An update of parts that hold neither orders nor bindings. -/
theorem KeepsRecords.of_same {s t : State} (h1 : t.roster = s.roster) (h2 : t.waitingLine = s.waitingLine)
    (h3 : t.bays = s.bays) : KeepsRecords s t := (SameBindings.of_same h1 h2 h3).keeps

theorem State.updBay_keeps (s : State) (b : BayNo) (f : BayRec → BayRec)
    (hf : ∀ r, (f r).boundOrder = r.boundOrder := by intro _; rfl) : KeepsRecords s (s.updBay b f) := (s.updBay_bindings b f hf).keeps

theorem State.append_keeps (s : State) (k : EventKind) (x : Option Subject) (e : Edge) :
    KeepsRecords s (s.append k x e) := (s.append_records k x e).keeps

/-! ### An order's own fields -/

/-- A record stands for the same van in the same bay as another: bound when that was, and Closed when that was. -/
structure SameStanding (o o' : Order) : Prop where
  tag : o'.tag = o.tag
  key : o'.key = o.key
  boundBay : o'.boundBay = o.boundBay
  closed : o.state = .closed → o'.state = .closed
  bound : o.state.isBound = true → o'.state.isBound = true

/-- The order of a tag takes other fields and stands as it stood. -/
theorem State.updOrder_keeps (s : State) (tag : Nat) (f : Order → Order) (ht : ∀ o, (f o).tag = o.tag)
    (hd : ∀ o, (f o).departure = o.departure) (hf : ∀ o, s.order? tag = some o → SameStanding o (f o)) :
    KeepsRecords s (s.updOrder tag f) := by
  intro h
  cases ho : s.order? tag with
  | none =>
    rw [State.updOrder_of_none f ho]
    exact h
  | some o =>
    obtain ⟨-, hkey, hbay, hclosed, hbound⟩ := hf o ho
    have hmem := s.mem_of_order? ho
    have htag := s.tag_of_order? ho
    refine h.replace hmem ((s.updOrder_lawful tag f ht hd).roster h.roster)
      (by rw [htag]; exact State.mem_updOrder h.roster ho f) (ht o) (h.key_kept hmem hkey hclosed) hclosed rfl
      (fun b hb t hbt => ?_)
    by_cases e : t = o.tag
    · obtain ⟨h1, h2⟩ := h.of_bound hb hmem (e ▸ hbt)
      exact .inl ⟨e, hbound h1, hbay.trans h2⟩
    · exact .inr ⟨e, hb, hbt⟩

/-- Fields of an order other than its standing. -/
theorem State.updOrder_fields (s : State) (tag : Nat) (f : Order → Order)
    (ht : ∀ o, (f o).tag = o.tag := by intro _; rfl) (hd : ∀ o, (f o).departure = o.departure := by intro _; rfl)
    (hk : ∀ o, (f o).key = o.key := by intro _; rfl) (hs : ∀ o, (f o).state = o.state := by intro _; rfl)
    (hb : ∀ o, (f o).boundBay = o.boundBay := by intro _; rfl) : KeepsRecords s (s.updOrder tag f) :=
  s.updOrder_keeps tag f ht hd (fun o _ => ⟨ht o, hk o, hb o, fun e => (hs o).trans e, fun e => by rw [hs o]; exact e⟩)

/-- An order that is not Closed takes a bound state, its bay kept. -/
theorem State.updOrder_boundState (s : State) {tag : Nat} {o : Order} (f : Order → Order) {st : OrderState}
    (ho : s.order? tag = some o) (hnc : o.state ≠ .closed) (hst : st.isBound = true)
    (ht : ∀ o, (f o).tag = o.tag := by intro _; rfl) (hd : ∀ o, (f o).departure = o.departure := by intro _; rfl)
    (hk : ∀ o, (f o).key = o.key := by intro _; rfl) (hs : ∀ o, (f o).state = st := by intro _; rfl)
    (hb : ∀ o, (f o).boundBay = o.boundBay := by intro _; rfl) : KeepsRecords s (s.updOrder tag f) := by
  refine s.updOrder_keeps tag f ht hd (fun p hp => ?_)
  obtain rfl : o = p := Option.some.inj (ho.symm.trans hp)
  exact ⟨ht o, hk o, hb o, fun e => absurd e hnc, fun _ => by rw [hs o]; exact hst⟩

/-! ### Closure and unbinding -/

/-- R15: the order of a bay is closed; the bay still names it. -/
theorem State.closeBound_except {s : State} (h : RecordsExcept none s) {b : BayNo} {o : Order}
    (ho : s.orderOf? b = some o) (out : CloseOutcome) : RecordsExcept (some b) (s.closeOrder o.tag out) := by
  obtain ⟨hfind, hbound, hbay⟩ := h.orderOf? (by simp) ho
  refine State.closeOrder_except (h.leave _) out hfind (OrderState.ne_closed_of_isBound hbound) (fun c hc ht => ?_)
  obtain ⟨-, hc'⟩ := h.of_bound (by simp) (s.mem_of_order? hfind) ht
  rw [hbay] at hc'
  exact hc hc'.symm

/-- R15, R31, R43: the order of a bay is closed, and the binding of the bay cleared. -/
theorem State.closeBound_clear {s : State} {b : BayNo} {o : Order} (ho : s.orderOf? b = some o) (out : CloseOutcome)
    (f : BayRec → BayRec) (hf : ∀ r, (f r).boundOrder = none) :
    KeepsRecords s ((s.closeOrder o.tag out).updBay b f) :=
  fun h => (State.closeBound_except h ho out).updBay_clear f (hf _)

/-- R15: an order that no bay is bound to is closed. -/
theorem State.closeFree_keeps {s : State} {tag : Nat} {o : Order} (ho : s.order? tag = some o)
    (hs : o.state = .waiting) (out : CloseOutcome) : KeepsRecords s (s.closeOrder tag out) := by
  intro h
  refine State.closeOrder_except h out ho (by rw [hs]; simp) (fun b hb ht => ?_)
  obtain ⟨hbound, -⟩ := h.of_bound hb (s.mem_of_order? ho) (by rw [s.tag_of_order? ho]; exact ht)
  rw [hs] at hbound
  cases hbound

/-- R42: a bay is unbound; its order has been closed or unbound before. -/
theorem State.unbindBay_clear {s : State} {b : BayNo} (h : RecordsExcept (some b) s) :
    RecordsExcept none (s.unbindBay b) := by
  unfold State.unbindBay
  split
  · exact h.updBay_clear _ rfl
  · exact (State.withdrawWake_records _ b).keeps (h.updBay_clear _ rfl)

theorem State.decreaseDone_keeps (s : State) (b : BayNo) : KeepsRecords s (s.decreaseDone b) := by
  unfold State.decreaseDone
  split
  · exact .refl s
  next o ho =>
    split
    · exact fun h => State.unbindBay_clear (State.closeBound_except h ho _)
    · exact .refl s

/-- R18: the record an unbinding leaves of an order. -/
def Order.unbound (o : Order) : Order :=
  { o with state := .waiting, boundBay := none, begun := false, released := false, deferred := false, atRisk := false }

/-- R18: an unbinding gives the order its unbound record, with an OrderAtRisk Cleared where it was at risk. -/
theorem State.unbindOrder_of_some {s : State} {tag : Nat} {o : Order} (ho : s.order? tag = some o) :
    s.unbindOrder tag =
      if o.atRisk then (s.updOrder tag Order.unbound).append .orderAtRisk (some (.order tag)) .cleared
      else s.updOrder tag Order.unbound := by
  unfold State.unbindOrder
  rw [ho]
  rfl

/-- R18: an unbinding touches the records as the update of the order does. -/
theorem State.unbindOrder_records {s : State} {tag : Nat} {o : Order} (ho : s.order? tag = some o) :
    SameRecords (s.updOrder tag Order.unbound) (s.unbindOrder tag) := by
  rw [State.unbindOrder_of_some ho]
  split
  · exact State.append_records _ _ _ _
  · exact .refl _

/-- R18: an order that is not Closed returns to Waiting; the bay that was bound to it is left out of account. -/
theorem State.unbindOrder_except {s : State} (h : RecordsExcept none s) {tag : Nat} {o : Order}
    (ho : s.order? tag = some o) (hs : o.state ≠ .closed) {b : BayNo} (hb : o.boundBay = some b) :
    RecordsExcept (some b) (s.unbindOrder tag) := by
  have hmem := s.mem_of_order? ho
  have htag := s.tag_of_order? ho
  have hput : RecordsExcept (some b) (s.updOrder tag Order.unbound) := by
    refine h.replace (o' := o.unbound) hmem
      ((s.updOrder_lawful tag Order.unbound (fun _ => rfl) (fun _ => rfl)).roster h.roster)
      (by rw [htag]; exact State.mem_updOrder h.roster ho _) rfl (h.key_kept hmem rfl (fun e => absurd e hs))
      (fun e => absurd e hs) rfl (fun c hc t ht => .inr ⟨?_, by simp, ht⟩)
    rintro rfl
    obtain ⟨-, hc'⟩ := h.of_bound (by simp) hmem ht
    rw [hb] at hc'
    exact hc hc'.symm
  exact (State.unbindOrder_records ho).bindings.except hput

/-- R18: after an order is unbound its unbound record is found under its tag. -/
theorem State.order?_unbindOrder {s : State} {tag : Nat} {o : Order} (ho : s.order? tag = some o) :
    (s.unbindOrder tag).order? tag = some o.unbound := by
  rw [(State.unbindOrder_records ho).order?, State.order?_updOrder s tag Order.unbound (fun _ => rfl), ho]
  rfl

/-! ### Binding -/

/-- R12: the record a binding leaves of an order. -/
def Order.boundTo (b : BayNo) (o : Order) : Order :=
  { o with state := .charging, boundBay := some b, carried := o.delivered }

@[simp] theorem State.updOrder_bay (s : State) (tag : Nat) (f : Order → Order) (b : BayNo) :
    (s.updOrder tag f).bay b = s.bay b := rfl

/-- R40: a binding leaves the other bays alone, and the bay names the order. -/
theorem State.boundOrder_bind (s : State) (b c : BayNo) (tag : Nat) :
    ((s.bind b tag).bay c).boundOrder = if c = b then some tag else (s.bay c).boundOrder := by
  unfold State.bind
  rw [State.updOrder_bay]
  split
  next e =>
    subst e
    rw [State.bay_updBay]
  next e => rw [State.bay_updBay_ne _ _ e]

/-- R40, R12: an order that is not Closed, and that no bay in account is bound to, is bound to a bay. -/
theorem State.bind_except {x : Option BayNo} {s : State} (h : RecordsExcept x s) (b : BayNo) {tag : Nat} {o : Order}
    (ho : s.order? tag = some o) (hs : o.state ≠ .closed)
    (hfree : ∀ c : BayNo, some c ≠ x → (s.bay c).boundOrder ≠ some tag) : RecordsExcept x (s.bind b tag) := by
  have hmem := s.mem_of_order? ho
  have htag := s.tag_of_order? ho
  refine h.replace (o' := o.boundTo b) hmem ((s.bind_lawful b tag).roster h.roster)
    (by rw [htag]; exact State.mem_updOrder h.roster ho (Order.boundTo b)) rfl
    (h.key_kept hmem rfl (fun e => absurd e hs)) (fun e => absurd e hs) rfl (fun c hc t ht => ?_)
  rw [State.boundOrder_bind] at ht
  split at ht
  next e =>
    obtain rfl := Option.some.inj ht
    exact .inl ⟨htag.symm, rfl, by rw [e]; rfl⟩
  next e =>
    refine .inr ⟨?_, hc, ht⟩
    rintro rfl
    exact hfree c hc (htag ▸ ht)

/-- R39: the binding check on behalf of an order that is not Closed and that no bay in account is bound to. -/
theorem State.bindingCheckOrder_except {x : Option BayNo} {s : State} (h : RecordsExcept x s) {tag : Nat}
    (hs : ∀ o, s.order? tag = some o → o.state ≠ .closed)
    (hfree : ∀ c : BayNo, some c ≠ x → (s.bay c).boundOrder ≠ some tag) :
    RecordsExcept x (s.bindingCheckOrder tag) := by
  unfold State.bindingCheckOrder
  split
  · exact h
  next o ho =>
    split
    · split
      · exact State.bind_except h _ ho (hs o ho) hfree
      · exact (SameBindings.foldl (fun t x => (t.append_records _ _ _).bindings) _ s).except h
    · split
      · exact h
      · exact State.bind_except h _ ho (hs o ho) hfree

/-- R38: the binding check at an admission binds a Waiting order alone, which no bay is bound to. -/
theorem State.bindingCheckAdmission_keeps (s : State) (b : BayNo) (key : Nat) :
    KeepsRecords s (s.bindingCheckAdmission b key) := by
  have hu : KeepsRecords s (s.updBay b (fun r => { r with state := .unmatched })) := s.updBay_keeps b _
  unfold State.bindingCheckAdmission
  dsimp only
  split
  · exact hu.trans (State.append_keeps _ _ _ _)
  next o ho =>
    split
    · intro h
      have hmem := List.mem_of_find?_eq_some ho
      have hw : o.state = .waiting := by
        have := List.find?_some ho
        simp only [Bool.and_eq_true, beq_iff_eq] at this
        exact this.1
      refine State.bind_except h b (State.order?_of_mem h.roster hmem) (by rw [hw]; simp) (fun c hc ht => ?_)
      have hbound := (h.of_bound hc hmem ht).1
      rw [hw] at hbound
      cases hbound
    · exact hu.trans (State.append_keeps _ _ _ _)

/-! ### Bay unit -/

theorem State.takeCounter_keeps (s : State) (b : BayNo) (reading : Nat) : KeepsRecords s (s.takeCounter b reading) := by
  unfold State.takeCounter
  split
  · exact .refl s
  · split
    · split
      · exact s.updOrder_fields _ _
      · refine KeepsRecords.trans ?_ (State.updBay_keeps _ b _)
        exact s.updOrder_fields _ _
    · exact .refl s

theorem State.leaveEligibility_keeps (s : State) (was : Bool) (b : BayNo) :
    KeepsRecords s (s.leaveEligibility was b) := (s.leaveEligibility_records was b).keeps

theorem State.plugOut_keeps (s : State) (b : BayNo) : KeepsRecords s (s.plugOut b) := by
  unfold State.plugOut
  dsimp only
  refine KeepsRecords.trans ?_ (State.leaveEligibility_keeps _ _ b)
  refine KeepsRecords.trans ?_ (State.append_keeps _ _ _ _)
  split
  next o ho => exact State.closeBound_clear ho _ _ (fun _ => rfl)
  · exact fun h => (h.leave _).updBay_clear _ rfl

theorem State.plugOutFaulted_keeps (s : State) (b : BayNo) (wasIn : Bool) : KeepsRecords s (s.plugOutFaulted b wasIn) := by
  unfold State.plugOutFaulted
  split
  next o ho => exact (State.closeBound_clear ho _ _ (fun _ => rfl)).trans (State.append_keeps _ _ _ _)
  · split
    · exact s.append_keeps _ _ _
    · exact .refl s

theorem State.attach_keeps (s : State) (b : BayNo) : KeepsRecords s (s.attach b) :=
  (s.updBay_keeps b _).trans (State.append_keeps _ _ _ _)

theorem State.plugReaction_keeps (s : State) (b : BayNo) (plugIn wasIn : Bool) :
    KeepsRecords s (s.plugReaction b plugIn wasIn) := by
  unfold State.plugReaction
  split
  case h_1 => exact s.updBay_keeps b _
  case h_2 | h_3 => exact s.attach_keeps b
  case h_4 | h_5 | h_6 | h_7 | h_8 | h_9 | h_10 | h_11 => exact .refl s
  case h_12 | h_13 | h_14 | h_15 | h_16 | h_17 => exact s.plugOut_keeps b
  case h_18 => exact s.plugOutFaulted_keeps b wasIn

theorem State.bayTakesStatus_keeps (s : State) (b : BayNo) (st : PostStatus) : KeepsRecords s (s.bayTakesStatus b st) :=
  ((s.updBay_keeps b _).trans (State.takeCounter_keeps _ b _)).trans (State.plugReaction_keeps _ b _ _)

theorem State.completeAdmission_keeps (s : State) (b : BayNo) : KeepsRecords s (s.completeAdmission b) := by
  unfold State.completeAdmission
  dsimp only
  split
  · exact (s.updBay_keeps b _).trans (State.bindingCheckAdmission_keeps _ b _)
  · exact s.updBay_keeps b _

theorem State.admittingFrame_keeps (s : State) (b : BayNo) (f : VanFrame) : KeepsRecords s (s.admittingFrame b f) := by
  unfold State.admittingFrame
  split
  case h_1 | h_4 | h_5 | h_6 | h_9 | h_10 => exact s.updBay_keeps b _
  case h_2 | h_3 | h_8 | h_11 => exact .refl s
  case h_7 => exact s.completeAdmission_keeps b

theorem State.identityConflict_keeps (s : State) (b : BayNo) : KeepsRecords s (s.identityConflict b) := by
  unfold State.identityConflict
  split
  · exact .refl s
  · exact (s.updBay_keeps b _).trans (State.append_keeps _ _ _ _)

theorem State.clearWakeFailed_keeps (s : State) (b : BayNo) : KeepsRecords s (s.clearWakeFailed b) := by
  unfold State.clearWakeFailed
  split
  · exact s.updOrder_fields _ _
  · exact .refl s

theorem State.countFrame_keeps (s : State) (b : BayNo) : KeepsRecords s (s.countFrame b) :=
  (s.updBay_keeps b _).trans (State.clearWakeFailed_keeps _ b)

theorem State.boundFrame_keeps (s : State) (b : BayNo) (f : VanFrame) : KeepsRecords s (s.boundFrame b f) := by
  unfold State.boundFrame
  split
  · split
    · exact (s.countFrame_keeps b).trans (State.updBay_keeps _ b _)
    · exact s.countFrame_keeps b
    · exact s.countFrame_keeps b
  · exact s.identityConflict_keeps b

theorem State.returnToBound_keeps (s : State) (b : BayNo) : KeepsRecords s (s.returnToBound b) :=
  (((s.updBay_keeps b _).trans (State.clearWakeFailed_keeps _ b)).trans
    (State.withdrawWake_records _ b).keeps).trans (State.append_keeps _ _ _ _)

theorem State.dormantFrame_keeps (s : State) (b : BayNo) (f : VanFrame) : KeepsRecords s (s.dormantFrame b f) := by
  unfold State.dormantFrame
  split
  · exact (s.returnToBound_keeps b).trans (State.boundFrame_keeps _ b f)
  · exact s.identityConflict_keeps b

theorem State.wakingFrame_keeps (s : State) (b : BayNo) (f : VanFrame) : KeepsRecords s (s.wakingFrame b f) := by
  unfold State.wakingFrame
  split
  · exact (s.returnToBound_keeps b).trans (State.boundFrame_keeps _ b _)
  · split
    · exact .refl s
    · exact s.identityConflict_keeps b
  · exact .refl s

theorem State.takeFrame_keeps (s : State) (b : BayNo) (f : VanFrame) : KeepsRecords s (s.takeFrame b f) := by
  unfold State.takeFrame
  split
  · split
    case h_1 => exact s.updBay_keeps b _
    case h_4 => exact s.admittingFrame_keeps b _
    case h_5 =>
      split
      · exact s.updBay_keeps b _
      · exact .refl s
    case h_8 => exact s.boundFrame_keeps b _
    case h_9 => exact s.dormantFrame_keeps b _
    case h_10 => exact s.wakingFrame_keeps b _
    case h_2 | h_3 | h_6 | h_7 | h_11 | h_12 | h_13 => exact .refl s
  · exact .refl s

theorem State.admissionTimeout_keeps (s : State) (b : BayNo) : KeepsRecords s (s.admissionTimeout b) :=
  (s.updBay_keeps b _).trans (State.append_keeps _ _ _ _)

theorem State.becomeDormant_keeps (s : State) (b : BayNo) : KeepsRecords s (s.becomeDormant b) :=
  ((s.updBay_keeps b _).trans (State.append_keeps _ _ _ _)).trans (State.leaveEligibility_keeps _ _ b)

theorem State.wakeTryFailed_keeps (s : State) (b : BayNo) : KeepsRecords s (s.wakeTryFailed b) := by
  unfold State.wakeTryFailed
  split
  · exact .refl s
  · split
    · exact .refl s
    · split
      · exact s.updBay_keeps b _
      · refine KeepsRecords.trans ?_ (State.append_keeps _ _ _ _)
        refine KeepsRecords.trans ?_ (State.updOrder_fields _ _ _)
        exact s.updBay_keeps b _
      · exact .refl s

theorem State.wakeWindowOver_keeps (s : State) (b : BayNo) : KeepsRecords s (s.wakeWindowOver b) :=
  (s.updBay_keeps b _).trans (State.wakeTryFailed_keeps _ b)

theorem State.faultReport_keeps (s : State) (b : BayNo) : KeepsRecords s (s.faultReport b) := by
  have hf : KeepsRecords s (s.updBay b BayRec.toFaulted) := s.updBay_keeps b _
  unfold State.faultReport
  split
  · exact .refl s
  · dsimp only
    refine KeepsRecords.trans ?_ (State.heldCheck_records _).keeps
    refine KeepsRecords.trans ?_ (State.leaveEligibility_keeps _ _ b)
    split
    next o ho =>
      split
      · exact hf.trans (State.closeBound_clear ho _ _ (fun _ => rfl))
      · exact hf
    · exact hf

theorem State.faultLimit_keeps (s : State) (b : BayNo) : KeepsRecords s (s.faultLimit b) :=
  ((s.append_keeps _ _ _).trans (State.updLineBay_records _ b _).keeps).trans (State.faultReport_keeps _ b)

theorem State.clearLine_keeps (s : State) (b : BayNo) : KeepsRecords s (s.clearLine b) := by
  unfold State.clearLine
  dsimp only
  refine KeepsRecords.trans ?_ (State.noteExposure_records _ b _).keeps
  split
  · split
    · exact ((s.updLineBay_records b _).trans (State.line_records _ _)).keeps
    · exact (s.updLineBay_records b _).keeps
  · exact (s.updLineBay_records b _).keeps

/-- R45 step 3: the order of a bay is closed, or unbound and bound anew; the bay still names it. -/
theorem State.clearBayOrder_except {s : State} (h : RecordsExcept none s) (b : BayNo) :
    RecordsExcept (some b) (s.clearBayOrder b) := by
  unfold State.clearBayOrder
  split
  · exact h.leave _
  next o ho =>
    split
    · exact State.closeBound_except h ho _
    · obtain ⟨hfind, hbound, hbay⟩ := h.orderOf? (by simp) ho
      have hp := State.order?_unbindOrder hfind
      have hu := State.unbindOrder_except h hfind (OrderState.ne_closed_of_isBound hbound) hbay
      refine State.bindingCheckOrder_except hu (fun q hq => ?_) (fun c hc ht => ?_)
      · rw [← Option.some.inj (hp.symm.trans hq)]
        simp [Order.unbound]
      · obtain ⟨hb', -⟩ := hu.of_bound hc (State.mem_of_order? _ hp) (by rw [State.tag_of_order? _ hp]; exact ht)
        cases hb'

theorem State.clearBay_keeps (s : State) (b : BayNo) : KeepsRecords s (s.clearBay b) := by
  intro h
  unfold State.clearBay
  dsimp only
  have h2 := ((s.updBay_keeps b
    (fun r => { r.stopWake with state := .off, step := none, admTimer := none })).trans (State.clearLine_keeps _ b)) h
  have h4 := (State.leaveEligibility_records _ (s.eligible b) b).bindings.except (State.clearBayOrder_except h2 b)
  exact h4.updBay_clear _ rfl

/-! ### Line controller -/

theorem State.endGrant_keeps (s : State) (b : BayNo) (before : Nat) : KeepsRecords s (s.endGrant b before) :=
  (((s.updLineBay_records b _).trans (State.endExchange_records _ b)).trans
    (State.noteExposure_records _ b before)).keeps

theorem State.finishGrant_keeps (s : State) (b : BayNo) (v sentAt : Nat) (o : PostOutcome) :
    KeepsRecords s (s.finishGrant b v sentAt o) := by
  unfold State.finishGrant
  dsimp only
  have h1 : KeepsRecords s ((s.updLineBay b (fun l => { l with held := if o = .accept then v else l.held })).count b o) :=
    ((s.updLineBay_records b _).trans (State.count_records _ b o)).keeps
  generalize (s.updLineBay b (fun l => { l with held := if o = .accept then v else l.held })).count b o = s1 at h1 ⊢
  have h2 : KeepsRecords s ((if s1.atFaultLimit b then s1.faultLimit b else s1).endGrant b (s.exposure b)) := by
    refine KeepsRecords.trans ?_ (State.endGrant_keeps _ b _)
    split
    · exact h1.trans (State.faultLimit_keeps s1 b)
    · exact h1
  generalize (if s1.atFaultLimit b then s1.faultLimit b else s1).endGrant b (s.exposure b) = s2 at h2 ⊢
  have h3 : KeepsRecords s (if ((s.lineBay b).increase && o == .refuse) then s2.refusedIncrease b else s2) := by
    split
    · exact h2.trans (State.refusedIncrease_records _ b).keeps
    · exact h2
  generalize (if ((s.lineBay b).increase && o == .refuse) then s2.refusedIncrease b else s2) = s3 at h3 ⊢
  split
  · exact h3
  · exact ((h3.trans (State.updLineBay_records _ b _).keeps).trans (State.decreaseDone_keeps _ b)).trans
      (State.reconcile_records _ b).keeps

theorem State.wakeAccepted_keeps (s : State) (b : BayNo) (period : Nat) : KeepsRecords s (s.wakeAccepted b period) := by
  unfold State.wakeAccepted
  dsimp only
  split
  · exact (s.updBay_keeps b _).trans (State.updBay_keeps _ b _)
  · exact s.updBay_keeps b _

theorem State.wakeNotAccepted_keeps (s : State) (b : BayNo) (period : Nat) :
    KeepsRecords s (s.wakeNotAccepted b period) := by
  unfold State.wakeNotAccepted
  dsimp only
  split
  · exact (s.updBay_keeps b _).trans (State.wakeTryFailed_keeps _ b)
  · exact s.updBay_keeps b _

theorem State.finishWake_keeps (s : State) (b : BayNo) (period : Nat) (o : PostOutcome) :
    KeepsRecords s (s.finishWake b period o) := by
  unfold State.finishWake
  dsimp only
  refine KeepsRecords.trans ((s.endExchange_records b).trans (State.count_records _ b o)).keeps ?_
  split
  · exact (State.updBay_keeps _ b _).trans (State.faultLimit_keeps _ b)
  · split
    · exact State.wakeAccepted_keeps _ b period
    · exact State.wakeNotAccepted_keeps _ b period
    · exact State.wakeNotAccepted_keeps _ b period

/-- A fault limit that is acted on where it is reached. -/
theorem KeepsRecords.faults {s t : State} (h : KeepsRecords s t) (b : BayNo) :
    KeepsRecords s (if t.atFaultLimit b then t.faultLimit b else t) := by
  split
  · exact h.trans (t.faultLimit_keeps b)
  · exact h

theorem State.finishUnlock_keeps (s : State) (b : BayNo) (age : Nat) (o : PostOutcome) :
    KeepsRecords s (s.finishUnlock b age o) := by
  have h : KeepsRecords s ((s.endExchange b).count b o) := ((s.endExchange_records b).trans (State.count_records _ b o)).keeps
  unfold State.finishUnlock
  refine KeepsRecords.faults ?_ b
  split
  · exact h
  · exact h.trans (State.updLineBay_records _ b _).keeps

theorem State.finishPoll_keeps (s : State) (b : BayNo) (o : PostOutcome) : KeepsRecords s (s.finishPoll b o) :=
  KeepsRecords.faults ((s.endExchange_records b).trans (State.count_records _ b o)).keeps b

theorem State.freeLine_keeps (s : State) : KeepsRecords s s.freeLine := s.freeLine_records.keeps

theorem State.finish_keeps (s : State) (b : BayNo) (o : PostOutcome) : KeepsRecords s (s.finish b o) := by
  unfold State.finish
  split
  · exact s.finishPoll_keeps b o
  · exact s.finishGrant_keeps b _ _ o
  · exact s.finishWake_keeps b _ o
  · exact s.finishUnlock_keeps b _ o
  · exact s.freeLine_keeps

theorem State.windowOver_keeps (s : State) : KeepsRecords s s.windowOver := by
  unfold State.windowOver
  split
  · exact .refl s
  · split
    · exact s.freeLine_keeps
    · split
      · exact s.finish_keeps _ _
      · exact (s.repeatSending_records _ _).keeps

theorem State.runWindow_keeps (s : State) : KeepsRecords s s.runWindow := by
  unfold State.runWindow
  split
  · exact .refl s
  · exact (s.runTo_records _).keeps.trans (State.windowOver_keeps _)

theorem State.silence_keeps (s : State) : KeepsRecords s s.silence := by
  unfold State.silence
  split
  · split
    · exact s.runWindow_keeps
    · exact s.runWindow_keeps.trans (State.runWindow_keeps _)
  · exact .refl s

/-- R127: an answer keeps the records when what takes it does. -/
theorem State.answer_keeps (s : State) {take : State → State} (h : KeepsRecords s (take s)) :
    KeepsRecords s (s.answer take) := by
  unfold State.answer
  split
  · split
    · exact s.freeLine_keeps
    · exact h
  · exact .refl s

theorem State.takeOutcome_keeps (s : State) (b : BayNo) (k : Exchange → Bool) (o : PostOutcome) :
    KeepsRecords s (s.takeOutcome b k o) := by
  unfold State.takeOutcome
  split
  · split
    · exact s.silence_keeps
    · exact s.answer_keeps (s.finish_keeps b _)
    · exact s.answer_keeps (s.finish_keeps b _)
  · exact .refl s

theorem State.defer_keeps (s : State) (b : BayNo) (o : OpenX) : KeepsRecords s (s.defer b o) := by
  unfold State.defer
  dsimp only
  split
  · exact s.finish_keeps b _
  · exact ((s.updLineBay_records b _).trans (State.freeLine_records _)).keeps

theorem State.deferOpen_keeps (s : State) (b : BayNo) : KeepsRecords s (s.deferOpen b) := by
  unfold State.deferOpen
  split
  · exact s.defer_keeps b _
  · exact s.freeLine_keeps

theorem State.takeDefer_keeps (s : State) (b : BayNo) : KeepsRecords s (s.takeDefer b) := by
  unfold State.takeDefer
  split
  · exact s.answer_keeps (s.deferOpen_keeps b)
  · exact .refl s

theorem State.lineTakesStatus_keeps (s : State) (b : BayNo) (st : PostStatus) :
    KeepsRecords s (s.lineTakesStatus b st) := by
  unfold State.lineTakesStatus
  dsimp only
  split
  · exact ((s.updLineBay_records b _).keeps.trans (State.updBay_keeps _ b _)).trans
      (State.noteExposure_records _ b _).keeps
  · split
    · exact (((s.updLineBay_records b _).trans (State.reconcile_records _ b)).trans
        (State.noteExposure_records _ b _)).keeps
    · split
      · exact ((s.updLineBay_records b _).trans (State.noteExposure_records _ b _)).keeps.trans
          (State.decreaseDone_keeps _ b)
      · exact .refl s

theorem State.takeStatus_keeps (s : State) (b : BayNo) (st : PostStatus) : KeepsRecords s (s.takeStatus b st) := by
  unfold State.takeStatus
  dsimp only
  have h : KeepsRecords s ((((s.endExchange b).count b .accept).lineTakesStatus b st).bayTakesStatus b st) :=
    (((s.endExchange_records b).trans (State.count_records _ b _)).keeps.trans
      (State.lineTakesStatus_keeps _ b st)).trans (State.bayTakesStatus_keeps _ b st)
  split
  · refine KeepsRecords.trans ?_ (State.reconcile_records _ b).keeps
    split
    · exact h.trans (State.takeFrame_keeps _ b _)
    · exact h
  · split
    · exact h.trans (State.takeFrame_keeps _ b _)
    · exact h

theorem State.takePostStatus_keeps (s : State) (b : BayNo) (st : PostStatus) :
    KeepsRecords s (s.takePostStatus b st) := by
  unfold State.takePostStatus
  split
  · exact s.answer_keeps (s.takeStatus_keeps b st)
  · exact .refl s

/-! ### The round -/

/-- R16: the orders of a list of tags are closed one after another, where each of them is Waiting. -/
theorem closeEach_keeps {l : List Nat} (hl : l.Nodup) {s : State}
    (hw : ∀ o ∈ s.roster, o.tag ∈ l → o.state = .waiting) :
    KeepsRecords s (l.foldl (fun t tag => t.closeOrder tag .missed) s) := by
  induction l generalizing s with
  | nil => exact .refl s
  | cons tag rest ih =>
    obtain ⟨hnot, hrest⟩ := List.nodup_cons.mp hl
    have hstep : KeepsRecords s (s.closeOrder tag .missed) := by
      cases ho : s.order? tag with
      | none =>
        unfold State.closeOrder
        rw [ho]
        exact .refl s
      | some o =>
        refine State.closeFree_keeps ho (hw o (s.mem_of_order? ho) ?_) _
        rw [s.tag_of_order? ho]
        exact List.mem_cons_self
    refine hstep.trans (ih hrest (fun o ho ht => hw o ?_ (List.mem_cons_of_mem _ ht)))
    exact s.mem_of_mem_closeOrder ho (fun e => hnot (e ▸ ht))

theorem State.closeMissed_keeps (s : State) (now : Nat) : KeepsRecords s (s.closeMissed now) := by
  intro h
  refine closeEach_keeps ?_ (fun o ho ht => ?_) h
  · unfold State.missedOrders
    rw [List.nodup_iff_pairwise_ne, List.pairwise_map]
    exact h.roster.2.filter _
  · obtain ⟨p, hp, hpt⟩ := List.mem_map.mp ht
    obtain ⟨hpm, hpw⟩ := List.mem_filter.mp hp
    rw [order_eq_of_tag h.roster.2 ho hpm hpt.symm]
    simp only [Bool.and_eq_true, beq_iff_eq] at hpw
    exact hpw.1

theorem State.clearDormantDeferred_keeps (s : State) : KeepsRecords s s.clearDormantDeferred :=
  .foldl (fun t _ => t.updOrder_fields _ _) _ s

/-- R13, R14: only a live order takes a phase, and the phase is live. -/
theorem phaseAfter_live {o : Order} {remaining cap now : Nat} {st : OrderState}
    (h : phaseAfter o remaining cap now = some st) : o.state.live = true ∧ st.live = true := by
  unfold phaseAfter at h
  cases hs : o.state with
  | charging | conditioning | ready =>
    simp only [hs] at h
    refine ⟨rfl, ?_⟩
    split_ifs at h <;> cases h <;> rfl
  | waiting | closing | closed =>
    simp only [hs] at h
    cases h

theorem State.changePhase_keeps (s : State) (now : Nat) (x : BayNo × Nat) : KeepsRecords s (s.changePhase now x) := by
  unfold State.changePhase
  split
  · exact .refl s
  next o ho =>
    split
    · exact .refl s
    next st hst =>
      obtain ⟨hlive, hlive'⟩ := phaseAfter_live hst
      have hput : KeepsRecords s (s.updOrder x.2 (fun o =>
          { o with state := st, begun := if st = .conditioning then true else o.begun })) :=
        s.updOrder_boundState _ ho (OrderState.ne_closed_of_isBound (OrderState.isBound_of_live hlive))
          (OrderState.isBound_of_live hlive')
      dsimp only
      split
      · exact hput.trans (State.append_keeps _ _ _ _)
      · exact hput

theorem State.storeCaps_bindings (s : State) : SameBindings s s.storeCaps := by
  refine .foldl (fun t b => ?_) _ s
  split
  · split
    · exact .of_same rfl rfl rfl
    · exact .refl t
  · exact .refl t

theorem State.setAtRisk_keeps (s : State) (now : Nat) (x : BayNo × Nat) : KeepsRecords s (s.setAtRisk now x) := by
  unfold State.setAtRisk
  split
  · exact .refl s
  · dsimp only
    split
    · exact .refl s
    · refine KeepsRecords.trans ?_ (State.append_keeps _ _ _ _)
      exact s.updOrder_fields _ _

theorem State.handWake_bindings (s : State) (b : BayNo) : SameBindings s (s.handWake b) := by
  unfold State.handWake
  refine SameBindings.trans ?_ (State.updBay_bindings _ b _ (fun _ => rfl))
  exact .of_same rfl rfl rfl

theorem State.wakeDecision_keeps (s : State) (now : Nat) (x : BayNo × Nat) : KeepsRecords s (s.wakeDecision now x) := by
  unfold State.wakeDecision
  split
  · exact .refl s
  · split
    · split
      · split
        · exact .refl s
        · exact (s.updBay_keeps _ _).trans (State.append_keeps _ _ _ _)
      · split
        · exact .refl s
        · exact (s.handWake_bindings _).keeps
    · exact .refl s

theorem State.setDeferred_keeps (s : State) (now : Nat) : KeepsRecords s (s.setDeferred now) := by
  refine .foldl (fun t x => ?_) _ s
  split
  · exact .refl t
  · exact t.updOrder_fields _ _

theorem State.alloc_keeps (s : State) (a : Alloc) : KeepsRecords s { s with alloc := a } := .of_same rfl rfl rfl

theorem State.roundResult_keeps (s : State) (ranking : List BayNo) (grants : List (BayNo × Nat)) :
    KeepsRecords s (s.roundResult ranking grants) := by
  unfold State.roundResult
  refine KeepsRecords.trans (s.alloc_keeps _) (.foldl (fun t b => ?_) _ _)
  split
  · exact .refl t
  · exact (t.reconcile_records b).keeps

theorem State.round_keeps (s : State) : KeepsRecords s s.round := by
  unfold State.round
  split
  next now _ =>
    unfold State.roundAt
    refine KeepsRecords.trans ?_ (State.roundResult_keeps _ _ _)
    refine KeepsRecords.trans ?_ (State.setDeferred_keeps _ now)
    refine KeepsRecords.trans ?_ (.foldl (fun t x => t.wakeDecision_keeps now x) _ _)
    refine KeepsRecords.trans ?_ (.foldl (fun t x => t.setAtRisk_keeps now x) _ _)
    refine KeepsRecords.trans ?_ (State.storeCaps_bindings _).keeps
    refine KeepsRecords.trans ?_ (.foldl (fun t x => t.changePhase_keeps now x) _ _)
    refine KeepsRecords.trans ?_ (State.clearDormantDeferred_keeps _)
    exact (s.closeMissed_keeps now).trans (.of_same rfl rfl rfl)
  · exact .refl s

end Sys2Proof.Machine
end

section
/-! PROOFS. Every command keeps the records in agreement, and so does a step; with it O5. -/

namespace Sys2Proof.Machine

/-! ### Input unit and Settings store -/

theorem State.withWorking_bindings (s : State) (w : Settings) : SameBindings s (s.withWorking w) := .of_same rfl rfl rfl

theorem State.updInput_bindings (s : State) (y : InputNo) (f : InputState → InputState) :
    SameBindings s (s.updInput y f) := .of_same rfl rfl rfl

theorem State.lineLevel_bindings (s : State) (y : InputNo) (high : Bool) : SameBindings s (s.lineLevel y high) := by
  unfold State.lineLevel
  dsimp only
  split
  · exact .refl s
  · split
    · exact s.updInput_bindings y _
    · split
      · exact (s.updInput_bindings y _).trans (State.setFiltered_records _ y _).bindings
      · exact (s.updInput_bindings y _).trans (State.updInput_bindings _ y _)

theorem State.filterOver_bindings (s : State) (y : InputNo) (p : PendingChange) : SameBindings s (s.filterOver y p) :=
  (s.updInput_bindings y _).trans (State.setFiltered_records _ y _).bindings

theorem State.clearInputLatch_bindings (s : State) (y : InputNo) : SameBindings s (s.clearInputLatch y) := by
  unfold State.clearInputLatch
  split
  · exact (s.updInput_bindings y _).trans (State.actRole_records _ y _).bindings
  · exact .refl s

theorem State.cfgFilter_bindings (s : State) (y : InputNo) (f : FilterTime) : SameBindings s (s.cfgFilter y f) :=
  s.withWorking_bindings _

theorem State.cfgActive_bindings (s : State) (y : InputNo) (high : Bool) : SameBindings s (s.cfgActive y high) := by
  unfold State.cfgActive
  split
  · exact .refl s
  · exact ((s.withWorking_bindings _).trans (State.updInput_bindings _ y _)).trans
      (State.setFiltered_records _ y _).bindings

theorem State.cfgLatch_bindings (s : State) (y : InputNo) (latch : Bool) : SameBindings s (s.cfgLatch y latch) := by
  unfold State.cfgLatch
  dsimp only
  split
  · exact .refl s
  · split
    · exact (s.withWorking_bindings _).trans (State.updInput_bindings _ y _)
    · split
      · exact ((s.withWorking_bindings _).trans (State.updInput_bindings _ y _)).trans
          (State.actRole_records _ y _).bindings
      · exact (s.withWorking_bindings _).trans (State.updInput_bindings _ y _)

theorem State.cfgRole_bindings (s : State) (y : InputNo) (role : InputRole) : SameBindings s (s.cfgRole y role) := by
  unfold State.cfgRole
  dsimp only
  split
  · exact .refl s
  · have hleft : SameBindings s (if (s.input y).inForce then s.roleEvent (s.inputCfg y).role y .cleared else s) := by
      split
      · exact (s.roleEvent_records _ y _).bindings
      · exact .refl s
    generalize (if (s.input y).inForce then s.roleEvent (s.inputCfg y).role y .cleared else s) = left at hleft ⊢
    have hold : SameBindings s (((left.withInputCfg y { s.inputCfg y with role := role }).updInput y
        (fun i => { i with latched := false })).handRole (s.inputCfg y).role) :=
      ((hleft.trans (left.withWorking_bindings _)).trans (State.updInput_bindings _ y _)).trans
        (State.handRole_records _ _).bindings
    split
    · exact (hold.trans (State.updInput_bindings _ y _)).trans (State.actRole_records _ y _).bindings
    · exact hold

theorem State.reconfigure_bindings (s : State) (y : InputNo) (c : InputCfg) : SameBindings s (s.reconfigure y c) :=
  (((s.cfgFilter_bindings y _).trans (State.cfgActive_bindings _ y _)).trans (State.cfgLatch_bindings _ y _)).trans
    (State.cfgRole_bindings _ y _)

theorem State.raisePostMin_bindings (s : State) : SameBindings s s.raisePostMin := by
  refine .foldl (fun t b => ?_) _ s
  split
  · exact (t.setTarget_records b 0).bindings
  · exact .refl t

theorem State.lowerRating_bindings (s : State) (b : BayNo) (rating : Nat) : SameBindings s (s.lowerRating b rating) := by
  have h : SameBindings s (if rating < s.cap b then s.withCap b rating else s) := by
    split
    · exact .of_same rfl rfl rfl
    · exact .refl s
  unfold State.lowerRating
  dsimp only
  generalize (if rating < s.cap b then s.withCap b rating else s) = t at h ⊢
  split
  · exact h.trans (t.setTarget_records b _).bindings
  · exact h

theorem State.applySetting_bindings (s : State) (id : SettingId) (v : SettingValue) :
    SameBindings s (s.applySetting id v) := by
  have hw := s.withWorking_bindings (s.cfg.write id v)
  unfold State.applySetting
  dsimp only
  split
  · exact s.reconfigure_bindings _ _
  · split
    · exact hw.trans (State.raisePostMin_bindings _)
    · exact hw
  · split
    · exact hw.trans (State.lowerRating_bindings _ _ _)
    · exact hw
  · exact hw.trans (State.recomputeCeiling_records _).bindings
  · exact hw.trans (State.recomputeCeiling_records _).bindings
  · exact hw

/-- R184: a reset leaves no order, no waiting line and no binding. -/
theorem State.resetTo_recordsExcept (s : State) (image : Image) (n : Nat) : RecordsExcept none (s.resetTo image n) where
  roster := ⟨List.Pairwise.nil, List.Pairwise.nil⟩
  keys := fun _ ho => absurd ho List.not_mem_nil
  bindings := fun b _ tag ht => by
    simp [State.bay, State.resetTo, BayRec.reset] at ht
  waiting := ⟨List.nodup_nil, fun _ ht => absurd ht List.not_mem_nil⟩

theorem State.refreshAttention_bindings (s : State) : SameBindings s s.refreshAttention := .of_same rfl rfl rfl

theorem State.doReset_keeps (s : State) : KeepsRecords s s.doReset := by
  intro _
  unfold State.doReset State.endStartUp
  dsimp only
  refine (State.settle_records _).keeps ((State.refreshAttention_bindings _).keeps ?_)
  split
  · exact s.resetTo_recordsExcept _ _
  · exact State.append_keeps _ _ _ _ (s.resetTo_recordsExcept _ _)

/-! ### The owners of the requests -/

theorem State.settle_keeps (s : State) : KeepsRecords s s.settle := s.settle_records.keeps

theorem KeepsRecords.settles {s t : State} (h : KeepsRecords s t) : KeepsRecords s t.settle :=
  h.trans t.settle_keeps

theorem State.withSlot_keeps (s : State) (p : Port) (x : Slot) : KeepsRecords s (s.withSlot p x) :=
  (s.withSlot_records p x).keeps

/-- R173: a request is served as its owner keeps the records. -/
theorem State.serve_keeps (s : State) (r : Req) (code : Byte) (permits : Port → Bool)
    (owner : List Byte → State → State × Reply) (h : KeepsRecords s (owner r.body s).1) :
    KeepsRecords s (s.serve r code permits owner) := by
  unfold State.serve
  dsimp only
  split
  · exact .refl s
  all_goals
    refine KeepsRecords.trans ?_ (State.withSlot_keeps _ _ _)
    split
    · exact h
    · exact .refl s

/-- An owner that only reads. -/
theorem State.serve_keeps_of_read (s : State) (r : Req) (code : Byte) (permits : Port → Bool)
    (owner : List Byte → State → State × Reply) (h : (owner r.body s).1 = s) :
    KeepsRecords s (s.serve r code permits owner) :=
  s.serve_keeps r code permits owner (by rw [h]; exact .refl s)

theorem takeEventsOwner_keeps (body : List Byte) (s : State) : KeepsRecords s (takeEventsOwner body s).1 := by
  unfold takeEventsOwner
  split
  · exact .of_same rfl rfl rfl
  · exact .refl s

theorem setAttentionOwner_keeps (p : Port) (body : List Byte) (s : State) :
    KeepsRecords s (setAttentionOwner p body s).1 := by
  unfold setAttentionOwner
  split
  · split
    · cases p <;> exact .of_same rfl rfl rfl
    · exact .refl s
  · exact .refl s

theorem State.startRoundTimer_keeps (s : State) : KeepsRecords s s.startRoundTimer := s.alloc_keeps _

theorem setClockOwner_keeps (body : List Byte) (s : State) : KeepsRecords s (setClockOwner body s).1 := by
  unfold setClockOwner State.setClock
  split
  next t3 t2 t1 t0 =>
    have hu := (s.alloc_keeps { s.alloc with clock := some ⟨val32 t3 t2 t1 t0, s.elapsed⟩ }).trans
      (State.append_keeps _ .clockSet none .raised)
    dsimp only
    split
    · exact ((hu.trans (State.round_keeps _)).trans (State.startRoundTimer_keeps _)).settles
    · exact hu
  · exact .refl s

/-! #### AddOrder and AmendOrder (R7 to R11) -/

/-- R7: what an order that passes the checks brings: a new tag, and a key that no order that is not Closed has. -/
theorem State.addOrderStatus_done {s : State} {o : Order} (h : s.addOrderStatus o = .done) :
    s.order? o.tag = none ∧ ∀ p ∈ s.roster, p.state ≠ .closed → p.key ≠ o.key := by
  unfold State.addOrderStatus at h
  split_ifs at h with h1 h2 h3 h4
  refine ⟨by simpa using h2, fun p hp hpc e => h3 ?_⟩
  simp only [State.keyTaken, List.any_eq_true, Bool.and_eq_true, bne_iff_ne, beq_iff_eq]
  exact ⟨p, hp, ⟨hpc, e⟩, by simp⟩

theorem mem_insertOrder {o p : Order} {l : List Order} : p ∈ insertOrder o l ↔ p = o ∨ p ∈ l := by
  rw [(insertOrder_perm o l).mem_iff, List.mem_cons]

/-- R8: an order that is Waiting enters, and is bound where its van stands. -/
theorem State.addOrder_keeps {s : State} {o : Order} (hs : o.state = .waiting) (h : s.addOrderStatus o = .done) :
    KeepsRecords s (s.addOrder o) := by
  intro hr
  obtain ⟨hnew, hkey⟩ := State.addOrderStatus_done h
  have hin : RecordsExcept none { s with roster := insertOrder o s.roster } :=
    hr.enter ⟨insertOrder_sorted o hr.roster.1, insertOrder_tags o hr.roster.2 (s.tag_free hnew)⟩
      (fun _ => mem_insertOrder) hkey rfl rfl
  have hfind := State.order?_of_mem hin.roster (o := o) (mem_insertOrder.mpr (.inl rfl))
  refine State.bindingCheckOrder_except hin (fun p hp => ?_) (fun c hc ht => ?_)
  · rw [← Option.some.inj (hfind.symm.trans hp), hs]
    simp
  · obtain ⟨hbound, -⟩ := hin.of_bound hc (State.mem_of_order? _ hfind) ht
    rw [hs] at hbound
    cases hbound

theorem orderFrom_state {tag : Nat} {f : OrderFields} {at' : Stamp} {o : Order} (h : orderFrom tag f at' = some o) :
    o.state = .waiting := by
  unfold orderFrom at h
  split at h
  · simp only [Option.ite_none_right_eq_some, Option.some.injEq] at h
    rw [← h.2]
    rfl
  · cases h

theorem addOrderOwner_keeps (body : List Byte) (s : State) : KeepsRecords s (addOrderOwner body s).1 := by
  unfold addOrderOwner
  split
  · split
    · split
      next o ho =>
        split
        next hst => exact State.addOrder_keeps (orderFrom_state ho) hst
        · exact .refl s
      · exact .refl s
    · exact .refl s
  · exact .refl s

/-- R9: a changed record keeps the order's tag, state and bay. -/
theorem amended_standing {o o' : Order} {set : Byte} {f : OrderFields} (h : amended o set f = some o') :
    o'.tag = o.tag ∧ o'.state = o.state ∧ o'.boundBay = o.boundBay := by
  unfold amended at h
  split at h
  · simp only [Option.ite_none_right_eq_some, Option.some.injEq] at h
    rw [← h.2]
    exact ⟨rfl, rfl, rfl⟩
  · cases h

/-- R9: a changed van key is one that no other order that is not Closed has. -/
theorem State.amendStatus_done {s : State} {o o' : Order} (h : s.amendStatus o o' = .done) (hk : o'.key ≠ o.key) :
    ∀ p ∈ s.roster, p.tag ≠ o.tag → p.state ≠ .closed → p.key ≠ o'.key := by
  unfold State.amendStatus at h
  split_ifs at h with h1 h2
  refine fun p hp hne hpc e => h2 ⟨hk, ?_⟩
  simp only [State.keyTaken, List.any_eq_true, Bool.and_eq_true, bne_iff_ne, beq_iff_eq]
  exact ⟨p, hp, ⟨hpc, e⟩, fun e' => hne (Option.some.inj e').symm⟩

/-- R10: the amended order stands in the place of the old one; the other orders are as they were. -/
theorem State.mem_amendFields {s : State} (hs : s.rosterInOrder) {o o' : Order} (toNone : Bool)
    (ho : s.order? o.tag = some o) (p : Order) :
    p ∈ (s.amendFields o o' toNone).roster ↔ p = amendedRecord o' toNone ∨ (p ∈ s.roster ∧ p.tag ≠ o.tag) := by
  have hroster : (s.amendFields o o' toNone).roster =
      if o'.departure = o.departure then (s.updOrder o.tag (fun _ => amendedRecord o' toNone)).roster
      else insertOrder (amendedRecord o' toNone) (s.roster.filter (fun x => x.tag != o.tag)) := by
    unfold State.amendFields
    dsimp only
    split <;> split <;> rfl
  rw [hroster]
  split
  · exact State.mem_updOrder hs ho _ p
  · rw [mem_insertOrder, List.mem_filter, bne_iff_ne]

theorem State.boundOrder_amendFields (s : State) (o o' : Order) (toNone : Bool) (b : BayNo) :
    ((s.amendFields o o' toNone).bay b).boundOrder = (s.bay b).boundOrder := by
  have hbay : ∀ (t : State), t.bays = s.bays → (t.bay b).boundOrder = (s.bay b).boundOrder :=
    fun t ht => by simp only [State.bay, ht]
  unfold State.amendFields
  dsimp only
  split
  · refine ((State.updBay_bindings _ _ _ ?_).bound b).trans ?_
    · exact fun _ => rfl
    · split <;> exact hbay _ rfl
  · split <;> exact hbay _ rfl

theorem State.amendFields_waitingLine (s : State) (o o' : Order) (toNone : Bool) :
    (s.amendFields o o' toNone).waitingLine = s.waitingLine := by
  unfold State.amendFields
  dsimp only
  split <;> split <;> rfl

/-- R10: an order that is not Closed takes new fields. -/
theorem State.amendFields_keeps {s : State} {o o' : Order} (toNone : Bool) (ho : s.order? o.tag = some o)
    (hs : o.state ≠ .closed) (ht : o'.tag = o.tag) (hst : o'.state = o.state) (hbay : o'.boundBay = o.boundBay)
    (hdone : s.amendStatus o o' = .done) : KeepsRecords s (s.amendFields o o' toNone) := by
  intro h
  have hmem := s.mem_of_order? ho
  refine h.replace (o' := amendedRecord o' toNone) hmem ((s.amendFields_lawful ho ht).roster h.roster)
    (State.mem_amendFields h.roster toNone ho) ht (fun hc p hp hne hpc => ?_) (fun e => absurd e hs)
    (s.amendFields_waitingLine o o' toNone) (fun b hb t hbt => ?_)
  · by_cases hk : o'.key = o.key
    · exact h.key_kept (o' := amendedRecord o' toNone) hmem hk (fun e => absurd e hs) hc p hp hne hpc
    · exact State.amendStatus_done hdone hk p hp hne hpc
  · rw [State.boundOrder_amendFields] at hbt
    by_cases e : t = o.tag
    · obtain ⟨h1, h2⟩ := h.of_bound hb hmem (e ▸ hbt)
      exact .inl ⟨e, by rw [← h1, ← hst]; rfl, by rw [← h2, ← hbay]; rfl⟩
    · exact .inr ⟨e, hb, hbt⟩

/-- R11: an order that is not Closed is unbound, if it was bound, and the binding check is asked for. -/
theorem State.rebind_keeps {s : State} {tag : Nat} {o : Order} (ho : s.order? tag = some o) (hs : o.state ≠ .closed) :
    KeepsRecords s (s.rebind tag) := by
  intro h
  have htag := s.tag_of_order? ho
  unfold State.rebind
  rw [ho]
  dsimp only
  split
  next b hb =>
    have hu := State.unbindBay_clear (State.unbindOrder_except h ho hs hb)
    have hfind : ((s.unbindOrder tag).unbindBay b).order? tag = some o.unbound := by
      rw [← State.order?_unbindOrder ho]
      unfold State.unbindBay
      split <;> rfl
    have hl := State.leaveEligibility_records ((s.unbindOrder tag).unbindBay b) (s.eligible b) b
    have hfind' := (hl.order? tag).trans hfind
    have hl' := hl.keeps hu
    refine State.bindingCheckOrder_except hl' (fun p hp => ?_) (fun c hc ht => ?_)
    · rw [← Option.some.inj (hfind'.symm.trans hp)]
      simp [Order.unbound]
    · obtain ⟨hbound, -⟩ := hl'.of_bound hc (State.mem_of_order? _ hfind') (by rw [State.tag_of_order? _ hfind']; exact ht)
      cases hbound
  next hb =>
    refine State.bindingCheckOrder_except h (fun p hp => ?_) (fun c hc ht => ?_)
    · rw [← Option.some.inj (ho.symm.trans hp)]
      exact hs
    · obtain ⟨-, hbay⟩ := h.of_bound hc (s.mem_of_order? ho) (by rw [htag]; exact ht)
      rw [hb] at hbay
      cases hbay

theorem State.amendOrder_keeps {s : State} {o o' : Order} (toNone : Bool) (ho : s.order? o.tag = some o)
    (hs : o.state ≠ .closed) (ht : o'.tag = o.tag) (hst : o'.state = o.state) (hbay : o'.boundBay = o.boundBay)
    (hdone : s.amendStatus o o' = .done) : KeepsRecords s (s.amendOrder o o' toNone) := by
  have hf := State.amendFields_keeps toNone ho hs ht hst hbay hdone
  unfold State.amendOrder
  dsimp only
  split
  · exact hf
  · intro h
    have hr := hf h
    have hmem : amendedRecord o' toNone ∈ (s.amendFields o o' toNone).roster :=
      (State.mem_amendFields h.roster toNone ho _).mpr (.inl rfl)
    have hfind : (s.amendFields o o' toNone).order? o.tag = some (amendedRecord o' toNone) := by
      have := State.order?_of_mem hr.roster hmem
      rwa [show (amendedRecord o' toNone).tag = o.tag from ht] at this
    exact State.rebind_keeps hfind (by rw [show (amendedRecord o' toNone).state = o.state from hst]; exact hs) hr

theorem amendOrderOwner_keeps (body : List Byte) (s : State) : KeepsRecords s (amendOrderOwner body s).1 := by
  unfold amendOrderOwner
  split
  · split
    · split
      · exact .refl s
      next o ho =>
        rw [← s.tag_of_order? ho] at ho
        split
        · exact .refl s
        next hs =>
          split
          · exact .refl s
          next o' ho' =>
            obtain ⟨ht, hst, hbay⟩ := amended_standing ho'
            split
            next hdone =>
              exact (State.amendOrder_keeps _ ho (fun e => hs (.inr e)) ht hst hbay hdone).settles
            · exact .refl s
    · exact .refl s
  · exact .refl s

/-! #### CancelOrder, ReleaseVan and TakeCompletions (R20, R23, R151) -/

theorem State.cancelBound_keeps {s : State} {o : Order} (ho : s.order? o.tag = some o) (hs : o.state.live = true)
    (b : BayNo) : KeepsRecords s (s.cancelBound o.tag b) := by
  unfold State.cancelBound
  dsimp only
  refine KeepsRecords.trans ?_ (State.decreaseDone_keeps _ b)
  refine KeepsRecords.trans ?_ (State.leaveEligibility_keeps _ _ b)
  exact s.updOrder_boundState (st := .closing) _ ho
    (OrderState.ne_closed_of_isBound (OrderState.isBound_of_live hs)) rfl

theorem State.cancelOrder_keeps {s : State} {o : Order} (ho : s.order? o.tag = some o) :
    KeepsRecords s (s.cancelOrder o) := by
  unfold State.cancelOrder
  split
  next hs => exact State.closeFree_keeps ho hs _
  next hs _ => exact State.cancelBound_keeps ho (by rw [hs]; rfl) _
  next hs _ => exact State.cancelBound_keeps ho (by rw [hs]; rfl) _
  next hs _ => exact State.cancelBound_keeps ho (by rw [hs]; rfl) _
  all_goals exact .refl s

theorem cancelOrderOwner_keeps (body : List Byte) (s : State) : KeepsRecords s (cancelOrderOwner body s).1 := by
  unfold cancelOrderOwner
  split
  · split
    · exact .refl s
    next o ho =>
      rw [← s.tag_of_order? ho] at ho
      split
      · exact .refl s
      · exact (State.cancelOrder_keeps ho).settles
  · exact .refl s

theorem State.handUnlock_records (s : State) (b : BayNo) : SameRecords s (s.handUnlock b) := by
  unfold State.handUnlock
  split
  · exact .refl s
  · exact (s.updLineBay_records b _).trans (State.line_records _ _)

theorem State.releaseVan_keeps (s : State) (tag : Nat) (b : BayNo) : KeepsRecords s (s.releaseVan tag b) := by
  unfold State.releaseVan
  dsimp only
  refine KeepsRecords.trans ?_ (State.handUnlock_records _ b).keeps
  refine KeepsRecords.trans ?_ (State.leaveEligibility_keeps _ _ b)
  exact s.updOrder_fields _ _

theorem releaseVanOwner_keeps (body : List Byte) (s : State) : KeepsRecords s (releaseVanOwner body s).1 := by
  unfold releaseVanOwner
  split
  · split
    · exact .refl s
    · split
      · exact .refl s
      · exact .refl s
      · exact .refl s
      · split
        · exact .refl s
        · split
          · exact (s.releaseVan_keeps _ _).settles
          · exact .refl s
  · exact .refl s

/-- R151: the oldest of the waiting line is a Closed order, which leaves the roster and the waiting line. -/
theorem moveWaiting_keeps (l : List Nat) (s : State) (hl : s.waitingLine = l) : KeepsRecords s (moveWaiting l s) := by
  induction l generalizing s with
  | nil => exact .refl s
  | cons tag rest ih =>
    unfold moveWaiting
    split
    · intro h
      have hnodup := h.waiting.1
      have hall := h.waiting.2
      rw [hl] at hnodup hall
      obtain ⟨p, hp, hpt, hpc⟩ := hall tag List.mem_cons_self
      have hfind := State.order?_of_mem h.roster hp
      rw [hpt] at hfind
      rw [hfind]
      refine ih _ rfl (h.remove hp hpc rfl rfl ?_ ?_)
      · rw [hl]
        exact List.sublist_cons_self tag rest
      · rw [hpt]
        exact (List.nodup_cons.mp hnodup).1
    · exact .refl s

theorem takeCompletionsOwner_keeps (body : List Byte) (s : State) : KeepsRecords s (takeCompletionsOwner body s).1 := by
  unfold takeCompletionsOwner State.takeCompletions
  split
  · have hlog : KeepsRecords s { s with log := s.log.drop 4 } := .of_same rfl rfl rfl
    exact (hlog.trans (moveWaiting_keeps _ _ rfl)).trans (State.refreshAttention_bindings _).keeps
  · exact .refl s

theorem reallocateOwner_keeps (body : List Byte) (s : State) : KeepsRecords s (reallocateOwner body s).1 := by
  unfold reallocateOwner State.reallocate
  split
  · split
    · exact (s.round_keeps.trans (State.startRoundTimer_keeps _)).settles
    · exact .refl s
  · exact .refl s

/-! #### The Site and Service ports -/

theorem State.feeder_keeps (s : State) (f : Feeder) : KeepsRecords s { s with feeder := f } := (s.feeder_records f).keeps

theorem State.recomputeCeiling_keeps (s : State) : KeepsRecords s s.recomputeCeiling := s.recomputeCeiling_records.keeps

theorem setCeilingOwner_keeps (body : List Byte) (s : State) : KeepsRecords s (setCeilingOwner body s).1 := by
  unfold setCeilingOwner State.setCeiling
  split
  · split
    · exact ((s.feeder_keeps _).trans (State.recomputeCeiling_keeps _)).settles
    · exact .refl s
  · exact .refl s

theorem State.flagEvent_keeps (s : State) (k : EventKind) (old new : Bool) : KeepsRecords s (s.flagEvent k old new) := by
  unfold State.flagEvent
  split
  · exact .refl s
  · exact s.append_keeps _ _ _

theorem State.reportMeter_keeps (s : State) (load : Nat) : KeepsRecords s (s.reportMeter load) := by
  have h1 : KeepsRecords s (s.meterArrives load) := by
    unfold State.meterArrives
    dsimp only
    split
    · exact (s.feeder_keeps _).trans (State.append_keeps _ _ _ _)
    · exact s.feeder_keeps _
  unfold State.reportMeter
  refine KeepsRecords.trans ?_ (State.recomputeCeiling_keeps _)
  refine KeepsRecords.trans ?_ (State.feeder_keeps _ _)
  refine h1.trans ?_
  unfold State.evaluateMeter
  refine KeepsRecords.trans ?_ (State.flagEvent_keeps _ _ _ _)
  refine KeepsRecords.trans ?_ (State.flagEvent_keeps _ _ _ _)
  exact State.feeder_keeps _ _

theorem reportMeterOwner_keeps (body : List Byte) (s : State) : KeepsRecords s (reportMeterOwner body s).1 := by
  unfold reportMeterOwner
  split
  · split
    · exact (s.reportMeter_keeps _).settles
    · exact .refl s
  · exact .refl s

theorem setTariffOwner_keeps (body : List Byte) (s : State) : KeepsRecords s (setTariffOwner body s).1 := by
  unfold setTariffOwner State.setTariff
  split
  · split
    · split
      · split
        · exact s.feeder_keeps _
        · exact .refl s
      · exact .refl s
    · exact .refl s
  · exact .refl s

theorem State.holdDepot_keeps (s : State) : KeepsRecords s s.holdDepot := by
  unfold State.holdDepot
  split
  · exact (((s.feeder_keeps _).trans (State.recomputeCeiling_keeps _)).trans (State.heldCheck_records _).keeps).settles
  · exact .refl s

theorem holdDepotOwner_keeps (body : List Byte) (s : State) : KeepsRecords s (holdDepotOwner body s).1 := by
  unfold holdDepotOwner
  split
  · exact s.holdDepot_keeps
  · exact .refl s

theorem State.resumeDepot_keeps (s : State) : KeepsRecords s s.resumeDepot := by
  unfold State.resumeDepot
  split
  · exact .refl s
  · dsimp only
    refine KeepsRecords.settles ?_
    have hr := (s.feeder_keeps { s.feeder with hold := .running }).trans (State.recomputeCeiling_keeps _)
    split
    · exact (hr.trans (State.round_keeps _)).trans (State.startRoundTimer_keeps _)
    · exact hr

theorem resumeDepotOwner_keeps (body : List Byte) (s : State) : KeepsRecords s (resumeDepotOwner body s).1 := by
  unfold resumeDepotOwner
  split
  · exact s.resumeDepot_keeps
  · exact .refl s

/-- An event that is appended where a test asks for it. -/
theorem KeepsRecords.appends {s t : State} (h : KeepsRecords s t) (p : Prop) [Decidable p] (k : EventKind)
    (x : Option Subject) (e : Edge) : KeepsRecords s (if p then t else t.append k x e) := by
  split
  · exact h
  · exact h.trans (t.append_keeps _ _ _)

theorem State.clearFeederLatch_keeps (s : State) : KeepsRecords s s.clearFeederLatch :=
  ((s.feeder_keeps _).appends _ _ _ _).appends _ _ _ _

theorem clearLatchOwner_keeps (body : List Byte) (s : State) : KeepsRecords s (clearLatchOwner body s).1 := by
  unfold clearLatchOwner
  split
  · split
    · exact s.clearFeederLatch_keeps
    · split
      · split
        · exact .refl s
        · exact (s.clearInputLatch_bindings _).keeps.settles
      · exact .refl s
  · exact .refl s

theorem clearBayOwner_keeps (body : List Byte) (s : State) : KeepsRecords s (clearBayOwner body s).1 := by
  unfold clearBayOwner
  split
  · split
    · exact (s.clearBay_keeps _).settles
    · exact .refl s
  · exact .refl s

theorem State.retryAdmission_keeps (s : State) (b : BayNo) : KeepsRecords s (s.retryAdmission b) := s.updBay_keeps b _

theorem retryAdmissionOwner_keeps (body : List Byte) (s : State) : KeepsRecords s (retryAdmissionOwner body s).1 := by
  unfold retryAdmissionOwner
  split
  · split
    · split
      · exact s.retryAdmission_keeps _
      · exact .refl s
    · exact .refl s
  · exact .refl s

theorem State.setOverride_keeps (s : State) (b : BayNo) (o : Override) : KeepsRecords s (s.setOverride b o) :=
  s.updBay_keeps b _

theorem setOverrideOwner_keeps (body : List Byte) (s : State) : KeepsRecords s (setOverrideOwner body s).1 := by
  unfold setOverrideOwner
  split
  · split
    · exact s.setOverride_keeps _ _
    · exact .refl s
  · exact .refl s

theorem writeTableOwner_keeps (body : List Byte) (s : State) : KeepsRecords s (writeTableOwner body s).1 := by
  unfold writeTableOwner
  split
  · split
    · split
      · split
        · split
          · exact .refl s
          · exact (s.withWorking_bindings _).keeps
        · exact .refl s
      · exact .refl s
    · exact .refl s
  · exact .refl s

theorem writeSettingOwner_keeps (body : List Byte) (s : State) : KeepsRecords s (writeSettingOwner body s).1 := by
  unfold writeSettingOwner
  split
  · split
    · split
      · split
        · exact .refl s
        · exact (s.applySetting_bindings _ _).keeps.settles
      · exact .refl s
    · exact .refl s
  · exact .refl s

theorem storeSettingsOwner_keeps (body : List Byte) (s : State) : KeepsRecords s (storeSettingsOwner body s).1 := by
  unfold storeSettingsOwner
  split
  · split
    · exact .refl s
    · exact .of_same rfl rfl rfl
  · exact .refl s

/-! ### Timers and ports -/

theorem State.runTo_keeps (s : State) (t : Nat) : KeepsRecords s (s.runTo t) := (s.runTo_records t).keeps

theorem State.meterStale_keeps (s : State) : KeepsRecords s s.meterStale :=
  ((s.feeder_keeps _).trans (State.append_keeps _ _ _ _)).trans (State.recomputeCeiling_keeps _)

theorem State.commitOver_keeps (s : State) (c : Commit) (good : Bool) : KeepsRecords s (s.commitOver c good) := by
  unfold State.commitOver
  refine KeepsRecords.trans ?_ (State.append_keeps _ _ _ _)
  exact .of_same rfl rfl rfl

theorem State.dropFrame_keeps (s : State) (p : Port) : KeepsRecords s (s.dropFrame p) := by
  unfold State.dropFrame
  split
  · exact .refl s
  all_goals exact s.withSlot_keeps p _

theorem State.listenByte_keeps (s : State) (p : Port) (b : Byte) : KeepsRecords s (s.listenByte p b) := by
  unfold State.listenByte
  split
  · split
    · exact s.withSlot_keeps p _
    · exact .refl s
  all_goals exact .refl s

theorem execFrameGap_keeps {p : Port} {ending : Option Byte} {s t : State} (h : execFrameGap p ending s = .next t) :
    KeepsRecords s t := by
  unfold execFrameGap at h
  split at h
  · dsimp only at h
    split at h <;> cases h
    · exact (s.withSlot_keeps p _).trans (State.listenByte_keeps _ p _)
    · exact s.withSlot_keeps p _
  all_goals cases h; exact .refl s

theorem execAnswerEnd_keeps {p : Port} {s t : State} (h : execAnswerEnd p s = .next t) : KeepsRecords s t := by
  unfold execAnswerEnd at h
  split at h
  · split at h <;> cases h
    · exact s.doReset_keeps
    · exact s.withSlot_keeps p _
  all_goals cases h; exact .refl s

theorem execRoundTimerExpiry_keeps {s t : State} (h : execRoundTimerExpiry s = .next t) : KeepsRecords s t := by
  unfold execRoundTimerExpiry at h
  split at h <;> cases h
  · exact (((s.runTo_keeps _).trans (State.round_keeps _)).trans (State.startRoundTimer_keeps _)).settles
  · exact .refl s

theorem execStaleTimerExpiry_keeps {s t : State} (h : execStaleTimerExpiry s = .next t) : KeepsRecords s t := by
  unfold execStaleTimerExpiry at h
  split at h <;> cases h
  · exact ((s.runTo_keeps _).trans (State.meterStale_keeps _)).settles
  · exact .refl s

theorem execAdmissionTimerExpiry_keeps {b : BayNo} {s t : State} (h : execAdmissionTimerExpiry b s = .next t) :
    KeepsRecords s t := by
  unfold execAdmissionTimerExpiry at h
  split at h <;> cases h
  · exact (s.runTo_keeps _).trans (State.admissionTimeout_keeps _ b)
  · exact .refl s

theorem execDormancyExpiry_keeps {b : BayNo} {s t : State} (h : execDormancyExpiry b s = .next t) :
    KeepsRecords s t := by
  unfold execDormancyExpiry at h
  split at h <;> cases h
  · exact ((s.runTo_keeps _).trans (State.becomeDormant_keeps _ b)).settles
  · exact .refl s

theorem execWakeWindowExpiry_keeps {b : BayNo} {s t : State} (h : execWakeWindowExpiry b s = .next t) :
    KeepsRecords s t := by
  unfold execWakeWindowExpiry at h
  split at h <;> cases h
  · exact (s.runTo_keeps _).trans (State.wakeWindowOver_keeps _ b)
  · exact .refl s

theorem execDeferRetryDue_keeps {b : BayNo} {s t : State} (h : execDeferRetryDue b s = .next t) : KeepsRecords s t := by
  unfold execDeferRetryDue at h
  split at h <;> cases h
  · exact (s.runTo_keeps _).settles
  · exact .refl s

theorem execKeepAliveDue_keeps {b : BayNo} {s t : State} (h : execKeepAliveDue b s = .next t) : KeepsRecords s t := by
  unfold execKeepAliveDue at h
  split at h <;> cases h
  · exact (s.runTo_keeps _).settles
  · exact .refl s

theorem execProbeSpacingEnd_keeps {s t : State} (h : execProbeSpacingEnd s = .next t) : KeepsRecords s t := by
  unfold execProbeSpacingEnd at h
  split at h
  · split at h <;> cases h
    · exact (s.runTo_keeps _).settles
    · exact s.settle_keeps
  · cases h
    exact .refl s

theorem execFilterTimerExpiry_keeps {y : InputNo} {s t : State} (h : execFilterTimerExpiry y s = .next t) :
    KeepsRecords s t := by
  unfold execFilterTimerExpiry at h
  split at h <;> cases h
  · exact ((s.runTo_keeps _).trans (State.filterOver_bindings _ y _).keeps).settles
  · exact .refl s

theorem execCommitEnd_keeps {good : Bool} {s t : State} (h : execCommitEnd good s = .next t) : KeepsRecords s t := by
  unfold execCommitEnd at h
  split at h <;> cases h
  · exact s.commitOver_keeps _ good
  · exact .refl s

/-! ### Every command -/

/-- The state a meaning answers, when it answers one at once. -/
theorem KeepsRecords.of_next {s t u : State} (h : KeepsRecords s u)
    (e : (Host.Outcome.next u : Host.Outcome State Fault Refusal) = .next t) : KeepsRecords s t := by
  cases e
  exact h

/-- R6, R12, R25, R150: every command keeps the records in agreement. -/
theorem exec_keeps {i : Instr} {s t : State} (h : exec i s = .next t) : KeepsRecords s t := by
  cases i with
  | readIdentity r => exact .of_next (s.serve_keeps_of_read r _ _ _ (readIdentityOwner_state _ _ s)) h
  | readOrder r => exact .of_next (s.serve_keeps_of_read r _ _ _ (readOrderOwner_state _ s)) h
  | listRoster r => exact .of_next (s.serve_keeps_of_read r _ _ _ (listRosterOwner_state _ s)) h
  | readBay r => exact .of_next (s.serve_keeps_of_read r _ _ _ (readBayOwner_state _ s)) h
  | readFeeder r => exact .of_next (s.serve_keeps_of_read r _ _ _ (readFeederOwner_state _ s)) h
  | readTable r => exact .of_next (s.serve_keeps_of_read r _ _ _ (readTableOwner_state _ s)) h
  | readSetting r => exact .of_next (s.serve_keeps_of_read r _ _ _ (readSettingOwner_state _ s)) h
  | peekCompletions r => exact .of_next (s.serve_keeps_of_read r _ _ _ (peekCompletionsOwner_state _ s)) h
  | takeEvents r => exact .of_next (s.serve_keeps r _ _ _ (takeEventsOwner_keeps _ s)) h
  | setAttention r => exact .of_next (s.serve_keeps r _ _ _ (setAttentionOwner_keeps _ _ s)) h
  | setClock r => exact .of_next (s.serve_keeps r _ _ _ (setClockOwner_keeps _ s)) h
  | addOrder r => exact .of_next (s.serve_keeps r _ _ _ (addOrderOwner_keeps _ s)) h
  | amendOrder r => exact .of_next (s.serve_keeps r _ _ _ (amendOrderOwner_keeps _ s)) h
  | cancelOrder r => exact .of_next (s.serve_keeps r _ _ _ (cancelOrderOwner_keeps _ s)) h
  | releaseVan r => exact .of_next (s.serve_keeps r _ _ _ (releaseVanOwner_keeps _ s)) h
  | takeCompletions r => exact .of_next (s.serve_keeps r _ _ _ (takeCompletionsOwner_keeps _ s)) h
  | reallocate r => exact .of_next (s.serve_keeps r _ _ _ (reallocateOwner_keeps _ s)) h
  | setCeiling r => exact .of_next (s.serve_keeps r _ _ _ (setCeilingOwner_keeps _ s)) h
  | reportMeter r => exact .of_next (s.serve_keeps r _ _ _ (reportMeterOwner_keeps _ s)) h
  | setTariff r => exact .of_next (s.serve_keeps r _ _ _ (setTariffOwner_keeps _ s)) h
  | holdDepot r => exact .of_next (s.serve_keeps r _ _ _ (holdDepotOwner_keeps _ s)) h
  | resumeDepot r => exact .of_next (s.serve_keeps r _ _ _ (resumeDepotOwner_keeps _ s)) h
  | clearLatchFeeder r => exact .of_next (s.serve_keeps r _ _ _ (clearLatchOwner_keeps _ s)) h
  | clearLatchInput r => exact .of_next (s.serve_keeps r _ _ _ (clearLatchOwner_keeps _ s)) h
  | clearBay r => exact .of_next (s.serve_keeps r _ _ _ (clearBayOwner_keeps _ s)) h
  | retryAdmission r => exact .of_next (s.serve_keeps r _ _ _ (retryAdmissionOwner_keeps _ s)) h
  | setOverride r => exact .of_next (s.serve_keeps r _ _ _ (setOverrideOwner_keeps _ s)) h
  | writeTable r => exact .of_next (s.serve_keeps r _ _ _ (writeTableOwner_keeps _ s)) h
  | writeSetting r => exact .of_next (s.serve_keeps r _ _ _ (writeSettingOwner_keeps _ s)) h
  | storeSettings r => exact .of_next (s.serve_keeps r _ _ _ (storeSettingsOwner_keeps _ s)) h
  | restart r => exact .of_next (s.serve_keeps_of_read r _ _ _ (restartOwner_state _ s)) h
  | unknownRequest r kind => exact .of_next (s.serve_keeps_of_read r _ _ _ rfl) h
  | frameCheckFail p => exact .of_next (s.dropFrame_keeps p) h
  | frameGap p ending => exact execFrameGap_keeps h
  | answerEnd p => exact execAnswerEnd_keeps h
  | reset cause => exact .of_next s.doReset_keeps h
  | roundTimerExpiry => exact execRoundTimerExpiry_keeps h
  | staleTimerExpiry => exact execStaleTimerExpiry_keeps h
  | admissionTimerExpiry b => exact execAdmissionTimerExpiry_keeps h
  | dormancyExpiry b => exact execDormancyExpiry_keeps h
  | wakeWindowExpiry b => exact execWakeWindowExpiry_keeps h
  | answerWindowExpiry => exact .of_next s.runWindow_keeps.settles h
  | deferRetryDue b => exact execDeferRetryDue_keeps h
  | keepAliveDue b => exact execKeepAliveDue_keeps h
  | probeSpacingEnd => exact execProbeSpacingEnd_keeps h
  | filterTimerExpiry y => exact execFilterTimerExpiry_keeps h
  | lineChange y high => exact .of_next (s.lineLevel_bindings y high).keeps.settles h
  | commitEnd good => exact execCommitEnd_keeps h
  | postStatus b st => exact .of_next (s.takePostStatus_keeps b st).settles h
  | grantOutcome b o => exact .of_next (s.takeOutcome_keeps b _ o).settles h
  | wakeOutcome b o => exact .of_next (s.takeOutcome_keeps b _ o).settles h
  | unlockOutcome b o => exact .of_next (s.takeOutcome_keeps b _ o).settles h
  | deferAnswer b => exact .of_next (s.takeDefer_keeps b).settles h
  | startByte p => exact .of_next (s.listenByte_keeps p _) h
  | badLength p len =>
    refine .of_next (u := if len.toNat < 2 then s.dropFrame p else s) ?_ h
    split
    · exact s.dropFrame_keeps p
    · exact .refl s

/-! ### O5 -/

/-- Settles O5: the records agree where no bay is left out of account (`recordsExcept_none_iff`), every command keeps
that (`exec_keeps`), and the queue, the free count and the time are none of the records. -/
theorem stepKeepsOrderRecords : Obligations.StepKeepsOrderRecords := by
  unfold Obligations.StepKeepsOrderRecords
  intro s t h hs
  refine step_keeps (fun i u v he hu => ?_) (fun _ _ => id) (fun _ _ => id) (fun _ => id) h hs
  exact recordsExcept_none_iff.mp (exec_keeps he (recordsExcept_none_iff.mpr hu))

end Sys2Proof.Machine
end

section
/-! PROOFS. The clock and the round's events, the phases, the slack, and the reads of the roster: O16, O23, O33, O35,
O36. -/

namespace Sys2Proof.Machine

/-! ### Permitted requests -/

/-- A port that takes the frame and may send the request: the owner's answer. -/
theorem State.serve_permitted {s : State} {r : Req} (h : s.takes r.port = true) {code : Byte} {permits : Port → Bool}
    (hp : permits r.port = true) (owner : List Byte → State → State × Reply) :
    s.serve r code permits owner =
      (owner r.body s).1.answered r code (owner r.body s).2.status (owner r.body s).2.body := by
  rw [State.serve_of_takes h, if_pos hp]

/-! ### The clock and the round (O23, O33) -/

theorem State.now?_of_unset {s : State} (h : s.alloc.clock = none) : s.now? = none := by
  unfold State.now?
  rw [h]

theorem State.now?_of_set {s : State} {c : ClockSet} (h : s.alloc.clock = some c) :
    s.now? = some (min Config.maxSeconds (c.time + (s.elapsed - c.since) / 1000)) := by
  unfold State.now?
  rw [h]

/-- R1: while the clock is unset no round runs. -/
theorem State.round_of_unset {s : State} (h : s.alloc.clock = none) : s.round = s := by
  unfold State.round
  rw [State.now?_of_unset h]

/-- Settles O23: the cases are the two states of the clock. -/
theorem clockIsSetAndRuns : Obligations.ClockIsSetAndRuns := by
  unfold Obligations.ClockIsSetAndRuns
  refine ⟨fun s => ⟨State.now?_of_unset, fun c => State.now?_of_set⟩, fun r t3 t2 t1 t0 s ht hp hb => ?_⟩
  have hserve : exec (.setClock r) s =
      .next ((s.setClock (val32 t3 t2 t1 t0)).answered r 0x0B .done r.body) := by
    change Host.Outcome.next (s.serve r 0x0B plannerOnly setClockOwner) = _
    rw [State.serve_permitted ht (by rw [hp]; rfl), hb]
    rfl
  rw [hserve]
  unfold State.setClock
  cases hc : s.alloc.clock with
  | none => rfl
  | some c => rfl

/-- Settles O33: the timer's expiry by whether it runs, Reallocate by whether the clock is set. -/
theorem roundRunsAtItsEvents : Obligations.RoundRunsAtItsEvents := by
  unfold Obligations.RoundRunsAtItsEvents
  refine ⟨fun s => State.round_of_unset, fun s => ⟨fun h => ?_, fun due h => ?_⟩, fun r s ht hp hb => ?_⟩
  · change execRoundTimerExpiry s = _
    unfold execRoundTimerExpiry
    rw [h]
  · change execRoundTimerExpiry s = _
    unfold execRoundTimerExpiry
    rw [h]
    rfl
  · have hperm : plannerOrSite r.port = true := by
      cases hr : r.port with
      | planner | site => rfl
      | service => exact absurd hr hp
    have hserve : exec (.reallocate r) s = .next ((reallocateOwner [] s).1.answered r 0x11
        (reallocateOwner [] s).2.status (reallocateOwner [] s).2.body) := by
      change Host.Outcome.next (s.serve r 0x11 plannerOrSite reallocateOwner) = _
      rw [State.serve_permitted ht hperm, hb]
    rw [hserve]
    unfold reallocateOwner
    constructor
    · intro hc
      simp only [hc, Option.isSome_none, Bool.false_eq_true, if_false]
      rfl
    · intro hc
      simp only [Option.isSome_iff_ne_none.mpr hc, if_true]
      rfl

/-! ### Phases (O35) -/

/-- R13, R14: an order that takes a phase. -/
theorem State.changePhase_of_some {s : State} {now tag : Nat} {b : BayNo} {o : Order} {st : OrderState}
    (ho : s.order? tag = some o) (hp : phaseAfter o (s.remaining b o) (s.chargeCap b) now = some st) :
    s.changePhase now (b, tag) =
      if st = .ready then
        (s.updOrder tag (fun x => { x with state := st, begun := if st = .conditioning then true else x.begun })).append
          .orderReady (some (.order tag)) .raised
      else s.updOrder tag (fun x => { x with state := st, begun := if st = .conditioning then true else x.begun }) := by
  unfold State.changePhase
  simp only [ho, hp]

/-- R13: the phase of a Charging order. -/
theorem phaseAfter_charging {o : Order} (hs : o.state = .charging) (remaining cap now : Nat) :
    phaseAfter o remaining cap now =
      if o.conditioning ≠ .none ∧ o.departure ≤ now + o.lead * 60 then some .conditioning
      else if 0 < remaining ∧ (o.conditioning = .pack ∨ o.conditioning = .both) ∧ cap = 0 then some .conditioning
      else if remaining = 0 ∧ o.conditioning = .none then some .ready
      else none := by
  unfold phaseAfter
  simp only [hs, Order.leadReached, decide_eq_true_eq]

theorem phaseAfter_conditioning {o : Order} (hs : o.state = .conditioning) (remaining cap now : Nat) :
    phaseAfter o remaining cap now =
      if remaining = 0 then some .ready else if o.conditioning = .none then some .charging else none := by
  unfold phaseAfter
  simp only [hs]

theorem phaseAfter_ready {o : Order} (hs : o.state = .ready) (remaining cap now : Nat) :
    phaseAfter o remaining cap now =
      if o.conditioning ≠ .none ∧ o.begun = false ∧ o.departure ≤ now + o.lead * 60 then some .conditioning
      else if 0 < remaining then some (if o.begun then .conditioning else .charging) else none := by
  unfold phaseAfter
  simp only [hs, Order.leadReached, decide_eq_true_eq]
  cases o.begun <;> by_cases hr : 0 < remaining <;> simp [hr]

/-- Settles O35: the table of R13 and R14 by the order's phase, then what taking a phase changes. -/
theorem roundMovesPhases : Obligations.RoundMovesPhases := by
  unfold Obligations.RoundMovesPhases
  refine ⟨fun o remaining cap now => ⟨fun hs => ?_, fun hs => phaseAfter_conditioning hs _ _ _,
    fun hs => phaseAfter_ready hs _ _ _⟩, fun now tag b o s ho => ⟨fun hp => ?_, fun st hp => ?_⟩⟩
  · rw [phaseAfter_charging hs]
    refine ⟨fun hc hr => if_pos ⟨hc, hr⟩, fun h0 hc hcap => ?_, fun h0 hc => ?_, fun h0 hc hr => ?_,
      fun h0 hr hc => ?_⟩
    · rw [if_pos (c := 0 < remaining ∧ _) ⟨h0, hc, hcap⟩, ite_self]
    · rw [if_neg (fun h => h.1 hc), if_neg (fun h => absurd h0 (Nat.ne_of_gt h.1)), if_pos ⟨h0, hc⟩]
    · rw [if_neg (fun h => hr h.2), if_neg (fun h => absurd h0 (Nat.ne_of_gt h.1)), if_neg (fun h => hc h.2)]
    · rw [if_neg (fun h => hr.elim h.1 (fun hn => hn h.2)), if_neg, if_neg (fun h => absurd h.1 (Nat.ne_of_gt h0))]
      rintro ⟨-, hpack | hboth, hcap⟩
      · simp [hpack, hcap] at hc
      · simp [hboth, hcap] at hc
  · unfold State.changePhase
    simp only [ho, hp]
  · exact State.changePhase_of_some ho hp

/-! ### Remaining energy, slack, AtRisk and Deferred (O36) -/

/-- R92: minutes needed are rounded up: they cover the energy, and one minute less would not. -/
theorem minutesNeeded_bounds {remaining cap : Nat} (hr : 0 < remaining) (hc : 0 < cap) :
    remaining * 6 ≤ minutesNeeded remaining cap * cap ∧ minutesNeeded remaining cap * cap < remaining * 6 + cap := by
  unfold minutesNeeded
  have hdiv := Nat.div_add_mod (remaining * 6 + cap - 1) cap
  have hmod := Nat.mod_lt (remaining * 6 + cap - 1) hc
  rw [Nat.mul_comm] at hdiv
  omega

theorem slackOf_of_done (cap lead : Nat) (left : Int) : slackOf 0 cap left lead = 32767 := rfl

theorem slackOf_of_no_cap {remaining : Nat} (h : 0 < remaining) (left : Int) (lead : Nat) :
    slackOf remaining 0 left lead = -32768 := by
  unfold slackOf
  rw [if_neg (Nat.ne_of_gt h), if_pos rfl]

theorem slackOf_of_pos {remaining cap : Nat} (hr : 0 < remaining) (hc : 0 < cap) (left : Int) (lead : Nat) :
    slackOf remaining cap left lead =
      max (-32768) (min 32767 (left - (minutesNeeded remaining cap : Int) - (lead : Int))) := by
  unfold slackOf
  rw [if_neg (Nat.ne_of_gt hr), if_neg (Nat.ne_of_gt hc)]

/-- R94: AtRisk is set where the slack is below 0, with its event at a change. -/
theorem State.setAtRisk_of_some {s : State} {now tag : Nat} {b : BayNo} {o : Order} (ho : s.order? tag = some o) :
    s.setAtRisk now (b, tag) =
      if decide (s.slack b o now < 0) = o.atRisk then s
      else (s.updOrder tag (fun x => { x with atRisk := decide (s.slack b o now < 0) })).append .orderAtRisk
        (some (.order tag)) (if decide (s.slack b o now < 0) then .raised else .cleared) := by
  unfold State.setAtRisk
  simp only [ho]

/-- Settles O36: each quantity by its own lemma; the roundings are bounds of a division. -/
theorem slackSetsAtRiskAndDeferred : Obligations.SlackSetsAtRiskAndDeferred := by
  unfold Obligations.SlackSetsAtRiskAndDeferred
  refine ⟨fun _ _ => rfl, fun b o p s hp => ?_, fun departure now => ?_, fun _ _ => minutesNeeded_bounds,
    fun remaining cap lead left => ⟨?_, ?_, fun hr hc => slackOf_of_pos hr hc left lead⟩,
    fun now tag b o s ho => ⟨rfl, State.setAtRisk_of_some ho⟩, fun band o slack margin => ?_⟩
  · unfold State.remaining
    rw [hp]
  · unfold minutesLeft
    omega
  · rintro rfl
    exact slackOf_of_done cap lead left
  · rintro hr rfl
    exact slackOf_of_no_cap hr left lead
  · simp only [deferredAfter, Bool.and_eq_true, beq_iff_eq, decide_eq_true_eq, and_assoc]

/-! ### The reads of the roster (O16) -/

/-- R178: the flags of a full flag byte are read back from it. -/
theorem bitsOf_flagByte : ∀ a b c d e f g h : Bool, bitsOf (flagByte [a, b, c, d, e, f, g, h]) = [a, b, c, d, e, f, g, h] := by
  decide

theorem length_be16 (n : Nat) : (be16 n).length = 2 := rfl

theorem length_be32 (n : Nat) : (be32 n).length = 4 := rfl

theorem Stamp.length_bytes (t : Stamp) : t.bytes.length = 4 := by
  cases t <;> rfl

/-- R178: the four bytes of the closed time, 0 while the order is open. -/
def Order.closedBytes (o : Order) : List Byte :=
  match o.closedAt with
  | some t => t.bytes
  | none => be32 0

theorem Order.length_closedBytes (o : Order) : o.closedBytes.length = 4 := by
  unfold Order.closedBytes
  split
  · exact Stamp.length_bytes _
  · rfl

/-- R178: the ten bytes of an order body from its byte 22 on. -/
def State.orderTail (s : State) (o : Order) : List Byte :=
  [byte o.targetSoc, byte o.conditioning.code, byte o.lead, byte o.cls.rank,
    optBayByte o.assigned, optBayByte o.boundBay, byte o.state.code, byte ((o.outcome.map CloseOutcome.code).getD 0),
    flagByte [o.wakePermitted, o.atRisk, o.deferred, o.wakeFailed, o.begun, o.released, o.addedAt.isUnset,
      (o.closedAt.map Stamp.isUnset).getD false],
    byte (s.position o.tag)]

/-- R178: the order body up to its byte 22. -/
def State.orderHead (s : State) (o : Order) : List Byte :=
  be16 o.tag ++ be32 o.key ++ be32 o.departure ++ o.addedAt.bytes ++ o.closedBytes ++
    (be16 o.delivered ++ be16 (s.reportedRemaining o))

theorem State.orderBody_eq (s : State) (o : Order) : s.orderBody o = s.orderHead o ++ s.orderTail o := by
  unfold State.orderBody State.orderHead Order.closedBytes State.orderTail
  simp only [List.append_assoc]
  cases o.outcome <;> rfl

theorem State.length_orderHead (s : State) (o : Order) : (s.orderHead o).length = 22 := by
  simp [State.orderHead, length_be16, length_be32, Stamp.length_bytes, Order.length_closedBytes]

/-- A part of a list, cut out by the length of what comes before it and its own. -/
theorem take_drop_of_append {l pre part post : List Byte} {n m : Nat} (h : l = pre ++ (part ++ post))
    (hn : pre.length = n) (hm : part.length = m) : (l.drop n).take m = part := by
  rw [h, List.drop_left' hn, List.take_left' hm]

/-- From its byte 22 on the order body is its tail. -/
theorem State.drop_orderBody (s : State) (o : Order) (n : Nat) :
    (s.orderBody o).drop (22 + n) = (s.orderTail o).drop n := by
  rw [State.orderBody_eq, ← s.length_orderHead o, List.drop_length_add_append]

theorem Stamp.isUnset_eq (t : Stamp) : t.isUnset = (t == .clockUnset) := by
  cases t <;> rfl

/-- R5: the position of an order counts the orders before it. -/
theorem positionIn_append {tag : Nat} {front back : List Order} {o : Order} (ho : o.tag = tag)
    (hf : ∀ x ∈ front, x.tag ≠ tag) : positionIn tag (front ++ o :: back) = front.length + 1 := by
  induction front with
  | nil => simp [positionIn, ho]
  | cons x xs ih =>
    have hx := hf x List.mem_cons_self
    have hrest := ih (fun y hy => hf y (List.mem_cons_of_mem _ hy))
    simp [positionIn, hx, hrest]

theorem readOrder_of_none {r : Req} {t1 t0 : Byte} {s : State} (ht : s.takes r.port = true) (hb : r.body = [t1, t0])
    (ho : s.order? (val16 t1 t0) = none) : exec (.readOrder r) s = .next (s.answered r 0x02 .notFound []) := by
  change Host.Outcome.next (s.serve r 0x02 anyRole readOrderOwner) = _
  rw [State.serve_permitted ht rfl, hb]
  simp only [readOrderOwner, ho]
  rfl

theorem readOrder_of_some {r : Req} {t1 t0 : Byte} {s : State} {o : Order} (ht : s.takes r.port = true)
    (hb : r.body = [t1, t0]) (ho : s.order? (val16 t1 t0) = some o) :
    exec (.readOrder r) s = .next (s.answered r 0x02 .done (s.orderBody o)) := by
  change Host.Outcome.next (s.serve r 0x02 anyRole readOrderOwner) = _
  rw [State.serve_permitted ht rfl, hb]
  simp only [readOrderOwner, ho]
  rfl

theorem listRoster_eq {r : Req} {start : Byte} {s : State} (ht : s.takes r.port = true) (hb : r.body = [start]) :
    exec (.listRoster r) s = .next
      (if 1 ≤ start.toNat ∧ start.toNat ≤ 40 then
        let tags := ((s.roster.map (fun o => o.tag)).drop (start.toNat - 1)).take 8
        s.answered r 0x03 .done ([byte s.roster.length, byte tags.length] ++ tags.flatMap be16)
      else s.answered r 0x03 .badValue []) := by
  change Host.Outcome.next (s.serve r 0x03 anyRole listRosterOwner) = _
  rw [State.serve_permitted ht rfl, hb]
  unfold listRosterOwner
  simp only [List.map_take, List.map_drop]
  split <;> rfl

/-- Settles O16: the order body is cut at the bounds of its parts. -/
theorem rosterReadsAnswer : Obligations.RosterReadsAnswer := by
  unfold Obligations.RosterReadsAnswer
  refine ⟨fun r t1 t0 s ht hb => ⟨readOrder_of_none ht hb, fun o ho =>
    ⟨s.orderBody o, ?_, readOrder_of_some ht hb ho, ?_⟩⟩, fun _ _ => rfl,
    fun front back o s hr hf => ?_, fun r start s ht hb => listRoster_eq ht hb⟩
  · rw [State.orderBody_eq, List.length_append, State.length_orderHead]
    rfl
  · have hbody : s.orderBody o = be16 o.tag ++ be32 o.key ++ be32 o.departure ++ o.addedAt.bytes ++ o.closedBytes ++
        (be16 o.delivered ++ be16 (s.reportedRemaining o)) ++ s.orderTail o := s.orderBody_eq o
    have hadd := o.addedAt.length_bytes
    have hclosed := o.length_closedBytes
    refine ⟨?_, ?_, ?_, ?_, ?_, ?_, ?_, ?_⟩
    · exact take_drop_of_append (l := s.orderBody o) (pre := [])
        (part := be16 o.tag ++ be32 o.key ++ be32 o.departure)
        (by simpa only [List.append_assoc, List.nil_append] using hbody) rfl rfl
    · refine (take_drop_of_append (part := o.addedAt.bytes) (pre := be16 o.tag ++ be32 o.key ++ be32 o.departure)
        (by simpa only [List.append_assoc] using hbody) rfl hadd).trans ?_
      cases o.addedAt <;> rfl
    · refine (take_drop_of_append (part := o.closedBytes)
        (pre := be16 o.tag ++ be32 o.key ++ be32 o.departure ++ o.addedAt.bytes)
        (by simpa only [List.append_assoc] using hbody) (by simp [length_be16, length_be32, hadd]) hclosed).trans ?_
      unfold Order.closedBytes
      rcases o.closedAt with _ | _ | _ <;> rfl
    · exact take_drop_of_append
        (pre := be16 o.tag ++ be32 o.key ++ be32 o.departure ++ o.addedAt.bytes ++ o.closedBytes)
        (by simpa only [List.append_assoc] using hbody) (by simp [length_be16, length_be32, hadd, hclosed]) rfl
    · rw [State.drop_orderBody s o 0]
      rfl
    · rw [State.drop_orderBody s o 4]
      unfold State.orderTail
      rcases o.outcome with _ | _ | _ | _ | _ <;> rfl
    · rw [State.drop_orderBody s o 8]
      have hclose : (o.closedAt.map Stamp.isUnset).getD false = (o.closedAt == some .clockUnset) := by
        rcases o.closedAt with _ | _ | _ <;> rfl
      rw [← hclose, ← Stamp.isUnset_eq, ← bitsOf_flagByte]
      simp [State.orderTail]
    · rw [State.drop_orderBody s o 9]
      rfl
  · unfold State.position
    rw [hr]
    exact positionIn_append rfl hf

end Sys2Proof.Machine
end

section
/-! PROOFS. The order requests of the planner: O24, O25, O26, O28, O29, O30. -/

namespace Sys2Proof.Machine

/-! ### Closure (O28) -/

@[simp] theorem State.append_log (s : State) (k : EventKind) (x : Option Subject) (e : Edge) :
    (s.append k x e).log = s.log := by
  unfold State.append
  split <;> rfl

@[simp] theorem State.append_waitingLine (s : State) (k : EventKind) (x : Option Subject) (e : Edge) :
    (s.append k x e).waitingLine = s.waitingLine := (s.append_records k x e).waitingLine

/-- R148: the final SoC is that of the pack data of the order's bay. -/
theorem State.closedForm_eq (s : State) (o : Order) (out : CloseOutcome) :
    s.closedForm o out = { o with
      state := .closed
      outcome := some out
      closedAt := some s.stamp
      deferred := false
      finalSoc := o.boundBay.bind (fun b => (s.bay b).pack.map (fun p => p.soc)) } := by
  unfold State.closedForm
  cases o.boundBay <;> rfl

/-- The model filters the roster with `!=`, the statements with `≠`. -/
theorem Order.tag_bne_eq (tag : Nat) : (fun x : Order => x.tag != tag) = fun x => decide (x.tag ≠ tag) := by
  funext x
  by_cases h : x.tag = tag <;> simp [h]

/-- R150: a completed order under its tag: its record joins the log and the order leaves the roster, or it waits. -/
theorem State.enterLog_eq {s t : State} {o : Order} {tag : Nat} (ht : o.tag = tag) (hlog : t.log = s.log)
    (hline : t.waitingLine = s.waitingLine) : t.enterLog o =
      if s.log.length < 32 ∧ s.waitingLine = [] then
        State.refreshAttention { t with
          log := s.log ++ [o.completion], roster := t.roster.filter (fun x => x.tag ≠ tag) }
      else { t with waitingLine := s.waitingLine ++ [tag] } := by
  unfold State.enterLog State.logOrder
  rw [hlog, hline, ht, Order.tag_bne_eq]
  rfl

/-- Settles O28: the closed record is appended to the log where there is room and no order waits. -/
theorem closureLogsOrWaits : Obligations.ClosureLogsOrWaits := by
  unfold Obligations.ClosureLogsOrWaits
  intro tag out o s ho
  have htag : o.tag = tag := s.tag_of_order? ho
  unfold State.closeOrder
  rw [ho]
  dsimp only
  rw [State.closedForm_eq]
  exact State.enterLog_eq htag (State.append_log _ _ _ _) (State.append_waitingLine _ _ _ _)

/-! ### CancelOrder and the decrease-done test (O29) -/

/-- A CancelOrder of the planner. -/
theorem cancelOrder_served {r : Req} {t1 t0 : Byte} {s : State} (ht : s.takes r.port = true) (hp : r.port = .planner)
    (hb : r.body = [t1, t0]) : exec (.cancelOrder r) s = .next ((cancelOrderOwner [t1, t0] s).1.answered r 0x0E
      (cancelOrderOwner [t1, t0] s).2.status (cancelOrderOwner [t1, t0] s).2.body) := by
  change Host.Outcome.next (s.serve r 0x0E plannerOnly cancelOrderOwner) = _
  rw [State.serve_permitted ht (by rw [hp]; rfl), hb]

/-- R20: a CancelOrder that is carried out. -/
theorem cancelOrderOwner_of_open {t1 t0 : Byte} {s : State} {o : Order} (ho : s.order? (val16 t1 t0) = some o)
    (hs : o.state ≠ .closed) : cancelOrderOwner [t1, t0] s =
      ((s.cancelOrder o).settle, .done [byte ((s.cancelOrder o).stateAfter o.tag).code]) := by
  unfold cancelOrderOwner
  simp only [ho, if_neg hs]

theorem State.cancelOrder_of_closing {s : State} {o : Order} (hs : o.state = .closing) : s.cancelOrder o = s := by
  unfold State.cancelOrder
  rw [hs]

theorem State.cancelOrder_of_waiting {s : State} {o : Order} (hs : o.state = .waiting) :
    s.cancelOrder o = s.closeOrder o.tag .cancelled := by
  unfold State.cancelOrder
  rw [hs]

theorem State.cancelOrder_of_live {s : State} {o : Order} {b : BayNo} (hs : o.state.live = true)
    (hb : o.boundBay = some b) : s.cancelOrder o = s.cancelBound o.tag b := by
  unfold State.cancelOrder
  rw [hb]
  cases hst : o.state with
  | charging | conditioning | ready => rfl
  | waiting | closing | closed =>
    rw [hst] at hs
    cases hs

/-- R20: what is found under the tag of an order that has just been closed is Closed. -/
theorem State.stateAfter_closeOrder {s : State} {tag : Nat} {o : Order} (ho : s.order? tag = some o)
    (out : CloseOutcome) : (s.closeOrder tag out).stateAfter tag = .closed := by
  unfold State.stateAfter
  cases hf : (s.closeOrder tag out).order? tag with
  | none => rfl
  | some p =>
    have hmem := State.mem_of_order? _ hf
    have htag := State.tag_of_order? _ hf
    unfold State.closeOrder at hmem
    rw [ho] at hmem
    have hupd := State.enterLog_roster_subset _ _ hmem
    rw [(State.append_records _ _ _ _).roster] at hupd
    obtain ⟨q, -, rfl⟩ := List.mem_map.mp hupd
    split at htag
    next e => rw [if_pos e]; rfl
    next e => exact absurd htag e

theorem State.stateAfter_code (s : State) (tag : Nat) : (s.stateAfter tag).code = match s.order? tag with
    | some x => x.state.code
    | none => 5 := by
  unfold State.stateAfter
  cases s.order? tag <;> rfl

/-- Settles O29: the request by the state of the order; the test as it stands. -/
theorem cancelOrderActs : Obligations.CancelOrderActs := by
  unfold Obligations.CancelOrderActs
  refine ⟨fun r t1 t0 s ht hp hb => ?_, fun b s => ⟨fun h => ?_, fun o h => ?_⟩⟩
  · rw [cancelOrder_served ht hp hb]
    refine ⟨fun ho => ?_, fun o ho => ⟨fun hs => ?_, fun hs => ?_, fun hs => ?_, fun b hs hbay => ?_⟩⟩
    · simp only [cancelOrderOwner, ho]
      rfl
    · simp only [cancelOrderOwner, ho, hs]
      rfl
    · rw [cancelOrderOwner_of_open ho (by rw [hs]; simp), State.cancelOrder_of_closing hs]
      have hafter : s.stateAfter o.tag = .closing := by
        rw [State.stateAfter, s.tag_of_order? ho, ho]
        exact hs
      rw [hafter]
      rfl
    · rw [cancelOrderOwner_of_open ho (by rw [hs]; simp), State.cancelOrder_of_waiting hs,
        State.stateAfter_closeOrder (by rw [s.tag_of_order? ho]; exact ho)]
      rfl
    · rw [cancelOrderOwner_of_open ho (OrderState.ne_closed_of_isBound (OrderState.isBound_of_live hs)),
        State.cancelOrder_of_live hs hbay, State.stateAfter_code]
      rfl
  · unfold State.decreaseDone
    rw [h]
  · unfold State.decreaseDone
    rw [h]
    rfl

/-! ### ReleaseVan (O30) -/

theorem releaseVan_served {r : Req} {t1 t0 : Byte} {s : State} (ht : s.takes r.port = true) (hp : r.port = .planner)
    (hb : r.body = [t1, t0]) : exec (.releaseVan r) s = .next ((releaseVanOwner [t1, t0] s).1.answered r 0x0F
      (releaseVanOwner [t1, t0] s).2.status (releaseVanOwner [t1, t0] s).2.body) := by
  change Host.Outcome.next (s.serve r 0x0F plannerOnly releaseVanOwner) = _
  rw [State.serve_permitted ht (by rw [hp]; rfl), hb]

/-- R23: the rows of an order that is bound to a bay. -/
theorem releaseVanOwner_of_bound {t1 t0 : Byte} {s : State} {o : Order} {b : BayNo}
    (ho : s.order? (val16 t1 t0) = some o) (hs : o.state.isBound = true) (hb : o.boundBay = some b) :
    releaseVanOwner [t1, t0] s =
      if o.released then (s, .done [bayByte b])
      else if o.state = .ready ∨ (s.bay b).ovr.releaseAnytime = true then
        ((s.releaseVan o.tag b).settle, .done [bayByte b])
      else (s, .refuse .wrongState) := by
  unfold releaseVanOwner
  simp only [ho, hb]
  cases hst : o.state with
  | charging | conditioning | ready | closing => rfl
  | waiting | closed =>
    rw [hst] at hs
    cases hs

/-- Settles O30: the rows in the order of the table. -/
theorem releaseVanActs : Obligations.ReleaseVanActs := by
  unfold Obligations.ReleaseVanActs
  intro r t1 t0 s ht hp hb
  rw [releaseVan_served ht hp hb]
  refine ⟨fun ho => ?_, fun o ho => ⟨fun hs => ?_, fun hs => ?_, fun b hs hbay => ?_⟩⟩
  · simp only [releaseVanOwner, ho]
    rfl
  · simp only [releaseVanOwner, ho, hs]
    rfl
  · simp only [releaseVanOwner, ho, hs]
    rfl
  · rw [releaseVanOwner_of_bound ho hs hbay]
    dsimp only
    split
    · rfl
    · split
      · rfl
      · rfl

end Sys2Proof.Machine
end

section
/-! PROOFS. AddOrder and AmendOrder: O24, O25, O26. -/

namespace Sys2Proof.Machine

/-! ### The place of an order in the roster (R5) -/

/-- R5: in a roster in order, an order enters behind the orders of its departure and before the later ones. -/
theorem insertOrder_eq (o : Order) {l : List Order} (h : l.Pairwise (fun a b => a.departure ≤ b.departure)) :
    insertOrder o l =
      l.filter (fun x => x.departure ≤ o.departure) ++ o :: l.filter (fun x => o.departure < x.departure) := by
  induction l with
  | nil => rfl
  | cons x xs ih =>
    obtain ⟨hx, hxs⟩ := List.pairwise_cons.mp h
    unfold insertOrder
    by_cases e : x.departure ≤ o.departure
    · rw [if_pos e, ih hxs, List.filter_cons_of_pos (by simpa using e), List.filter_cons_of_neg (by simpa using e)]
      rfl
    · have hlater : ∀ y ∈ x :: xs, o.departure < y.departure := by
        intro y hy
        rcases List.mem_cons.mp hy with rfl | hy
        · omega
        · have := hx y hy
          omega
      have hnone : (x :: xs).filter (fun y => y.departure ≤ o.departure) = [] :=
        List.filter_eq_nil_iff.mpr fun y hy => by simpa using hlater y hy
      have hall : (x :: xs).filter (fun y => o.departure < y.departure) = x :: xs :=
        List.filter_eq_self.mpr fun y hy => by simpa using hlater y hy
      rw [if_neg e, hnone, hall]
      rfl

/-! ### The checks of R7 and R9 -/

theorem rangesOk_eq_false_iff {key soc lead : Nat} {c : Conditioning} : rangesOk key soc lead c = false ↔
    soc < 10 ∨ 100 < soc ∨ 90 < lead ∨ (c = .none ∧ lead ≠ 0) ∨ key = 0 := by
  rw [← Bool.not_eq_true, rangesOk]
  simp only [Bool.and_eq_true, Bool.or_eq_true, decide_eq_true_eq, bne_iff_ne, beq_iff_eq]
  by_cases hc : c = .none
  · simp only [hc, ne_eq, not_true_eq_false, false_or, true_and]
    omega
  · simp only [hc, ne_eq, not_false_eq_true, true_or, and_true, false_and, false_or]
    omega

theorem State.departureOk_eq_false_iff {s : State} {d : Nat} :
    s.departureOk d = false ↔ s.now?.any (fun now => d ≤ now) = true := by
  unfold State.departureOk
  cases s.now? <;> simp

theorem State.order?_isSome_iff {s : State} {tag : Nat} :
    (s.order? tag).isSome = true ↔ ∃ x ∈ s.roster, x.tag = tag := by
  simp [State.order?]

theorem State.keyTaken_none_iff {s : State} {key : Nat} :
    s.keyTaken key none = true ↔ ∃ x ∈ s.roster, x.state ≠ .closed ∧ x.key = key := by
  simp [State.keyTaken]

theorem State.keyTaken_some_iff {s : State} {key tag : Nat} :
    s.keyTaken key (some tag) = true ↔ ∃ x ∈ s.roster, x.state ≠ .closed ∧ x.key = key ∧ x.tag ≠ tag := by
  simp only [State.keyTaken, List.any_eq_true, Bool.and_eq_true, bne_iff_ne, beq_iff_eq, ne_eq, Option.some.injEq,
    and_assoc, eq_comm (a := tag)]

/-! ### AddOrder (O24) -/

theorem State.orderPlace_of_some {s : State} {tag : Nat} {o : Order} (ho : s.order? tag = some o) :
    s.orderPlace tag = [byte o.state.code, optBayByte o.boundBay, byte (s.position tag)] := by
  unfold State.orderPlace
  rw [ho]

theorem addOrder_served {r : Req} {s : State} (ht : s.takes r.port = true) (hp : r.port = .planner) :
    exec (.addOrder r) s = .next ((addOrderOwner r.body s).1.answered r 0x0C
      (addOrderOwner r.body s).2.status (addOrderOwner r.body s).2.body) := by
  change Host.Outcome.next (s.serve r 0x0C plannerOnly addOrderOwner) = _
  rw [State.serve_permitted ht (by rw [hp]; rfl)]

/-- R7: no record comes of a field that is not among its values. -/
theorem orderFrom_of_unread {tag : Nat} {f : OrderFields} {t : Stamp} (h : f.conditioning = none ∨
    f.wakePermitted = none ∨ f.cls = none ∨ f.assigned = none) : orderFrom tag f t = none := by
  unfold orderFrom
  split
  next hc hw hk ha => simp [hc, hw, hk, ha] at h
  · rfl

theorem orderFrom_of_read {tag : Nat} {f : OrderFields} {t : Stamp} {c : Conditioning} {w : Bool} {k : OrderClass}
    {a : Option BayNo} (hc : f.conditioning = some c) (hw : f.wakePermitted = some w) (hk : f.cls = some k)
    (ha : f.assigned = some a) : orderFrom tag f t =
      if rangesOk f.key f.targetSoc f.lead c then some (newOrder tag f.key f.departure f.targetSoc c f.lead w k a t)
      else none := by
  unfold orderFrom
  rw [hc, hw, hk, ha]

/-- R7: the checks after the ranges. -/
theorem State.addOrderStatus_eq (s : State) (o : Order) : s.addOrderStatus o =
    if s.now?.any (fun now => o.departure ≤ now) then .clockUnset
    else if ∃ x ∈ s.roster, x.tag = o.tag then .duplicate
    else if ∃ x ∈ s.roster, x.state ≠ .closed ∧ x.key = o.key then .duplicate
    else if 40 ≤ s.roster.length then .full
    else .done := by
  unfold State.addOrderStatus
  have hdep : (!s.departureOk o.departure) = true ↔ s.now?.any (fun now => o.departure ≤ now) = true := by
    rw [Bool.not_eq_true', State.departureOk_eq_false_iff]
  have hroom : (if s.roster.length < Config.rosterCapacity then Status.done else .full) =
      if 40 ≤ s.roster.length then .full else .done := by
    rw [← ite_not]
    exact if_congr Nat.not_lt rfl rfl
  exact if_congr hdep rfl (if_congr State.order?_isSome_iff rfl (if_congr State.keyTaken_none_iff rfl hroom))

/-- R8: an order enters a roster in order at its place. -/
theorem State.addOrder_eq {s : State} (h : s.rosterInOrder) (o : Order) : s.addOrder o =
    State.bindingCheckOrder { s with
      roster := s.roster.filter (fun x => x.departure ≤ o.departure) ++
        o :: s.roster.filter (fun x => o.departure < x.departure) } o.tag := by
  unfold State.addOrder
  rw [insertOrder_eq o h.1]

theorem addOrderOwner_of_none {t1 t0 : Byte} {rest : List Byte} {s : State} {f : OrderFields}
    (hf : orderFields? rest = some f) (ho : orderFrom (val16 t1 t0) f s.stamp = none) :
    addOrderOwner (t1 :: t0 :: rest) s = (s, .refuse .badValue) := by
  simp only [addOrderOwner, hf, ho]

theorem addOrderOwner_of_some {t1 t0 : Byte} {rest : List Byte} {s : State} {f : OrderFields} {o : Order}
    (hf : orderFields? rest = some f) (ho : orderFrom (val16 t1 t0) f s.stamp = some o) :
    addOrderOwner (t1 :: t0 :: rest) s =
      match s.addOrderStatus o with
      | .done => (s.addOrder o, .done ((s.addOrder o).orderPlace o.tag))
      | st => (s, .refuse st) := by
  cases hst : s.addOrderStatus o <;> simp only [addOrderOwner, hf, ho, hst]

/-- R7, R8: the answer to an AddOrder whose record obeys its ranges. -/
theorem addOrder_checked {r : Req} {t1 t0 : Byte} {rest : List Byte} {s : State} {f : OrderFields} {o : Order}
    (hf : orderFields? rest = some f) (ho : orderFrom (val16 t1 t0) f s.stamp = some o) (h : s.rosterInOrder) :
    (addOrderOwner (t1 :: t0 :: rest) s).1.answered r 0x0C (addOrderOwner (t1 :: t0 :: rest) s).2.status
        (addOrderOwner (t1 :: t0 :: rest) s).2.body =
      if s.now?.any (fun now => o.departure ≤ now) then s.answered r 0x0C .clockUnset []
      else if ∃ x ∈ s.roster, x.tag = o.tag then s.answered r 0x0C .duplicate []
      else if ∃ x ∈ s.roster, x.state ≠ .closed ∧ x.key = o.key then s.answered r 0x0C .duplicate []
      else if 40 ≤ s.roster.length then s.answered r 0x0C .full []
      else
        let t := State.bindingCheckOrder { s with
          roster := s.roster.filter (fun x => x.departure ≤ o.departure) ++
            o :: s.roster.filter (fun x => o.departure < x.departure) } o.tag
        t.answered r 0x0C .done (t.orderPlace o.tag) := by
  rw [addOrderOwner_of_some hf ho, State.addOrder_eq h, State.addOrderStatus_eq]
  split_ifs <;> rfl

/-- Settles O24: the checks in their order, then the place of the order that has passed them. -/
theorem addOrderIsCheckedAndPlaced : Obligations.AddOrderIsCheckedAndPlaced := by
  unfold Obligations.AddOrderIsCheckedAndPlaced
  refine ⟨fun tag o s ho => State.orderPlace_of_some ho, ?_⟩
  intro r t1 t0 k3 k2 k1 k0 d3 d2 d1 d0 soc cond lead wake cls bay s ht hp hb hroster
  let f : OrderFields := ⟨val32 k3 k2 k1 k0, val32 d3 d2 d1 d0, soc.toNat, conditioning? cond, lead.toNat,
    yesNo? wake, orderClass? cls, optBay? bay⟩
  have hf : orderFields? [k3, k2, k1, k0, d3, d2, d1, d0, soc, cond, lead, wake, cls, bay] = some f := rfl
  rw [addOrder_served ht hp, hb]
  refine ⟨fun hunread => ?_, fun c w k a hc hw hk ha => ?_⟩
  · rw [addOrderOwner_of_none hf (orderFrom_of_unread hunread)]
    rfl
  · intro o
    have hfrom := orderFrom_of_read (f := f) (tag := val16 t1 t0) (t := s.stamp) hc hw hk ha
    by_cases hrange : rangesOk o.key o.targetSoc o.lead c = true
    · have hread : orderFrom (val16 t1 t0) f s.stamp = some o := hfrom.trans (if_pos hrange)
      rw [addOrder_checked hf hread hroster,
        if_neg (fun e => absurd (rangesOk_eq_false_iff.mpr e) (by simp [hrange]))]
    · rw [addOrderOwner_of_none hf (hfrom.trans (if_neg hrange)),
        if_pos (rangesOk_eq_false_iff.mp (by simpa using hrange))]
      rfl

/-! ### The checks of AmendOrder (O25) -/

theorem amendOrder_served {r : Req} {s : State} (ht : s.takes r.port = true) (hp : r.port = .planner) :
    exec (.amendOrder r) s = .next ((amendOrderOwner r.body s).1.answered r 0x0D
      (amendOrderOwner r.body s).2.status (amendOrderOwner r.body s).2.body) := by
  change Host.Outcome.next (s.serve r 0x0D plannerOnly amendOrderOwner) = _
  rw [State.serve_permitted ht (by rw [hp]; rfl)]

/-- R9: no record comes of a changed field that is not among its values. -/
theorem amended_of_unread {o : Order} {set : Byte} {f : OrderFields}
    (h : pick (changes set 3) f.conditioning o.conditioning = none ∨
      pick (changes set 5) f.wakePermitted o.wakePermitted = none ∨ pick (changes set 6) f.cls o.cls = none ∨
      pick (changes set 7) f.assigned o.assigned = none) : amended o set f = none := by
  unfold amended
  split
  next hc hw hk ha => simp [hc, hw, hk, ha] at h
  · rfl

/-- R9: the record with the changed fields, before its ranges are tested. -/
def changedRecord (o : Order) (set : Byte) (f : OrderFields) (c : Conditioning) (w : Bool) (k : OrderClass)
    (a : Option BayNo) : Order :=
  { o with
    key := if changes set 0 then f.key else o.key
    departure := if changes set 1 then f.departure else o.departure
    targetSoc := if changes set 2 then f.targetSoc else o.targetSoc
    conditioning := c
    lead := if changes set 4 then f.lead else o.lead
    wakePermitted := w
    cls := k
    assigned := a }

theorem amended_of_read {o : Order} {set : Byte} {f : OrderFields} {c : Conditioning} {w : Bool} {k : OrderClass}
    {a : Option BayNo} (hc : pick (changes set 3) f.conditioning o.conditioning = some c)
    (hw : pick (changes set 5) f.wakePermitted o.wakePermitted = some w)
    (hk : pick (changes set 6) f.cls o.cls = some k) (ha : pick (changes set 7) f.assigned o.assigned = some a) :
    amended o set f =
      if rangesOk (changedRecord o set f c w k a).key (changedRecord o set f c w k a).targetSoc
        (changedRecord o set f c w k a).lead c then some (changedRecord o set f c w k a) else none := by
  unfold amended
  rw [hc, hw, hk, ha]
  rfl

/-- R9: the checks after the ranges. -/
theorem State.amendStatus_eq (s : State) (o o' : Order) : s.amendStatus o o' =
    if o'.departure ≠ o.departure ∧ s.now?.any (fun now => o'.departure ≤ now) then .clockUnset
    else if o'.key ≠ o.key ∧ ∃ x ∈ s.roster, x.state ≠ .closed ∧ x.key = o'.key ∧ x.tag ≠ o.tag then .duplicate
    else .done := by
  unfold State.amendStatus
  exact if_congr (and_congr_right' State.departureOk_eq_false_iff) rfl
    (if_congr (and_congr_right' State.keyTaken_some_iff) rfl rfl)

theorem amendOrderOwner_of_unknown {t1 t0 set : Byte} {rest : List Byte} {s : State} {f : OrderFields}
    (hf : orderFields? rest = some f) (ho : s.order? (val16 t1 t0) = none) :
    amendOrderOwner (t1 :: t0 :: set :: rest) s = (s, .refuse .notFound) := by
  simp only [amendOrderOwner, hf, ho]

theorem amendOrderOwner_of_ended {t1 t0 set : Byte} {rest : List Byte} {s : State} {f : OrderFields} {o : Order}
    (hf : orderFields? rest = some f) (ho : s.order? (val16 t1 t0) = some o)
    (hs : o.state = .closing ∨ o.state = .closed) :
    amendOrderOwner (t1 :: t0 :: set :: rest) s = (s, .refuse .tooLate) := by
  simp only [amendOrderOwner, hf, ho, if_pos hs]

theorem amendOrderOwner_of_none {t1 t0 set : Byte} {rest : List Byte} {s : State} {f : OrderFields} {o : Order}
    (hf : orderFields? rest = some f) (ho : s.order? (val16 t1 t0) = some o)
    (hs : ¬ (o.state = .closing ∨ o.state = .closed)) (ha : amended o set f = none) :
    amendOrderOwner (t1 :: t0 :: set :: rest) s = (s, .refuse .badValue) := by
  simp only [amendOrderOwner, hf, ho, if_neg hs, ha]

theorem amendOrderOwner_of_some {t1 t0 set : Byte} {rest : List Byte} {s : State} {f : OrderFields} {o o' : Order}
    (hf : orderFields? rest = some f) (ho : s.order? (val16 t1 t0) = some o)
    (hs : ¬ (o.state = .closing ∨ o.state = .closed)) (ha : amended o set f = some o') :
    amendOrderOwner (t1 :: t0 :: set :: rest) s =
      match s.amendStatus o o' with
      | .done => ((s.amendOrder o o' (changes set 3 && o'.conditioning == .none)).settle,
          .done ((s.amendOrder o o' (changes set 3 && o'.conditioning == .none)).settle.orderPlace o.tag))
      | st => (s, .refuse st) := by
  cases hst : s.amendStatus o o' <;> simp only [amendOrderOwner, hf, ho, if_neg hs, ha, hst]

/-- R9, R10: the answer to an AmendOrder whose record obeys its ranges. -/
theorem amendOrder_checked {r : Req} {t1 t0 set : Byte} {rest : List Byte} {s : State} {f : OrderFields} {o o' : Order}
    (hf : orderFields? rest = some f) (ho : s.order? (val16 t1 t0) = some o)
    (hs : ¬ (o.state = .closing ∨ o.state = .closed)) (ha : amended o set f = some o') :
    (amendOrderOwner (t1 :: t0 :: set :: rest) s).1.answered r 0x0D (amendOrderOwner (t1 :: t0 :: set :: rest) s).2.status
        (amendOrderOwner (t1 :: t0 :: set :: rest) s).2.body =
      if o'.departure ≠ o.departure ∧ s.now?.any (fun now => o'.departure ≤ now) then
        s.answered r 0x0D .clockUnset []
      else if o'.key ≠ o.key ∧ ∃ x ∈ s.roster, x.state ≠ .closed ∧ x.key = o'.key ∧ x.tag ≠ o.tag then
        s.answered r 0x0D .duplicate []
      else
        let t := (s.amendOrder o o' (set.getLsbD 3 && o'.conditioning == .none)).settle
        t.answered r 0x0D .done (t.orderPlace o.tag) := by
  rw [amendOrderOwner_of_some hf ho hs ha, State.amendStatus_eq]
  split_ifs <;> rfl

/-- Settles O25: the checks in their order, then the change. -/
theorem amendOrderIsCheckedInOrder : Obligations.AmendOrderIsCheckedInOrder := by
  unfold Obligations.AmendOrderIsCheckedInOrder
  intro r t1 t0 set k3 k2 k1 k0 d3 d2 d1 d0 soc cond lead wake cls bay s ht hp hb
  let f : OrderFields := ⟨val32 k3 k2 k1 k0, val32 d3 d2 d1 d0, soc.toNat, conditioning? cond, lead.toNat,
    yesNo? wake, orderClass? cls, optBay? bay⟩
  have hf : orderFields? [k3, k2, k1, k0, d3, d2, d1, d0, soc, cond, lead, wake, cls, bay] = some f := rfl
  rw [amendOrder_served ht hp, hb]
  refine ⟨fun ho => ?_, fun o ho => ⟨fun hs => ?_, fun hclosing hclosed => ⟨fun hunread => ?_, ?_⟩⟩⟩
  · rw [amendOrderOwner_of_unknown hf ho]
    rfl
  · rw [amendOrderOwner_of_ended hf ho hs]
    rfl
  · rw [amendOrderOwner_of_none hf ho (not_or.mpr ⟨hclosing, hclosed⟩) (amended_of_unread (f := f) hunread)]
    rfl
  · intro c w k a hc hw hk ha o'
    have hopen := not_or.mpr ⟨hclosing, hclosed⟩
    have hfrom := amended_of_read (f := f) hc hw hk ha
    by_cases hrange : rangesOk o'.key o'.targetSoc o'.lead c = true
    · have hread : amended o set f = some o' := hfrom.trans (if_pos hrange)
      rw [amendOrder_checked hf ho hopen hread,
        if_neg (fun e => absurd (rangesOk_eq_false_iff.mpr e) (by simp [hrange]))]
    · rw [amendOrderOwner_of_none hf ho hopen (hfrom.trans (if_neg hrange)),
        if_pos (rangesOk_eq_false_iff.mp (by simpa using hrange))]
      rfl

/-! ### What AmendOrder does (O26) -/

/-- R10: the amended order in the roster: in its place, or, with a new departure, behind the orders of that one. -/
theorem State.amendFields_eq {s : State} (h : s.rosterInOrder) (o o' : Order) (toNone : Bool) :
    s.amendFields o o' toNone =
      let o2 : Order := { o' with wakeFailed := false, begun := if toNone then false else o'.begun }
      let others := s.roster.filter (fun x => x.tag ≠ o.tag)
      let t : State := { s with
        roster := if o'.departure = o.departure then s.roster.map (fun x => if x.tag = o.tag then o2 else x)
          else others.filter (fun x => x.departure ≤ o'.departure) ++
            o2 :: others.filter (fun x => o'.departure < x.departure) }
      match o.boundBay with
      | some b => t.updBay b (fun r => { r with tryCount := 0, retryAt := none })
      | none => t := by
  unfold State.amendFields
  rw [Order.tag_bne_eq]
  dsimp only
  rw [insertOrder_eq _ (h.1.filter _)]
  by_cases hd : o'.departure = o.departure
  · simp only [if_pos hd]
    rfl
  · simp only [if_neg hd]
    rfl

/-- R10: the amended record is found under the order's tag. -/
theorem State.order?_amendFields {s : State} (h : s.rosterInOrder) {o o' : Order} (toNone : Bool)
    (ho : s.order? o.tag = some o) (ht : o'.tag = o.tag) :
    (s.amendFields o o' toNone).order? o.tag = some (amendedRecord o' toNone) := by
  rw [← ht]
  exact State.order?_of_mem ((s.amendFields_lawful ho ht).roster h) (o := amendedRecord o' toNone)
    ((State.mem_amendFields h toNone ho _).mpr (.inl rfl))

/-- R11: what a changed van key or assigned bay does to an order. -/
theorem State.rebind_of_some {s : State} {tag : Nat} {o : Order} (ho : s.order? tag = some o) : s.rebind tag =
    match o.boundBay with
    | some b => (((s.unbindOrder tag).unbindBay b).leaveEligibility (s.eligible b) b).bindingCheckOrder tag
    | none => s.bindingCheckOrder tag := by
  unfold State.rebind
  cases hb : o.boundBay <;> simp only [ho, hb]

theorem State.amendOrder_eq {s u : State} (h : s.rosterInOrder) {o o' : Order} {toNone : Bool}
    (ho : s.order? o.tag = some o) (ht : o'.tag = o.tag) (hbay : o'.boundBay = o.boundBay)
    (hu : s.amendFields o o' toNone = u) : s.amendOrder o o' toNone =
      if o'.key = o.key ∧ o'.assigned = o.assigned then u
      else match o.boundBay with
        | some b => (((u.unbindOrder o.tag).unbindBay b).leaveEligibility (u.eligible b) b).bindingCheckOrder o.tag
        | none => u.bindingCheckOrder o.tag := by
  have hfind : u.order? o.tag = some (amendedRecord o' toNone) := hu ▸ State.order?_amendFields h toNone ho ht
  have hb : (amendedRecord o' toNone).boundBay = o.boundBay := hbay
  unfold State.amendOrder
  rw [hu]
  dsimp only
  rw [State.rebind_of_some hfind, hb]

/-- R42: a Faulted bay loses its binding only. -/
theorem State.unbindBay_of_faulted {s : State} {b : BayNo} (h : (s.bay b).state = .faulted) :
    s.unbindBay b = s.updBay b BayRec.clearBinding := by
  unfold State.unbindBay
  rw [if_pos h]

theorem State.unbindBay_of_not_faulted {s : State} {b : BayNo} (h : (s.bay b).state ≠ .faulted) : s.unbindBay b =
    (s.updBay b (fun r => { r.clearBinding.endPeriod with state := .unmatched, dormTimer := none })).withdrawWake b := by
  unfold State.unbindBay
  rw [if_neg h]

/-- R110: a Wake of a bay that is not yet started is withdrawn, and pending follows the open one. -/
theorem State.bay_withdrawWake (s : State) (b : BayNo) :
    (s.withdrawWake b).bay b = { s.bay b with wakePending := (s.lineBay b).wakeOpen } := by
  unfold State.withdrawWake
  rw [State.bay_updBay]
  rfl

theorem State.bay_withdrawWake_ne (s : State) {b c : BayNo} (h : c ≠ b) : (s.withdrawWake b).bay c = s.bay c := by
  unfold State.withdrawWake
  rw [State.bay_updBay_ne _ _ h]
  rfl

theorem State.lineBay_withdrawWake (s : State) (b : BayNo) :
    (s.withdrawWake b).lineBay b = { s.lineBay b with pWake := none } :=
  State.lineBay_updLineBay s b (fun l => { l with pWake := none })

/-- Settles O26: the change of the record, the unbinding of the order, and that of the bay by its state. -/
theorem amendOrderActsAndUnbinds : Obligations.AmendOrderActsAndUnbinds := by
  unfold Obligations.AmendOrderActsAndUnbinds
  refine ⟨fun o o' toNone s ho ht hbay h =>
    State.amendOrder_eq h ho ht hbay (State.amendFields_eq h o o' toNone), fun tag o s ho => State.unbindOrder_of_some ho,
    fun b s hf => State.unbindBay_of_faulted hf, fun b s hf => ?_⟩
  rw [State.unbindBay_of_not_faulted hf]
  refine ⟨?_, State.lineBay_withdrawWake _ _, fun c hc => ?_⟩
  · rw [State.bay_withdrawWake, State.bay_updBay]
    rfl
  · rw [State.bay_withdrawWake_ne _ hc, State.bay_updBay_ne _ _ hc]

end Sys2Proof.Machine
end

section
/-! PROOFS. The timers of the feeder and of a bay, the binding check, admission and the van frames: O27, O31, O32, O52. -/

namespace Sys2Proof.Machine

/-! ### Rules of the shared operations -/

/-- Two updates of a bay that agree on its record agree. -/
theorem State.updBay_congr {s : State} {b : BayNo} {f g : BayRec → BayRec} (h : f (s.bay b) = g (s.bay b)) :
    s.updBay b f = s.updBay b g := by
  unfold State.bay at h
  unfold State.updBay
  rw [h]

/-- Two updates of a bay after one another are one. -/
theorem State.updBay_updBay (s : State) (b : BayNo) (f g : BayRec → BayRec) :
    (s.updBay b f).updBay b g = s.updBay b (fun r => g (f r)) := by
  simp [State.updBay]

/-! ### The timers (O52) -/

/-- R120: a failed try of a bay that has an order. -/
theorem State.wakeTryFailed_of_some {s : State} {b : BayNo} {o : Order} (ho : s.orderOf? b = some o) :
    s.wakeTryFailed b =
      if o.state = .closing then s
      else if (s.bay b).tryCount = 0 then
        s.updBay b (fun r => { r with tryCount := 1, retryAt := some (s.elapsed + 120000) })
      else if (s.bay b).tryCount = 1 then
        ((s.updBay b (fun r => { r with tryCount := 2 })).updOrder o.tag (fun x => { x with wakeFailed := true })).append
          .wakeFailed (some (.order o.tag)) .raised
      else s := by
  unfold State.wakeTryFailed
  rw [ho]
  rcases (s.bay b).tryCount with _ | _ | n
  · rfl
  · rfl
  · rfl

/-- The order of a bay is found whatever changes on the bay but its binding. -/
theorem State.orderOf?_updBay {s : State} {b : BayNo} {f : BayRec → BayRec}
    (h : (f (s.bay b)).boundOrder = (s.bay b).boundOrder) : (s.updBay b f).orderOf? b = s.orderOf? b := by
  unfold State.orderOf?
  rw [State.bay_updBay, h]
  rfl

/-- Entry 2: the command of a timer that does not run changes nothing. -/
theorem expiry_of_stopped (s : State) :
    (s.feeder.staleTimer = none → exec .staleTimerExpiry s = .next s) ∧ ∀ b : BayNo,
      ((s.bay b).state ≠ .admitting ∨ (s.bay b).admTimer = none → exec (.admissionTimerExpiry b) s = .next s) ∧
      ((s.bay b).state ≠ .bound ∨ (s.bay b).dormTimer = none → exec (.dormancyExpiry b) s = .next s) ∧
      ((s.bay b).state ≠ .waking ∨ (s.bay b).wakeWindow = none → exec (.wakeWindowExpiry b) s = .next s) := by
  refine ⟨fun h => ?_, fun b => ⟨fun h => ?_, fun h => ?_, fun h => ?_⟩⟩
  · change execStaleTimerExpiry s = _
    unfold execStaleTimerExpiry
    rw [h]
  · change execAdmissionTimerExpiry b s = _
    unfold execAdmissionTimerExpiry
    split
    next hs ht => exact absurd h (by simp [hs, ht])
    next => rfl
  · change execDormancyExpiry b s = _
    unfold execDormancyExpiry
    split
    next hs ht => exact absurd h (by simp [hs, ht])
    next => rfl
  · change execWakeWindowExpiry b s = _
    unfold execWakeWindowExpiry
    split
    next hs ht => exact absurd h (by simp [hs, ht])
    next => rfl

theorem staleTimerExpiry_of_running {s : State} {due : Nat} (h : s.feeder.staleTimer = some due) :
    exec .staleTimerExpiry s = .next (s.runTo due).meterStale.settle := by
  change execStaleTimerExpiry s = _
  unfold execStaleTimerExpiry
  rw [h]

theorem admissionTimerExpiry_of_running {s : State} {b : BayNo} {due : Nat} (hs : (s.bay b).state = .admitting)
    (h : (s.bay b).admTimer = some due) :
    exec (.admissionTimerExpiry b) s = .next ((s.runTo due).admissionTimeout b) := by
  change execAdmissionTimerExpiry b s = _
  unfold execAdmissionTimerExpiry
  rw [hs, h]

theorem dormancyExpiry_of_running {s : State} {b : BayNo} {due : Nat} (hs : (s.bay b).state = .bound)
    (h : (s.bay b).dormTimer = some due) :
    exec (.dormancyExpiry b) s = .next ((s.runTo due).becomeDormant b).settle := by
  change execDormancyExpiry b s = _
  unfold execDormancyExpiry
  rw [hs, h]

theorem wakeWindowExpiry_of_running {s : State} {b : BayNo} {due : Nat} (hs : (s.bay b).state = .waking)
    (h : (s.bay b).wakeWindow = some due) :
    exec (.wakeWindowExpiry b) s = .next ((s.runTo due).wakeWindowOver b) := by
  change execWakeWindowExpiry b s = _
  unfold execWakeWindowExpiry
  rw [hs, h]

/-- Settles O52: a stopped timer, then each running one by what its expiry does at the due moment. -/
theorem feederAndBayTimersExpire : Obligations.FeederAndBayTimersExpire := by
  unfold Obligations.FeederAndBayTimersExpire
  refine ⟨expiry_of_stopped, fun due s h => staleTimerExpiry_of_running h, fun b due s => ⟨fun hs h => ?_,
    fun hs h => ?_, fun hs h o ho => ?_⟩⟩
  · rw [admissionTimerExpiry_of_running hs h]
    rfl
  · rw [dormancyExpiry_of_running hs h]
    rfl
  · rw [wakeWindowExpiry_of_running hs h]
    have hfind : ((s.runTo due).updBay b (fun r => { r with state := .dormant, wakeWindow := none })).orderOf? b =
        some o := (State.orderOf?_updBay (s := s.runTo due) rfl).trans ho
    unfold State.wakeWindowOver
    rw [State.wakeTryFailed_of_some hfind, State.bay_updBay]
    rfl

/-! ### The binding check (O27) -/

/-- R39 step 1: the bays of a key, as the statements write them. -/
theorem State.unmatchedWith_eq (s : State) (key : Nat) : s.unmatchedWith key =
    (List.finRange 24).filter (fun c => (s.bay c).state = .unmatched ∧ (s.bay c).identity = some key) := by
  unfold State.unmatchedWith allBays
  exact List.filter_congr fun c _ => by simp [Bool.beq_eq_decide_eq]

theorem State.mem_unmatchedWith {s : State} {key : Nat} {b : BayNo} :
    b ∈ s.unmatchedWith key ↔ (s.bay b).state = .unmatched ∧ (s.bay b).identity = some key := by
  simp [State.unmatchedWith_eq]

/-- R39: the lowest bay of a key stands first. -/
theorem State.unmatchedWith_eq_cons {s : State} {key : Nat} {b : BayNo} (h : b ∈ s.unmatchedWith key)
    (hleast : ∀ c ∈ s.unmatchedWith key, b ≤ c) : ∃ l, s.unmatchedWith key = b :: l := by
  have hsorted : (s.unmatchedWith key).Pairwise (· < ·) := (List.pairwise_lt_finRange 24).filter _
  cases hl : s.unmatchedWith key with
  | nil => simp [hl] at h
  | cons x xs =>
    rw [hl] at h hleast hsorted
    rcases List.mem_cons.mp h with rfl | hb
    · exact ⟨xs, rfl⟩
    · exact absurd (hleast x List.mem_cons_self) (not_le.mpr ((List.pairwise_cons.mp hsorted).1 b hb))

/-- R39: the check on behalf of an order with an assigned bay. -/
theorem State.bindingCheckOrder_of_assigned {s : State} {tag : Nat} {o : Order} {b : BayNo}
    (ho : s.order? tag = some o) (ha : o.assigned = some b) : s.bindingCheckOrder tag =
      if b ∈ s.unmatchedWith o.key then s.bind b tag
      else (s.unmatchedWith o.key).foldl (fun t x => t.append .wrongBay (some (.bay x)) .raised) s := by
  unfold State.bindingCheckOrder
  simp only [ho, ha]

/-- R39: the check on behalf of an order that may take any bay takes the first. -/
theorem State.bindingCheckOrder_of_unassigned {s : State} {tag : Nat} {o : Order} {b : BayNo} {l : List BayNo}
    (ho : s.order? tag = some o) (ha : o.assigned = none) (hl : s.unmatchedWith o.key = b :: l) :
    s.bindingCheckOrder tag = s.bind b tag := by
  unfold State.bindingCheckOrder
  simp only [ho, ha, hl]

/-- R39: with no Unmatched bay of the key the check changes nothing. -/
theorem State.bindingCheckOrder_of_nil {s : State} {tag : Nat} {o : Order} (ho : s.order? tag = some o)
    (hnil : s.unmatchedWith o.key = []) : s.bindingCheckOrder tag = s := by
  cases ha : o.assigned with
  | none =>
    unfold State.bindingCheckOrder
    simp only [ho, ha, hnil]
  | some b => simp [State.bindingCheckOrder_of_assigned ho ha, hnil]

/-- Settles O27: the check by the order's assigned bay and the Unmatched bays of its key; a bind as it stands. -/
theorem bindingCheckBinds : Obligations.BindingCheckBinds := by
  unfold Obligations.BindingCheckBinds
  refine ⟨fun tag o s ho => ⟨fun b hb ha => ?_, fun b hb hleast ha => ?_, fun hnone => ?_, fun b ha hb => ?_⟩,
    fun b tag s => rfl⟩
  · rw [State.bindingCheckOrder_of_assigned ho ha, if_pos (State.mem_unmatchedWith.mpr hb)]
  · obtain ⟨l, hl⟩ := State.unmatchedWith_eq_cons (State.mem_unmatchedWith.mpr hb)
      (fun c hc => hleast c (State.mem_unmatchedWith.mp hc))
    exact State.bindingCheckOrder_of_unassigned ho ha hl
  · exact State.bindingCheckOrder_of_nil ho
      (List.eq_nil_iff_forall_not_mem.mpr fun b hb => hnone b (State.mem_unmatchedWith.mp hb))
  · rw [State.bindingCheckOrder_of_assigned ho ha, if_neg (fun h => hb (State.mem_unmatchedWith.mp h)),
      State.unmatchedWith_eq]

/-! ### The ranges of a frame and the state it meets (R27, R28) -/

theorem frameValid_identity_iff (key : Nat) :
    frameValid (.identity key) = true ↔ 1 ≤ key ∧ key ≤ 4294967295 := by
  simp [frameValid]

theorem frameValid_pack_iff (soc : Nat) (temp : Int) (capacity : Nat) : frameValid (.pack soc temp capacity) = true ↔
    soc ≤ 100 ∧ -40 ≤ temp ∧ temp ≤ 85 ∧ 100 ≤ capacity ∧ capacity ≤ 2000 := by
  simp [frameValid, and_assoc]

/-- R28: a frame outside its ranges is discarded. -/
theorem State.takeFrame_of_invalid (s : State) (b : BayNo) {f : VanFrame} (hf : frameValid f = false) :
    s.takeFrame b f = s := by
  unfold State.takeFrame
  rw [hf]
  rfl

/-- R28: an Off, a Vacant and a Faulted bay discard every frame. -/
theorem State.takeFrame_of_no_van {s : State} {b : BayNo}
    (hs : (s.bay b).state = .off ∨ (s.bay b).state = .vacant ∨ (s.bay b).state = .faulted) (f : VanFrame) :
    s.takeFrame b f = s := by
  unfold State.takeFrame
  rcases hs with hs | hs | hs <;> rw [hs] <;> exact ite_self s

theorem State.takeFrame_of_admitting {s : State} {b : BayNo} {f : VanFrame} (hs : (s.bay b).state = .admitting)
    (hf : frameValid f = true) : s.takeFrame b f = s.admittingFrame b f := by
  unfold State.takeFrame
  rw [if_pos hf, hs]

theorem State.takeFrame_of_bound {s : State} {b : BayNo} {f : VanFrame} (hs : (s.bay b).state = .bound)
    (hf : frameValid f = true) : s.takeFrame b f = s.boundFrame b f := by
  unfold State.takeFrame
  rw [if_pos hf, hs]

theorem State.takeFrame_of_dormant {s : State} {b : BayNo} {f : VanFrame} (hs : (s.bay b).state = .dormant)
    (hf : frameValid f = true) : s.takeFrame b f = s.dormantFrame b f := by
  unfold State.takeFrame
  rw [if_pos hf, hs]

theorem State.takeFrame_of_waking {s : State} {b : BayNo} {f : VanFrame} (hs : (s.bay b).state = .waking)
    (hf : frameValid f = true) : s.takeFrame b f = s.wakingFrame b f := by
  unfold State.takeFrame
  rw [if_pos hf, hs]

/-- R33: an Identity frame starts the admission of an Attached bay. -/
theorem State.takeFrame_identity_of_attached {s : State} {b : BayNo} {key : Nat} (hs : (s.bay b).state = .attached)
    (hf : frameValid (.identity key) = true) : s.takeFrame b (.identity key) = s.startAdmission b key := by
  unfold State.takeFrame
  rw [if_pos hf, hs]

theorem State.takeFrame_pack_of_attached {s : State} {b : BayNo} (hs : (s.bay b).state = .attached) (soc : Nat)
    (temp : Int) (capacity : Nat) : s.takeFrame b (.pack soc temp capacity) = s := by
  unfold State.takeFrame
  rw [hs]
  exact ite_self s

theorem State.takeFrame_lock_of_attached {s : State} {b : BayNo} (hs : (s.bay b).state = .attached) (locked : Bool) :
    s.takeFrame b (.lock locked) = s := by
  unfold State.takeFrame
  rw [hs]
  exact ite_self s

/-- R37: an Unmatched bay takes the pack data of a van it knows. -/
theorem State.takeFrame_pack_of_unmatched {s : State} {b : BayNo} {soc : Nat} {temp : Int} {capacity : Nat}
    (hs : (s.bay b).state = .unmatched) (hf : frameValid (.pack soc temp capacity) = true) :
    s.takeFrame b (.pack soc temp capacity) = if (s.bay b).identity = none then s
      else s.updBay b (fun r => { r with pack := some ⟨soc, temp, capacity⟩, lastFrame := some s.elapsed }) := by
  unfold State.takeFrame
  rw [if_pos hf, hs]
  cases (s.bay b).identity <;> rfl

theorem State.takeFrame_identity_of_unmatched {s : State} {b : BayNo} (hs : (s.bay b).state = .unmatched) (key : Nat) :
    s.takeFrame b (.identity key) = s := by
  unfold State.takeFrame
  rw [hs]
  exact ite_self s

theorem State.takeFrame_lock_of_unmatched {s : State} {b : BayNo} (hs : (s.bay b).state = .unmatched) (locked : Bool) :
    s.takeFrame b (.lock locked) = s := by
  unfold State.takeFrame
  rw [hs]
  exact ite_self s

/-! ### Admission (O31) -/

/-- R34: before an Identity a Pack and a Lock frame are discarded. -/
theorem State.admittingFrame_of_expectIdentity {s : State} {b : BayNo} (h : (s.bay b).step = some .expectIdentity) :
    (∀ key, s.admittingFrame b (.identity key) =
      s.updBay b (fun r => { r with identity := some key, step := some .expectPack })) ∧
    (∀ soc temp capacity, s.admittingFrame b (.pack soc temp capacity) = s) ∧
    ∀ locked, s.admittingFrame b (.lock locked) = s := by
  unfold State.admittingFrame
  rw [h]
  exact ⟨fun _ => rfl, fun _ _ _ => rfl, fun _ => rfl⟩

/-- R34: a Lock frame before its turn loses the identity. -/
theorem State.admittingFrame_of_expectPack {s : State} {b : BayNo} (h : (s.bay b).step = some .expectPack) :
    (∀ key, s.admittingFrame b (.identity key) =
      s.updBay b (fun r => { r.clearSlots with identity := some key, step := some .expectPack })) ∧
    (∀ soc temp capacity, s.admittingFrame b (.pack soc temp capacity) =
      s.updBay b (fun r => { r with packSlot := some ⟨soc, temp, capacity⟩, step := some .expectLock })) ∧
    ∀ locked, s.admittingFrame b (.lock locked) =
      s.updBay b (fun r => { r.clearSlots with step := some .expectIdentity }) := by
  unfold State.admittingFrame
  rw [h]
  exact ⟨fun _ => rfl, fun _ _ _ => rfl, fun _ => rfl⟩

/-- R34, R35: while a Lock frame is awaited a later Pack frame replaces the first, and a locked Lock frame completes. -/
theorem State.admittingFrame_of_expectLock {s : State} {b : BayNo} (h : (s.bay b).step = some .expectLock) :
    (∀ key, s.admittingFrame b (.identity key) =
      s.updBay b (fun r => { r.clearSlots with identity := some key, step := some .expectPack })) ∧
    (∀ soc temp capacity, s.admittingFrame b (.pack soc temp capacity) =
      s.updBay b (fun r => { r with packSlot := some ⟨soc, temp, capacity⟩, step := some .expectLock })) ∧
    s.admittingFrame b (.lock false) = s ∧ s.admittingFrame b (.lock true) = s.completeAdmission b := by
  unfold State.admittingFrame
  rw [h]
  refine ⟨fun _ => rfl, fun soc temp capacity => ?_, rfl, rfl⟩
  exact State.updBay_congr (by rw [← h])

/-- R35: the admission of a bay with an identity ends in the binding check of R38. -/
theorem State.completeAdmission_of_some {s : State} {b : BayNo} {key : Nat} (h : (s.bay b).identity = some key) :
    s.completeAdmission b = (s.updBay b (fun r => { r with
      lockSlot := true, step := none, admTimer := none, pack := r.packSlot,
      lastFrame := some s.elapsed })).bindingCheckAdmission b key := by
  unfold State.completeAdmission
  rw [h]

/-- Settles O31: the start, each step with each frame, and the completion with its binding check. -/
theorem admissionFollowsItsSteps : Obligations.AdmissionFollowsItsSteps := by
  unfold Obligations.AdmissionFollowsItsSteps
  refine ⟨fun b s => ⟨fun key h1 h2 hs => ?_, fun hs => ⟨fun key h1 h2 => ?_, fun soc temp capacity hf => ?_,
    fun locked => ?_, fun hstep => ?_⟩⟩, fun b key s hs hstep hkey => ?_⟩
  · rw [State.takeFrame_identity_of_attached hs ((frameValid_identity_iff key).mpr ⟨h1, h2⟩)]
    rfl
  · rw [State.takeFrame_of_admitting hs ((frameValid_identity_iff key).mpr ⟨h1, h2⟩)]
    refine ⟨fun hstep => (State.admittingFrame_of_expectIdentity hstep).1 key, fun hstep => ?_⟩
    rcases hstep with hstep | hstep
    · exact (State.admittingFrame_of_expectPack hstep).1 key
    · exact (State.admittingFrame_of_expectLock hstep).1 key
  · rw [State.takeFrame_of_admitting hs hf]
    refine ⟨fun hstep => (State.admittingFrame_of_expectIdentity hstep).2.1 soc temp capacity, fun hstep => ?_⟩
    rcases hstep with hstep | hstep
    · exact (State.admittingFrame_of_expectPack hstep).2.1 soc temp capacity
    · exact (State.admittingFrame_of_expectLock hstep).2.1 soc temp capacity
  · rw [State.takeFrame_of_admitting hs rfl]
    exact ⟨fun hstep => (State.admittingFrame_of_expectIdentity hstep).2.2 locked,
      fun hstep => (State.admittingFrame_of_expectPack hstep).2.2 locked⟩
  · rw [State.takeFrame_of_admitting hs rfl]
    exact (State.admittingFrame_of_expectLock hstep).2.2.1
  · rw [State.takeFrame_of_admitting hs rfl, (State.admittingFrame_of_expectLock hstep).2.2.2,
      State.completeAdmission_of_some hkey]
    rfl

/-! ### The frames of a bay that has admitted its van (O32) -/

/-- R121: what clearing WakeFailed makes of the roster. -/
theorem State.clearWakeFailed_eq (s : State) (b : BayNo) : s.clearWakeFailed b = match (s.bay b).boundOrder with
    | none => s
    | some tag =>
      { s with roster := s.roster.map (fun x => if x.tag = tag then { x with wakeFailed := false } else x) } := by
  unfold State.clearWakeFailed
  cases (s.bay b).boundOrder <;> rfl

/-- R121: clearing WakeFailed meets no update of the bay that keeps its binding. -/
theorem State.clearWakeFailed_updBay {s : State} {b : BayNo} {f : BayRec → BayRec}
    (h : (f (s.bay b)).boundOrder = (s.bay b).boundOrder) :
    (s.updBay b f).clearWakeFailed b = (s.clearWakeFailed b).updBay b f := by
  unfold State.clearWakeFailed
  rw [State.bay_updBay, h]
  cases (s.bay b).boundOrder <;> rfl

@[simp] theorem State.clearWakeFailed_bay (s : State) (b c : BayNo) : (s.clearWakeFailed b).bay c = s.bay c := by
  unfold State.clearWakeFailed
  split <;> rfl

@[simp] theorem State.clearWakeFailed_elapsed (s : State) (b : BayNo) : (s.clearWakeFailed b).elapsed = s.elapsed := by
  unfold State.clearWakeFailed
  split <;> rfl

@[simp] theorem State.clearWakeFailed_bays (s : State) (b : BayNo) : (s.clearWakeFailed b).bays = s.bays := by
  unfold State.clearWakeFailed
  split <;> rfl

@[simp] theorem State.clearWakeFailed_line (s : State) (b : BayNo) : (s.clearWakeFailed b).line = s.line := by
  unfold State.clearWakeFailed
  split <;> rfl

/-- R41: what a frame that counts does to a Bound bay. -/
theorem State.countFrame_eq (s : State) (b : BayNo) : s.countFrame b = (s.clearWakeFailed b).updBay b (fun r => { r with
    dormTimer := some (s.elapsed + s.cfg.dormancyTime * 1000), lastFrame := some s.elapsed }) :=
  State.clearWakeFailed_updBay rfl

/-- R41: a Pack frame counts, and its pack data is taken. -/
theorem State.boundFrame_pack (s : State) (b : BayNo) (soc : Nat) (temp : Int) (capacity : Nat) :
    s.boundFrame b (.pack soc temp capacity) = (s.clearWakeFailed b).updBay b (fun r => { r with
      dormTimer := some (s.elapsed + s.cfg.dormancyTime * 1000), lastFrame := some s.elapsed,
      pack := some ⟨soc, temp, capacity⟩ }) := by
  change (s.countFrame b).takePack b ⟨soc, temp, capacity⟩ = _
  unfold State.takePack
  rw [State.countFrame_eq, State.updBay_updBay]
  simp only [State.updBay_elapsed, State.clearWakeFailed_elapsed]

/-- R41: an Identity of the admitted key counts. -/
theorem State.boundFrame_same_key {s : State} {b : BayNo} {key : Nat} (h : (s.bay b).identity = some key) :
    s.boundFrame b (.identity key) = s.countFrame b := by
  unfold State.boundFrame
  rw [h]
  exact if_pos (beq_self_eq_true _)

theorem countsForDormancy_other_key {admitted : Option Nat} {key : Nat} (h : admitted ≠ some key) :
    countsForDormancy admitted (.identity key) = false := beq_eq_false_iff_ne.mpr h

theorem countsForDormancy_same_key {admitted : Option Nat} {key : Nat} (h : admitted = some key) :
    countsForDormancy admitted (.identity key) = true := by
  rw [h]
  exact beq_self_eq_true _

/-- R41: an Identity of another key is a conflict, whether the bay is Bound, Dormant or Waking. -/
theorem State.takeFrame_other_key {s : State} {b : BayNo} {key : Nat}
    (hs : (s.bay b).state = .bound ∨ (s.bay b).state = .dormant ∨ (s.bay b).state = .waking)
    (hf : frameValid (.identity key) = true) (hk : (s.bay b).identity ≠ some key) :
    s.takeFrame b (.identity key) = s.identityConflict b := by
  rcases hs with hs | hs | hs
  · rw [State.takeFrame_of_bound hs hf, State.boundFrame, countsForDormancy_other_key hk]
    rfl
  · rw [State.takeFrame_of_dormant hs hf, State.dormantFrame, countsForDormancy_other_key hk]
    rfl
  · rw [State.takeFrame_of_waking hs hf]
    exact if_neg hk

/-- R110: a Wake not yet started is withdrawn from a bay that has just been updated. -/
theorem State.withdrawWake_updBay (s : State) (b : BayNo) (f : BayRec → BayRec) :
    (s.updBay b f).withdrawWake b = { s with
      bays := s.bays.set b { f (s.bay b) with wakePending := (s.lineBay b).wakeOpen }
      line := { s.line with bays := s.line.bays.set b { s.lineBay b with pWake := none } } } := by
  simp [State.withdrawWake, State.updBay, State.updLineBay, State.bay, State.lineBay]

/-- R113, R119: the return of a bay to Bound, its fields written out. -/
theorem State.returnToBound_eq (s : State) (b : BayNo) : s.returnToBound b = State.append { s.clearWakeFailed b with
    bays := s.bays.set b { s.bay b with
      state := .bound, dormTimer := some (s.elapsed + s.cfg.dormancyTime * 1000), dormantSince := none, retryAt := none,
      barred := false, wakeWindow := none, tryCount := 0, wakePending := (s.lineBay b).wakeOpen }
    line := { s.line with bays := s.line.bays.set b { s.lineBay b with pWake := none } } }
    .bayDormant (some (.bay b)) .cleared := by
  unfold State.returnToBound
  dsimp only
  rw [State.clearWakeFailed_updBay rfl, State.withdrawWake_updBay, State.clearWakeFailed_bays,
    State.clearWakeFailed_bay, State.lineBay, State.clearWakeFailed_line]
  rfl

/-- R113: a bay that has returned is Bound. -/
theorem State.state_returnToBound (s : State) (b : BayNo) : ((s.returnToBound b).bay b).state = .bound := by
  rw [State.returnToBound_eq]
  simp [State.bay]

/-- R113: a frame that counts returns a Dormant bay to Bound, and acts there. -/
theorem State.takeFrame_of_dormant_counts {s : State} {b : BayNo} {f : VanFrame} (hs : (s.bay b).state = .dormant)
    (hf : frameValid f = true) (hc : countsForDormancy (s.bay b).identity f = true) :
    s.takeFrame b f = (s.returnToBound b).takeFrame b f := by
  rw [State.takeFrame_of_dormant hs hf, State.takeFrame_of_bound (s.state_returnToBound b) hf]
  exact if_pos hc

/-- R119: a Waking bay discards an Identity of its own key, whatever the key. -/
theorem State.takeFrame_same_key_of_waking {s : State} {b : BayNo} {key : Nat} (hs : (s.bay b).state = .waking)
    (hk : (s.bay b).identity = some key) : s.takeFrame b (.identity key) = s := by
  by_cases hf : frameValid (.identity key) = true
  · rw [State.takeFrame_of_waking hs hf]
    exact if_pos hk
  · exact s.takeFrame_of_invalid b (by simpa using hf)

/-- Settles O32: the ranges, then the frames by the state of the bay. -/
theorem vanFramesActByBayState : Obligations.VanFramesActByBayState := by
  unfold Obligations.VanFramesActByBayState
  intro cleared returned b s
  have hcleared : cleared b s = s.clearWakeFailed b := (s.clearWakeFailed_eq b).symm
  have hreturned : returned b s = s.returnToBound b := by
    rw [State.returnToBound_eq, ← hcleared]
    rfl
  have hkey (key : Nat) (h1 : 1 ≤ key) (h2 : key ≤ 4294967295) : frameValid (.identity key) = true :=
    (frameValid_identity_iff key).mpr ⟨h1, h2⟩
  rw [hcleared, hreturned]
  refine ⟨⟨frameValid_identity_iff, frameValid_pack_iff, fun _ => rfl⟩, fun f h => ?_, fun hs => ?_, fun hs => ?_,
    fun hs => ?_, fun hs => ?_, fun hs => ?_, (s.state_returnToBound b), fun hs key h1 h2 hk => ?_⟩
  case refine_1 =>
    rcases h with hf | hs
    · exact s.takeFrame_of_invalid b hf
    · exact State.takeFrame_of_no_van hs f
  case refine_2 => exact ⟨State.takeFrame_pack_of_attached hs, State.takeFrame_lock_of_attached hs⟩
  case refine_3 =>
    exact ⟨fun _ _ _ hf => State.takeFrame_pack_of_unmatched hs hf, State.takeFrame_identity_of_unmatched hs,
      State.takeFrame_lock_of_unmatched hs⟩
  case refine_4 =>
    refine ⟨fun soc temp capacity hf => ?_, fun locked => ?_, fun key h1 h2 hk => ?_⟩
    · rw [State.takeFrame_of_bound hs hf]
      exact s.boundFrame_pack b soc temp capacity
    · rw [State.takeFrame_of_bound hs rfl]
      exact s.countFrame_eq b
    · rw [State.takeFrame_of_bound hs (hkey key h1 h2), State.boundFrame_same_key hk]
      exact s.countFrame_eq b
  case refine_5 =>
    exact ⟨fun _ _ _ hf => State.takeFrame_of_dormant_counts hs hf rfl,
      fun _ => State.takeFrame_of_dormant_counts hs rfl rfl,
      fun key h1 h2 hk => State.takeFrame_of_dormant_counts hs (hkey key h1 h2) (countsForDormancy_same_key hk)⟩
  case refine_6 =>
    refine ⟨fun soc temp capacity hf => ?_, fun locked => ?_, fun key hk => State.takeFrame_same_key_of_waking hs hk⟩
    · rw [State.takeFrame_of_waking hs hf, State.takeFrame_of_bound (s.state_returnToBound b) hf]
      rfl
    · rw [State.takeFrame_of_waking hs rfl]
      rfl
  case refine_7 => exact State.takeFrame_other_key hs (hkey key h1 h2) hk

end Sys2Proof.Machine
end

section
/-! PROOFS. The reads of a bay and of the feeder: O17. -/

namespace Sys2Proof.Machine

/-! ### Fields of the bodies (R178) -/

/-- R178: a byte that numbers a bay is that bay's byte. -/
theorem bayByte_of_bay? {n : Byte} {b : BayNo} (h : bay? n = some b) : bayByte b = n := by
  unfold bay? at h
  split at h
  next hn =>
    obtain rfl := Option.some.inj h
    unfold bayByte byte
    rw [Nat.sub_add_cancel hn.1, BitVec.ofNat_toNat, BitVec.setWidth_eq]
  next => cases h

/-- R178: the quantity a time of two bytes spells. -/
def time16Of (t : Option Nat) : Nat :=
  match t with
  | none => 0xFFFF
  | some n => min n 0xFFFE

theorem optTime16_eq (t : Option Nat) : optTime16 t = be16 (time16Of t) := by
  cases t <;> rfl

/-- R178: the quantity a time of one byte spells. -/
def time8Of (t : Option Nat) : Nat :=
  match t with
  | none => 0xFF
  | some n => min n 0xFE

theorem optTime8_eq (t : Option Nat) : optTime8 t = byte (time8Of t) := by
  cases t <;> rfl

theorem optByte_eq (v : Option Nat) : optByte v = byte (v.getD 0xFF) := by
  cases v <;> rfl

/-- R178: the four bytes of the pack data of a bay, 0 while it is absent. -/
def packBytes (p : Option PackData) : List Byte :=
  match p with
  | none => [0, 0, 0, 0]
  | some p => [byte p.soc, BitVec.ofInt 8 p.temp] ++ be16 p.capacity

/-- R178: a byte of eight flags gives them back. -/
theorem flags_of_flagByte {l : List Byte} {c d e f g h i j : Bool} (hl : l = [flagByte [c, d, e, f, g, h, i, j]]) :
    l.flatMap bitsOf = [c, d, e, f, g, h, i, j] := by
  rw [hl, List.flatMap_singleton, bitsOf_flagByte]

/-! ### The bay body -/

/-- R178: the bay body up to its byte 12. -/
def State.bayHead (s : State) (b : BayNo) : List Byte :=
  let r := s.bay b
  [bayByte b, byte r.state.code,
    flagByte [r.plugIn, s.enabled b, r.pack.isSome, r.boundOrder.isSome, r.identity.isSome, r.packSlot.isSome,
      r.lockSlot, r.conflict],
    flagByte [r.ovr.mode == .manual, r.ovr.releaseAnytime, r.wakePending, (s.lineBay b).wakeOnLine, r.barred],
    byte (s.rating b), byte (stepCode r.step)] ++
    be32 (r.identity.getD 0) ++ be16 (time16Of (r.admTimer.map s.secondsTo))

/-- R178: the bay body from its byte 16 on. -/
def State.bayTail (s : State) (b : BayNo) : List Byte :=
  let r := s.bay b
  let l := s.lineBay b
  be16 (time16Of (if r.pack.isSome then r.lastFrame.map s.secondsSince else none)) ++
    [byte r.output, byte r.limit] ++ be16 r.counter ++ be16 (r.boundOrder.getD 0) ++ be16 r.baseline ++
    [byte (s.target b), byte (s.cap b), byte l.held, byte l.exposure, byte l.silent, byte l.refuse] ++
    be16 (time16Of (r.dormTimer.map s.secondsTo)) ++ be16 (time16Of (r.dormantSince.map s.secondsSince)) ++
    [byte r.tryCount, byte (time8Of (r.retryAt.bind s.secondsAhead)), byte (time8Of (r.wakeWindow.map s.secondsTo)),
      byte (r.ovr.manualCap.getD 0xFF), byte (r.ovr.fixedIndex.getD 0xFF)]

theorem State.bayBody_eq (s : State) (b : BayNo) :
    s.bayBody b = s.bayHead b ++ (packBytes (s.bay b).pack ++ s.bayTail b) := by
  unfold State.bayBody State.bayHead State.bayTail packBytes
  simp only [optTime16_eq, optTime8_eq, optByte_eq, List.append_assoc]
  cases (s.bay b).pack <;> rfl

theorem length_packBytes (p : Option PackData) : (packBytes p).length = 4 := by
  cases p <;> rfl

/-- From its byte 16 on the bay body is its tail. -/
theorem State.drop_bayBody (s : State) (b : BayNo) (n : Nat) :
    (s.bayBody b).drop (16 + n) = (s.bayTail b).drop n := by
  have hlength : (s.bayHead b ++ packBytes (s.bay b).pack).length = 16 := by
    rw [List.length_append, length_packBytes]
    rfl
  rw [State.bayBody_eq, ← List.append_assoc, ← hlength, List.drop_length_add_append]

theorem State.length_bayBody (s : State) (b : BayNo) : (s.bayBody b).length = 41 := by
  rw [State.bayBody_eq, List.length_append, List.length_append, length_packBytes]
  rfl

theorem readBay_of_none {r : Req} {n : Byte} {s : State} (ht : s.takes r.port = true) (hb : r.body = [n])
    (hn : bay? n = none) : exec (.readBay r) s = .next (s.answered r 0x04 .badValue []) := by
  change Host.Outcome.next (s.serve r 0x04 anyRole readBayOwner) = _
  rw [State.serve_permitted ht rfl, hb]
  simp only [readBayOwner, hn]
  rfl

theorem readBay_of_some {r : Req} {n : Byte} {s : State} {b : BayNo} (ht : s.takes r.port = true) (hb : r.body = [n])
    (hn : bay? n = some b) : exec (.readBay r) s = .next (s.answered r 0x04 .done (s.bayBody b)) := by
  change Host.Outcome.next (s.serve r 0x04 anyRole readBayOwner) = _
  rw [State.serve_permitted ht rfl, hb]
  simp only [readBayOwner, hn]
  rfl

/-! ### The feeder body -/

theorem readFeeder_eq {r : Req} {s : State} (ht : s.takes r.port = true) (hb : r.body = []) :
    exec (.readFeeder r) s = .next (s.answered r 0x05 .done s.feederBody) := by
  change Host.Outcome.next (s.serve r 0x05 anyRole readFeederOwner) = _
  rw [State.serve_permitted ht rfl, hb]
  rfl

/-- R178: the feeder body up to its windows. -/
def State.feederHead (s : State) : List Byte :=
  let f := s.feeder
  be16 f.effective ++ be16 (f.site.getD 0) ++ be16 s.cfg.safeCeiling ++ be16 s.cfg.derateCeiling ++ be16 f.load ++
    be16 f.cut ++ be16 s.exposureSum ++
    [byte (time8Of (f.staleTimer.map s.secondsTo)), byte f.hold.code, byte s.holdCount, byte s.band.code,
      s.feederFlagsA, flagByte [f.stop, f.derate], byte f.tariff.length]

theorem State.feederBody_eq (s : State) : s.feederBody = s.feederHead ++ s.feeder.tariff.flatMap Window.bytes := by
  unfold State.feederBody State.feederHead
  dsimp only
  rw [optTime8_eq]

/-- R178: each window takes nine bytes. -/
theorem length_windows (ws : List Window) : (ws.flatMap Window.bytes).length = 9 * ws.length := by
  induction ws with
  | nil => rfl
  | cons w ws ih =>
    have hw : w.bytes.length = 9 := rfl
    rw [List.flatMap_cons, List.length_append, ih, hw, List.length_cons, Nat.mul_succ, Nat.add_comm]

/-- R83: the count that goes with the hold state, as the statements write it. -/
theorem State.holdCount_eq (s : State) : s.holdCount = match s.feeder.hold with
    | .running => 0
    | .draining => ((List.finRange 24).filter (fun b => (s.bay b).state ≠ .faulted ∧ 0 < s.exposure b)).length
    | .held => ((List.finRange 24).filter (fun b => (s.bay b).state = .faulted ∧ 0 < (s.lineBay b).held)).length := by
  unfold State.holdCount allBays
  cases s.feeder.hold with
  | running => rfl
  | draining =>
    exact congrArg List.length (List.filter_congr fun b _ => by rw [Bool.eq_iff_iff]; simp [Nat.pos_iff_ne_zero])
  | held =>
    exact congrArg List.length (List.filter_congr fun b _ => by rw [Bool.eq_iff_iff]; simp [Nat.pos_iff_ne_zero])

/-- Settles O17: each body by its parts, the flags by what a flag byte gives back. -/
theorem bayAndFeederReadsAnswer : Obligations.BayAndFeederReadsAnswer := by
  unfold Obligations.BayAndFeederReadsAnswer
  intro time16 time8
  refine ⟨fun r n s ht hb => ⟨readBay_of_none ht hb, fun b hn =>
      ⟨s.bayBody b, s.length_bayBody b, readBay_of_some ht hb hn, ?_⟩⟩,
    fun r s ht hb => ⟨s.feederBody, readFeeder_eq ht hb, ?_, ?_⟩, rfl, State.holdCount_eq⟩
  case refine_1 =>
    have hbody := s.bayBody_eq b
    exact ⟨(congrArg (List.take 2) hbody).trans (congrArg (fun x => [x, byte (s.bay b).state.code]) (bayByte_of_bay? hn)),
      flags_of_flagByte (congrArg (fun l => (l.drop 2).take 1) hbody),
      flags_of_flagByte (congrArg (fun l => (l.drop 3).take 1) hbody),
      congrArg (fun l => (l.drop 4).take 2) hbody,
      congrArg (fun l => (l.drop 6).take 4) hbody,
      congrArg (fun l => (l.drop 10).take 2) hbody,
      take_drop_of_append hbody rfl (length_packBytes _),
      congrArg (List.take 2) (s.drop_bayBody b 0),
      congrArg (List.take 8) (s.drop_bayBody b 2),
      congrArg (List.take 6) (s.drop_bayBody b 10),
      congrArg (List.take 4) (s.drop_bayBody b 16),
      s.drop_bayBody b 20⟩
  case refine_2 =>
    rw [State.feederBody_eq, List.length_append, length_windows]
    rfl
  case refine_3 =>
    rw [State.feederBody_eq]
    refine ⟨rfl, rfl, ?_, rfl⟩
    have hflags : ((s.feederHead ++ s.feeder.tariff.flatMap Window.bytes).drop 18).take 2 =
        [s.feederFlagsA, flagByte [s.feeder.stop, s.feeder.derate]] := rfl
    rw [hflags, List.flatMap_cons, List.flatMap_singleton]
    exact congrArg₂ (· ++ ·) (bitsOf_flagByte ..)
      (bitsOf_flagByte s.feeder.stop s.feeder.derate false false false false false false)

end Sys2Proof.Machine
end

section
/-! PROOFS. The technician's bay requests: O49. -/

namespace Sys2Proof.Machine

/-! ### What the steps of a ClearBay leave of an Off bay -/

/-- The record and the line record of a bay are the same, and so are the stored ranking, the inputs and the settings. -/
structure LeavesBay (b : BayNo) (s t : State) : Prop where
  bay : t.bay b = s.bay b
  lineBay : t.lineBay b = s.lineBay b
  ranking : t.alloc.ranking = s.alloc.ranking
  inputs : t.inputs = s.inputs
  store : t.store = s.store

theorem LeavesBay.refl (b : BayNo) (s : State) : LeavesBay b s s := ⟨rfl, rfl, rfl, rfl, rfl⟩

theorem LeavesBay.trans {b : BayNo} {s t u : State} (h : LeavesBay b s t) (k : LeavesBay b t u) : LeavesBay b s u :=
  ⟨k.bay.trans h.bay, k.lineBay.trans h.lineBay, k.ranking.trans h.ranking, k.inputs.trans h.inputs,
    k.store.trans h.store⟩

/-- An Off bay is Off after what leaves it. -/
theorem LeavesBay.off {b : BayNo} {s t : State} (h : LeavesBay b s t) (hs : (s.bay b).state = .off) :
    (t.bay b).state = .off := by rw [h.bay, hs]

/-- An update of neither bays, line, Allocator, inputs nor settings. -/
theorem LeavesBay.of_same {b : BayNo} {s t : State} (h1 : t.bays = s.bays) (h2 : t.line = s.line)
    (h3 : t.alloc = s.alloc) (h4 : t.inputs = s.inputs) (h5 : t.store = s.store) : LeavesBay b s t :=
  ⟨by unfold State.bay; rw [h1], by unfold State.lineBay; rw [h2], by rw [h3], h4, h5⟩

theorem LeavesBay.foldl {α : Type} {b : BayNo} {f : State → α → State}
    (h : ∀ s x, (s.bay b).state = .off → LeavesBay b s (f s x)) (l : List α) {s : State}
    (hs : (s.bay b).state = .off) : LeavesBay b s (l.foldl f s) := by
  induction l generalizing s with
  | nil => exact .refl b s
  | cons x xs ih => exact (h s x hs).trans (ih ((h s x hs).off hs))

theorem State.append_leaves (s : State) (b : BayNo) (k : EventKind) (x : Option Subject) (e : Edge) :
    LeavesBay b s (s.append k x e) := by
  unfold State.append
  split <;> exact .of_same rfl rfl rfl rfl rfl

theorem State.feeder_leaves (s : State) (b : BayNo) (f : Feeder) : LeavesBay b s { s with feeder := f } :=
  ⟨rfl, rfl, rfl, rfl, rfl⟩

theorem State.updOrder_leaves (s : State) (b : BayNo) (tag : Nat) (f : Order → Order) :
    LeavesBay b s (s.updOrder tag f) := ⟨rfl, rfl, rfl, rfl, rfl⟩

theorem State.updBay_leaves (s : State) {b c : BayNo} (f : BayRec → BayRec) (h : b ≠ c) :
    LeavesBay b s (s.updBay c f) :=
  ⟨State.bay_updBay_ne s f h, rfl, rfl, rfl, rfl⟩

theorem State.updLineBay_leaves (s : State) {b c : BayNo} (f : LineBay → LineBay) (h : b ≠ c) :
    LeavesBay b s (s.updLineBay c f) :=
  ⟨rfl, State.lineBay_updLineBay_ne s f h, rfl, rfl, rfl⟩

/-- R133: a bay that is Off is not reconciled, and another bay's record is no matter of its own. -/
theorem State.reconcile_leaves {s : State} {b : BayNo} (hs : (s.bay b).state = .off) (c : BayNo) :
    LeavesBay b s (s.reconcile c) := by
  by_cases hc : b = c
  · have hoff : s.onLineService c = false := by simp [State.onLineService, ← hc, hs]
    unfold State.reconcile
    rw [hoff]
    exact .refl b s
  · unfold State.reconcile
    dsimp only
    split
    · split
      · exact s.updLineBay_leaves _ hc
      · split
        · exact s.updLineBay_leaves _ hc
        · have h := s.updLineBay_leaves (fun l => { l with pGrant := some ⟨s.target c, s.line.nextAge⟩ }) hc
          exact ⟨h.bay, h.lineBay, h.ranking, h.inputs, h.store⟩
    · exact .refl b s

theorem State.setTarget_leaves {s : State} {b : BayNo} (hs : (s.bay b).state = .off) (c : BayNo) (v : Nat) :
    LeavesBay b s (s.setTarget c v) := by
  unfold State.setTarget
  split
  · exact .refl b s
  · have htarget : LeavesBay b s (s.withTarget c v) := ⟨rfl, rfl, rfl, rfl, rfl⟩
    exact htarget.trans (State.reconcile_leaves (htarget.off hs) c)

theorem State.trimBay_leaves {s : State} {b : BayNo} (hs : (s.bay b).state = .off) (c : BayNo) :
    LeavesBay b s (s.trimBay c) := by
  unfold State.trimBay
  split
  · exact .refl b s
  · exact State.setTarget_leaves hs c _

theorem State.trimCheck_leaves {s : State} {b : BayNo} (hs : (s.bay b).state = .off) : LeavesBay b s s.trimCheck :=
  LeavesBay.foldl (fun _ c hs => State.trimBay_leaves hs c) _ hs

theorem State.leaveEligibility_leaves {s : State} {b : BayNo} (hs : (s.bay b).state = .off) (was : Bool) (c : BayNo) :
    LeavesBay b s (s.leaveEligibility was c) := by
  unfold State.leaveEligibility
  split
  · have htarget := State.setTarget_leaves hs c 0
    exact htarget.trans (State.trimCheck_leaves (htarget.off hs))
  · exact .refl b s

theorem State.heldCheck_leaves (s : State) (b : BayNo) : LeavesBay b s s.heldCheck := by
  unfold State.heldCheck
  split
  · exact (s.feeder_leaves b _).trans (State.append_leaves _ b _ _ _)
  · exact s.feeder_leaves b _
  · exact .refl b s

theorem State.enterLog_leaves (s : State) (b : BayNo) (o : Order) : LeavesBay b s (s.enterLog o) := by
  unfold State.enterLog
  split <;> exact .of_same rfl rfl rfl rfl rfl

theorem State.closeOrder_leaves (s : State) (b : BayNo) (tag : Nat) (out : CloseOutcome) :
    LeavesBay b s (s.closeOrder tag out) := by
  unfold State.closeOrder
  split
  · exact .refl b s
  · dsimp only
    exact ((s.updOrder_leaves b tag _).trans (State.append_leaves _ b _ _ _)).trans (State.enterLog_leaves _ b _)

theorem State.unbindOrder_leaves (s : State) (b : BayNo) (tag : Nat) : LeavesBay b s (s.unbindOrder tag) := by
  unfold State.unbindOrder
  split
  · exact .refl b s
  · dsimp only
    split
    · exact (s.updOrder_leaves b tag _).trans (State.append_leaves _ b _ _ _)
    · exact s.updOrder_leaves b tag _

theorem State.bind_leaves (s : State) {b c : BayNo} (tag : Nat) (h : b ≠ c) : LeavesBay b s (s.bind c tag) :=
  (s.updBay_leaves _ h).trans (State.updOrder_leaves _ b tag _)

/-- R39: the binding check binds to an Unmatched bay, not to one that is Off. -/
theorem State.bindingCheckOrder_leaves {s : State} {b : BayNo} (hs : (s.bay b).state = .off) (tag : Nat) :
    LeavesBay b s (s.bindingCheckOrder tag) := by
  have hne : ∀ {key : Nat} {c : BayNo}, c ∈ s.unmatchedWith key → b ≠ c := by
    rintro key c hc rfl
    simp [State.unmatchedWith, hs] at hc
  unfold State.bindingCheckOrder
  split
  · exact .refl b s
  · split
    · split
      next hc => exact s.bind_leaves tag (hne hc)
      next => exact LeavesBay.foldl (fun t x _ => t.append_leaves b _ _ _) _ hs
    · split
      next => exact .refl b s
      next c l hl => exact s.bind_leaves tag (hne (hl ▸ List.mem_cons_self))

/-! ### The target of a bay that leaves eligibility -/

/-- R133: reconciling changes no target. -/
theorem State.target_reconcile (s : State) (b c : BayNo) : (s.reconcile c).target b = s.target b := by
  unfold State.reconcile
  dsimp only
  split
  · split
    · rfl
    · split <;> rfl
  · rfl

theorem State.target_setTarget (s : State) (b : BayNo) (v : Nat) : (s.setTarget b v).target b = v := by
  unfold State.setTarget
  split
  next h => exact h
  next => rw [State.target_reconcile, State.target_withTarget]

theorem State.target_setTarget_ne (s : State) {b c : BayNo} (v : Nat) (h : b ≠ c) :
    (s.setTarget c v).target b = s.target b := by
  unfold State.setTarget
  split
  · rfl
  · rw [State.target_reconcile, State.target_withTarget_ne s v h]

/-- R106: the trim takes from targets, and there is nothing to take from a target of 0. -/
theorem State.target_trimBay {s : State} {b : BayNo} (h : s.target b = 0) (c : BayNo) : (s.trimBay c).target b = 0 := by
  unfold State.trimBay
  split
  · exact h
  next hc =>
    have hne : b ≠ c := by
      rintro rfl
      exact hc (.inr h)
    rw [State.target_setTarget_ne s _ hne, h]

theorem State.target_trimCheck {s : State} {b : BayNo} (h : s.target b = 0) : s.trimCheck.target b = 0 := by
  unfold State.trimCheck
  generalize s.alloc.ranking.reverse = l
  induction l generalizing s with
  | nil => exact h
  | cons c cs ih =>
    rw [List.foldl_cons]
    exact ih (State.target_trimBay h c)

/-- R104: a bay that leaves eligibility has target 0. -/
theorem State.target_leaveEligibility (s : State) (b : BayNo) : (s.leaveEligibility true b).target b = 0 :=
  State.target_trimCheck (s.target_setTarget b 0)

/-! ### ClearBay -/

/-- R76: the Held condition's check changes no exposure. -/
theorem State.exposure_heldCheck (s : State) (b : BayNo) : s.heldCheck.exposure b = s.exposure b := by
  unfold State.exposure
  rw [(s.heldCheck_leaves b).lineBay]

/-- R132: an exposure that has gone to 0 is told to the Feeder unit alone. -/
theorem State.noteExposure_of_zero {s : State} {b : BayNo} (h : s.exposure b = 0) (before : Nat) :
    s.noteExposure b before = if before = 0 then s else s.heldCheck := by
  unfold State.noteExposure
  dsimp only
  rw [State.exposure_heldCheck, h, if_neg (c := before < 0 ∧ _) (fun e => absurd e.1 (Nat.not_lt_zero _))]
  exact if_congr eq_comm rfl rfl

/-- R144: an exchange of a bay on the line is abandoned, one of another bay is not. -/
def OnLine.abandonedAt (b : BayNo) (c : OnLine) : OnLine := if c.bay = b then { c with abandoned := true } else c

/-- R45 steps 1 and 2: the bay is Off, its line record is cleared and an exchange of it on the line abandoned. -/
def State.turnedOff (s : State) (b : BayNo) : State :=
  { s with
    bays := s.bays.set b { s.bay b with
      state := .off, step := none, admTimer := none, dormTimer := none, dormantSince := none, retryAt := none,
      barred := false, wakeWindow := none }
    line := { s.line with
      bays := s.line.bays.set b LineBay.reset
      carrying := s.line.carrying.map (OnLine.abandonedAt b) } }

@[simp] theorem State.bay_turnedOff (s : State) (b : BayNo) : (s.turnedOff b).bay b = { s.bay b with
    state := .off, step := none, admTimer := none, dormTimer := none, dormantSince := none, retryAt := none,
    barred := false, wakeWindow := none } := by
  simp [State.turnedOff, State.bay]

@[simp] theorem State.lineBay_turnedOff (s : State) (b : BayNo) : (s.turnedOff b).lineBay b = LineBay.reset := by
  simp [State.turnedOff, State.lineBay]

/-- The order of the bay is found as before. -/
theorem State.orderOf?_turnedOff (s : State) (b : BayNo) : (s.turnedOff b).orderOf? b = s.orderOf? b := by
  unfold State.orderOf?
  rw [State.bay_turnedOff]
  rfl

/-- R144: what the line carries when the bay is Off, written out. -/
theorem State.turnedOff_of_carrying {s : State} {b : BayNo} {x : Option OnLine}
    (h : s.line.carrying.map (OnLine.abandonedAt b) = x) : s.turnedOff b =
      { (s.updBay b (fun r => { r.stopWake with state := .off, step := none, admTimer := none })) with
        line := { s.line with bays := s.line.bays.set b LineBay.reset, carrying := x } } := by
  rw [← h]
  rfl

/-- R144, R76: what the first two steps come to, the check of the Held condition with them. -/
theorem State.clearLine_turnsOff (s : State) (b : BayNo) :
    (s.updBay b (fun r => { r.stopWake with state := .off, step := none, admTimer := none })).clearLine b =
      if s.exposure b = 0 then s.turnedOff b else (s.turnedOff b).heldCheck := by
  have hzero : (s.turnedOff b).exposure b = 0 := by
    unfold State.exposure
    rw [State.lineBay_turnedOff]
    rfl
  rw [← State.noteExposure_of_zero hzero]
  refine congrArg (fun t : State => t.noteExposure b (s.exposure b)) ?_
  split
  next c hc =>
    have hc : s.line.carrying = some c := hc
    split
    next hb => exact (State.turnedOff_of_carrying (by rw [hc, Option.map_some, OnLine.abandonedAt, if_pos hb])).symm
    next hb =>
      have hkept : s.line.carrying.map (OnLine.abandonedAt b) = s.line.carrying := by
        rw [hc, Option.map_some, OnLine.abandonedAt, if_neg hb]
      exact (State.turnedOff_of_carrying hkept).symm
  next hc =>
    have hc : s.line.carrying = none := hc
    have hkept : s.line.carrying.map (OnLine.abandonedAt b) = s.line.carrying := by rw [hc]; rfl
    exact (State.turnedOff_of_carrying hkept).symm

/-- R45: the bay Off, and the Feeder unit told when an exposure has gone. -/
def State.turnedOffNoted (s : State) (b : BayNo) : State :=
  if s.exposure b = 0 then s.turnedOff b else (s.turnedOff b).heldCheck

theorem State.turnedOffNoted_leaves (s : State) (b : BayNo) : LeavesBay b (s.turnedOff b) (s.turnedOffNoted b) := by
  unfold State.turnedOffNoted
  split
  · exact .refl b _
  · exact State.heldCheck_leaves _ b

theorem State.orderOf?_turnedOffNoted (s : State) (b : BayNo) : (s.turnedOffNoted b).orderOf? b = s.orderOf? b := by
  unfold State.turnedOffNoted
  split
  · exact s.orderOf?_turnedOff b
  · exact ((s.turnedOff b).heldCheck_records.orderOf? b).trans (s.orderOf?_turnedOff b)

/-- R45 step 3: a Closing order is closed, any other is unbound and its binding checked. -/
theorem State.clearBayOrder_leaves {s : State} {b : BayNo} (hs : (s.bay b).state = .off) :
    LeavesBay b s (s.clearBayOrder b) := by
  unfold State.clearBayOrder
  split
  · exact .refl b s
  · split
    · exact s.closeOrder_leaves b _ _
    · have hunbound := s.unbindOrder_leaves b
      exact (hunbound _).trans (State.bindingCheckOrder_leaves ((hunbound _).off hs) _)

/-- R45: the steps of a ClearBay, the first two written out. -/
theorem State.clearBay_eq (s : State) (b : BayNo) : s.clearBay b =
    (((s.turnedOffNoted b).clearBayOrder b).leaveEligibility (s.eligible b) b).updBay b BayRec.cleared := by
  unfold State.clearBay State.turnedOffNoted
  dsimp only
  rw [State.clearLine_turnsOff]

/-- R45: what a ClearBay leaves of a bay until its record takes the reset values. -/
theorem State.clearBay_leaves (s : State) (b : BayNo) : LeavesBay b (s.turnedOff b)
    (((s.turnedOffNoted b).clearBayOrder b).leaveEligibility (s.eligible b) b) := by
  have hnoted := s.turnedOffNoted_leaves b
  have hoff : ((s.turnedOffNoted b).bay b).state = .off := hnoted.off (by rw [State.bay_turnedOff])
  have horder := State.clearBayOrder_leaves hoff
  exact (hnoted.trans horder).trans (State.leaveEligibility_leaves (horder.off hoff) _ b)

theorem State.bay_clearBay (s : State) (b : BayNo) :
    (s.clearBay b).bay b = { BayRec.reset with ovr := (s.bay b).ovr } := by
  rw [State.clearBay_eq, State.bay_updBay, (s.clearBay_leaves b).bay, State.bay_turnedOff]
  rfl

theorem State.lineBay_clearBay (s : State) (b : BayNo) : (s.clearBay b).lineBay b = LineBay.reset := by
  rw [State.clearBay_eq, State.updBay_lineBay, (s.clearBay_leaves b).lineBay, State.lineBay_turnedOff]

theorem State.target_clearBay {s : State} {b : BayNo} (h : s.eligible b = true) : (s.clearBay b).target b = 0 := by
  rw [State.clearBay_eq, State.updBay_target, h, State.target_leaveEligibility]

/-! ### The requests (O49) -/

theorem clearBay_served {r : Req} {n : Byte} {s : State} (ht : s.takes r.port = true) (hp : r.port = .service)
    (hb : r.body = [n]) : exec (.clearBay r) s = .next ((clearBayOwner [n] s).1.answered r 0x18
      (clearBayOwner [n] s).2.status (clearBayOwner [n] s).2.body) := by
  change Host.Outcome.next (s.serve r 0x18 serviceOnly clearBayOwner) = _
  rw [State.serve_permitted ht (by rw [hp]; rfl), hb]

theorem retryAdmission_served {r : Req} {n : Byte} {s : State} (ht : s.takes r.port = true) (hp : r.port = .service)
    (hb : r.body = [n]) : exec (.retryAdmission r) s = .next ((retryAdmissionOwner [n] s).1.answered r 0x19
      (retryAdmissionOwner [n] s).2.status (retryAdmissionOwner [n] s).2.body) := by
  change Host.Outcome.next (s.serve r 0x19 serviceOnly retryAdmissionOwner) = _
  rw [State.serve_permitted ht (by rw [hp]; rfl), hb]

theorem setOverride_served {r : Req} {s : State} (ht : s.takes r.port = true) (hp : r.port = .service) :
    exec (.setOverride r) s = .next ((setOverrideOwner r.body s).1.answered r 0x1A
      (setOverrideOwner r.body s).2.status (setOverrideOwner r.body s).2.body) := by
  change Host.Outcome.next (s.serve r 0x1A serviceOnly setOverrideOwner) = _
  rw [State.serve_permitted ht (by rw [hp]; rfl)]

/-- R178: the bays are numbered from 1 to 24. -/
theorem bay?_isSome_iff {n : Byte} : (bay? n).isSome = true ↔ 1 ≤ n.toNat ∧ n.toNat ≤ 24 := by
  unfold bay?
  split
  next h => simp [h]
  next h => simp [h]

theorem byte_le_one_iff {b : Byte} : b.toNat ≤ 1 ↔ b = 0 ∨ b = 1 := by
  constructor
  · intro h
    bv_omega
  · rintro (rfl | rfl) <;> decide

theorem yesNo?_eq (b : Byte) : yesNo? b = if b.toNat ≤ 1 then some (b == 1) else none := by
  unfold yesNo?
  by_cases h : b.toNat ≤ 1
  · rw [if_pos h]
    rcases byte_le_one_iff.mp h with rfl | rfl <;> rfl
  · obtain ⟨h0, h1⟩ := not_or.mp (mt byte_le_one_iff.mpr h)
    rw [if_neg h, if_neg h0, if_neg h1]

theorem overrideMode?_eq (b : Byte) :
    overrideMode? b = if b.toNat ≤ 1 then some (if b = 1 then .manual else .table) else none := by
  by_cases h : b.toNat ≤ 1
  · rw [if_pos h]
    rcases byte_le_one_iff.mp h with rfl | rfl <;> rfl
  · rw [if_neg h]
    unfold overrideMode?
    split
    next h0 => omega
    next h1 => omega
    next => rfl

theorem optByte?_eq (max : Nat) (b : Byte) : optByte? max b =
    if b = 0xFF ∨ b.toNat ≤ max then some (if b = 0xFF then none else some b.toNat) else none := by
  unfold optByte?
  by_cases hb : b = 0xFF
  · rw [if_pos hb, if_pos (.inl hb), if_pos hb]
  · rw [if_neg hb, if_neg hb]
    exact if_congr (or_iff_right hb).symm rfl rfl

/-- R58: the fields of an override record in range, and a manual cap in Manual mode. -/
def overrideOk (mode cap index release : Byte) : Prop :=
  mode.toNat ≤ 1 ∧ (cap = 0xFF ∨ cap.toNat ≤ 60) ∧ (index = 0xFF ∨ index.toNat ≤ 40) ∧ release.toNat ≤ 1 ∧
    ¬ (mode = 1 ∧ cap = 0xFF)

theorem override?_of_ok {mode cap index release : Byte} (h : overrideOk mode cap index release) :
    override? mode cap index release = some ⟨if mode = 1 then .manual else .table,
      if cap = 0xFF then none else some cap.toNat, if index = 0xFF then none else some index.toNat, release == 1⟩ := by
  obtain ⟨hmode, hcap, hindex, hrelease, hmanual⟩ := h
  unfold override?
  rw [overrideMode?_eq, optByte?_eq, optByte?_eq, yesNo?_eq, if_pos hmode, if_pos hcap, if_pos hindex,
    if_pos hrelease]
  refine if_neg fun hm => hmanual ?_
  simpa using hm

theorem override?_of_not_ok {mode cap index release : Byte} (h : ¬ overrideOk mode cap index release) :
    override? mode cap index release = none := by
  unfold override?
  split
  next m c x a hm hc hx ha =>
    rw [overrideMode?_eq, Option.ite_none_right_eq_some] at hm
    rw [optByte?_eq, Option.ite_none_right_eq_some] at hc hx
    rw [yesNo?_eq, Option.ite_none_right_eq_some] at ha
    obtain ⟨hmode, rfl⟩ := hm.imp_right Option.some.inj
    obtain ⟨hcap, rfl⟩ := hc.imp_right Option.some.inj
    refine if_pos ?_
    by_contra hmanual
    exact h ⟨hmode, hcap, hx.1, ha.1, fun hboth => hmanual (by simp [hboth])⟩
  next => rfl

/-- Settles O49: ClearBay by its steps, RetryAdmission by the state of the bay, SetOverride by the ranges. -/
theorem technicianBayRequestsAct : Obligations.TechnicianBayRequestsAct := by
  unfold Obligations.TechnicianBayRequestsAct
  refine ⟨fun r n s ht hp hb => ⟨fun hn => ?_, fun b hn => ⟨⟨s.clearBay b, ?_, s.bay_clearBay b, s.lineBay_clearBay b,
    State.target_clearBay, ?_, ?_, ?_, ?_⟩, fun hs => ?_, fun hs => ?_⟩⟩, ?_⟩
  · rw [clearBay_served ht hp hb, retryAdmission_served ht hp hb]
    simp only [clearBayOwner, retryAdmissionOwner, hn]
    exact ⟨rfl, rfl⟩
  · rw [clearBay_served ht hp hb]
    simp only [clearBayOwner, hn]
    rfl
  · rw [State.clearBay_eq]
    exact (s.clearBay_leaves b).ranking
  · rw [State.clearBay_eq]
    exact (s.clearBay_leaves b).inputs
  · rw [State.clearBay_eq]
    exact (s.clearBay_leaves b).store
  · rw [State.clearBay_eq, State.clearBayOrder, s.orderOf?_turnedOffNoted b]
    cases s.orderOf? b <;> rfl
  · rw [retryAdmission_served ht hp hb]
    simp only [retryAdmissionOwner, hn, if_neg hs]
    rfl
  · rw [retryAdmission_served ht hp hb]
    simp only [retryAdmissionOwner, hn, if_pos hs]
    rfl
  · intro r n mode cap index release s ht hp hb valid
    rw [setOverride_served ht hp, hb]
    refine ⟨fun hv => ?_, fun hv b hn => ?_⟩
    · cases hn : bay? n with
      | none =>
        simp only [setOverrideOwner, hn]
        rfl
      | some b =>
        obtain ⟨h1, h2⟩ := bay?_isSome_iff.mp (Option.isSome_of_eq_some hn)
        simp only [setOverrideOwner, hn, override?_of_not_ok (fun hok => hv ⟨h1, h2, hok⟩)]
        rfl
    · obtain ⟨-, -, hok⟩ := hv
      simp only [setOverrideOwner, hn, override?_of_ok hok]
      rfl

end Sys2Proof.Machine
end

section
/-! PROOFS. The temperature index, the factory tables, the cap of a bay, and the reads of tables and settings: O18, O40,
O41. -/

namespace Sys2Proof.Machine

/-! ### The temperature index (O40) -/

/-- R50: between its clamps the index is the half of T + 30, rounded down. -/
theorem tempIndex_eq {t : Int} (h0 : 0 ≤ (t + 30) / 2) (h1 : (t + 30) / 2 ≤ 40) :
    (tempIndex t : Int) = (t + 30) / 2 := by
  unfold tempIndex
  omega

theorem tempIndex_of_cold {t : Int} (h : (t + 30) / 2 ≤ 0) : tempIndex t = 0 := by
  unfold tempIndex
  omega

theorem tempIndex_of_hot {t : Int} (h : 40 ≤ (t + 30) / 2) : tempIndex t = 40 := by
  unfold tempIndex
  omega

/-- Settles O40: each temperature meets a clamp or lies between them. -/
theorem temperatureIndexIsClamped : Obligations.TemperatureIndexIsClamped := by
  unfold Obligations.TemperatureIndexIsClamped
  refine ⟨fun t => ⟨fun h => tempIndex_of_cold (by omega), fun h => tempIndex_of_hot (by omega), tempIndex_eq⟩,
    fun t h => tempIndex_of_cold (by omega), fun t h => tempIndex_of_hot (by omega), fun i h0 h1 => ⟨?_, ?_⟩,
    fun soc t capacity h => ?_⟩
  · have := tempIndex_eq (t := -30 + 2 * i) (by omega) (by omega)
    omega
  · have := tempIndex_eq (t := -29 + 2 * i) (by omega) (by omega)
    omega
  · rw [← Bool.not_eq_true, frameValid_pack_iff]
    omega

/-! ### Index, charge cap, heater power and cap (O41) -/

theorem BayRec.index_of_fixed {r : BayRec} {i : Nat} (h : r.ovr.fixedIndex = some i) : r.index = i := by
  unfold BayRec.index
  rw [h]

theorem BayRec.index_of_pack {r : BayRec} {p : PackData} (h : r.ovr.fixedIndex = none) (hp : r.pack = some p) :
    r.index = tempIndex p.temp := by
  unfold BayRec.index
  rw [h, hp]

theorem BayRec.index_of_none {r : BayRec} (h : r.ovr.fixedIndex = none) (hp : r.pack = none) : r.index = 0 := by
  unfold BayRec.index
  rw [h, hp]

theorem tableAt_of_lt (t : Vector Nat 41) {i : Nat} (h : i < 41) : tableAt t i = t[i] := by
  unfold tableAt
  rw [List.getD_eq_getElem _ _ (by simpa using h), Vector.getElem_toList]

theorem State.chargeCap_of_table {s : State} {b : BayNo} (h : (s.bay b).ovr.mode = .table) :
    s.chargeCap b = s.rating b * tableAt s.cfg.rateTable (s.bay b).index / 100 := by
  unfold State.chargeCap
  rw [h]

theorem State.chargeCap_of_manual {s : State} {b : BayNo} (h : (s.bay b).ovr.mode = .manual) :
    s.chargeCap b = (s.bay b).ovr.manualCap.getD 0 := by
  unfold State.chargeCap
  rw [h]

/-- R54: which conditionings heat the pack. -/
theorem State.packHeater_eq (s : State) (b : BayNo) (c : Conditioning) :
    s.packHeater b c = if c = .pack ∨ c = .both then tableAt s.cfg.condTable (s.bay b).index else 0 := by
  cases c <;> rfl

/-- R54: which conditionings heat the cabin. -/
theorem State.cabinHeater_eq (s : State) (c : Conditioning) :
    s.cabinHeater c = if c = .cabin ∨ c = .both then s.cfg.cabinHeater else 0 := by
  cases c <;> rfl

theorem Order.owes_iff (o : Order) : o.owes = true ↔ o.conditioning ≠ .none ∧ o.begun = true := by
  simp [Order.owes]

theorem State.heater_of_owed {s : State} {b : BayNo} {o : Order}
    (h : o.state = .conditioning ∨ (o.state = .ready ∧ o.conditioning ≠ .none ∧ o.begun = true)) :
    s.heater b o = s.packHeater b o.conditioning + s.cabinHeater o.conditioning :=
  if_pos (h.imp_right (And.imp_right o.owes_iff.mpr))

theorem State.heater_of_not_owed {s : State} {b : BayNo} {o : Order}
    (h : o.state = .charging ∨ (o.state = .ready ∧ (o.conditioning = .none ∨ o.begun = false))) : s.heater b o = 0 := by
  unfold State.heater
  refine if_neg ?_
  rw [Order.owes_iff]
  rcases h with hs | ⟨hs, hc | hb⟩
  · simp [hs]
  · simp [hs, hc]
  · simp [hs, hb]

/-- R52: the default tables, entry by entry. -/
theorem factory_tables : ∀ i : Fin 41,
    Settings.factory.rateTable[i] = (if i.val ≤ 4 then 0 else if i.val ≤ 9 then 20 else if i.val ≤ 14 then 50
      else if i.val ≤ 32 then 100 else 60) ∧
    Settings.factory.condTable[i] = if i.val < 24 then 12 - i.val / 2 else 0 := by
  decide

/-- Settles O41: each quantity by the case of its definition. -/
theorem capIsTheLeastOfThree : Obligations.CapIsTheLeastOfThree := by
  unfold Obligations.CapIsTheLeastOfThree
  refine ⟨factory_tables, rfl, fun b s => ⟨fun i => BayRec.index_of_fixed, fun p => BayRec.index_of_pack,
    BayRec.index_of_none, fun h hm => ?_, fun c hm hc => ?_, fun o => ⟨fun h ho => ?_, State.heater_of_not_owed, rfl⟩⟩⟩
  · rw [State.chargeCap_of_table hm, tableAt_of_lt _ h]
  · rw [State.chargeCap_of_manual hm, hc]
    rfl
  · rw [State.heater_of_owed ho, State.packHeater_eq, State.cabinHeater_eq, tableAt_of_lt _ h]

/-! ### ReadTable (O18) -/

/-- R61: the tables are numbered 0 and 1. -/
theorem State.table?_eq (s : State) (t : Byte) :
    s.table? t = if t.toNat ≤ 1 then some (if t = 0 then s.cfg.rateTable else s.cfg.condTable) else none := by
  by_cases h : t.toNat ≤ 1
  · rw [if_pos h]
    rcases byte_le_one_iff.mp h with rfl | rfl <;> rfl
  · rw [if_neg h]
    unfold State.table?
    split
    next h0 => omega
    next h1 => omega
    next => rfl

theorem readTable_served {r : Req} {t start count : Byte} {s : State} (ht : s.takes r.port = true)
    (hb : r.body = [t, start, count]) : exec (.readTable r) s = .next ((readTableOwner [t, start, count] s).1.answered r
      0x06 (readTableOwner [t, start, count] s).2.status (readTableOwner [t, start, count] s).2.body) := by
  change Host.Outcome.next (s.serve r 0x06 anyRole readTableOwner) = _
  rw [State.serve_permitted ht rfl, hb]

theorem readTableOwner_of_ok {t start count : Byte} (s : State) (ht : t.toNat ≤ 1)
    (h : start.toNat ≤ 40 ∧ 1 ≤ count.toNat ∧ count.toNat ≤ 41) : readTableOwner [t, start, count] s =
      (s, .done ([t, start, byte (min count.toNat (41 - start.toNat)), byte s.cfg.cabinHeater] ++
        (((if t = 0 then s.cfg.rateTable.toList else s.cfg.condTable.toList).drop start.toNat).take
          count.toNat).map byte)) := by
  rw [← apply_ite Vector.toList]
  simp only [readTableOwner, s.table?_eq, if_pos ht, if_pos h, List.length_take, List.length_drop, Vector.length_toList]

theorem readTableOwner_of_not_ok {t start count : Byte} (s : State)
    (h : ¬ (t.toNat ≤ 1 ∧ start.toNat ≤ 40 ∧ 1 ≤ count.toNat ∧ count.toNat ≤ 41)) :
    readTableOwner [t, start, count] s = (s, .refuse .badValue) := by
  by_cases ht : t.toNat ≤ 1
  · simp only [readTableOwner, s.table?_eq, if_pos ht, if_neg (fun hr => h ⟨ht, hr⟩)]
  · simp only [readTableOwner, s.table?_eq, if_neg ht]

/-! ### ReadSetting (O18) -/

theorem readSetting_served {r : Req} {i1 i0 : Byte} {s : State} (ht : s.takes r.port = true) (hb : r.body = [i1, i0]) :
    exec (.readSetting r) s = .next ((readSettingOwner [i1, i0] s).1.answered r 0x07
      (readSettingOwner [i1, i0] s).2.status (readSettingOwner [i1, i0] s).2.body) := by
  change Host.Outcome.next (s.serve r 0x07 anyRole readSettingOwner) = _
  rw [State.serve_permitted ht rfl, hb]

/-- R179: the identifier of a setting. -/
def SettingId.number : SettingId → Nat
  | .enabled b => 0x0101 + b.val
  | .rating b => 0x0201 + b.val
  | .postMin => 0x0301
  | .cabinHeater => 0x0302
  | .safeCeiling => 0x0303
  | .derateCeiling => 0x0304
  | .warnThreshold => 0x0305
  | .alarmThreshold => 0x0306
  | .hysteresis => 0x0307
  | .warnLatch => 0x0308
  | .alarmLatch => 0x0309
  | .roundPeriod => 0x0401
  | .deferMargin => 0x0402
  | .wakeSlack => 0x0403
  | .dormancyTime => 0x0404
  | .wakePulse => 0x0405
  | .admTimeout => 0x0406
  | .missedGrace => 0x0407
  | .input y => 0x0501 + y.val
  | .mask p => 0x0600 + portCode p

theorem settingId?_enabled (b : BayNo) : settingId? (0x0101 + b.val) = some (.enabled b) := by
  unfold settingId?
  rw [dif_pos (by omega)]
  simp

theorem settingId?_rating (b : BayNo) : settingId? (0x0201 + b.val) = some (.rating b) := by
  unfold settingId?
  rw [dif_neg (by omega), dif_pos (by omega)]
  simp

theorem settingId?_input (y : InputNo) : settingId? (0x0501 + y.val) = some (.input y) := by
  unfold settingId?
  rw [dif_neg (by omega), dif_neg (by omega), dif_pos (by omega)]
  simp

theorem settingId?_number (id : SettingId) : settingId? id.number = some id := by
  cases id with
  | enabled b => exact settingId?_enabled b
  | rating b => exact settingId?_rating b
  | input y => exact settingId?_input y
  | mask p => cases p <;> rfl
  | _ => rfl

theorem number_of_settingId? {n : Nat} {id : SettingId} (h : settingId? n = some id) : n = id.number := by
  unfold settingId? at h
  split_ifs at h
  iterate 3
    · obtain rfl := Option.some.inj h
      dsimp only [SettingId.number]
      omega
  split at h
  case h_20 => nomatch h
  all_goals
    obtain rfl := Option.some.inj h
    rfl

theorem settingId?_eq_some_iff (n : Nat) (id : SettingId) : settingId? n = some id ↔ n = id.number :=
  ⟨number_of_settingId?, fun h => h ▸ settingId?_number id⟩

/-- Settles O18: the two owners by the ranges of their fields, the identifiers as the inverse of `SettingId.number`. -/
theorem tableAndSettingReadsAnswer : Obligations.TableAndSettingReadsAnswer := by
  unfold Obligations.TableAndSettingReadsAnswer
  refine ⟨fun r t start count s ht hb => ?_, fun r i1 i0 s ht hb => ?_, fun n id => ?_, fun id => ?_⟩
  · rw [readTable_served ht hb]
    split
    next h => rw [readTableOwner_of_ok s h.1 h.2]; rfl
    next h => rw [readTableOwner_of_not_ok s h]; rfl
  · rw [readSetting_served ht hb]
    cases hn : settingId? (val16 i1 i0) <;> simp only [readSettingOwner, hn] <;> rfl
  · rw [settingId?_eq_some_iff]
    cases id with
    | mask p => cases p <;> rfl
    | _ => rfl
  · cases id with
    | enabled b => simp [Settings.valueBytes, Settings.factory, be32, byte]
    | rating b => simp [Settings.valueBytes, Settings.factory]
    | input y => simp [Settings.valueBytes, Settings.factory, InputCfg.bytes, InputCfg.factory]; decide
    | mask p => cases p <;> rfl
    | _ => rfl

end Sys2Proof.Machine
end

section
/-! PROOFS. Written tables and settings: the values a setting takes, what reads back, and what a written setting does at
the request: O50. -/

namespace Sys2Proof.Machine

/-! ### Bytes (R178) -/

/-- The four bytes of a field are those of the quantity they spell. -/
theorem be32_val32 (a b c d : Byte) : be32 (val32 a b c d) = [a, b, c, d] := by
  simp only [be32, byte, val32, List.cons.injEq, and_true]
  refine ⟨?_, ?_, ?_, ?_⟩ <;> apply BitVec.eq_of_toNat_eq <;> rw [BitVec.toNat_ofNat] <;> omega

theorem byte_le_two_iff {b : Byte} : b.toNat ≤ 2 ↔ b = 0 ∨ b = 1 ∨ b = 2 := by
  constructor
  · intro h
    bv_omega
  · rintro (rfl | rfl | rfl) <;> decide

theorem byte_le_three_iff {b : Byte} : b.toNat ≤ 3 ↔ b = 0 ∨ b = 1 ∨ b = 2 ∨ b = 3 := by
  constructor
  · intro h
    bv_omega
  · rintro (rfl | rfl | rfl | rfl) <;> decide

/-! ### The values a setting takes (R179, R180) -/

theorem inputRole?_eq (b : Byte) : inputRole? b =
    if b.toNat ≤ 2 then some (if b = 0 then .event else if b = 1 then .stop else .derate) else none := by
  by_cases h : b.toNat ≤ 2
  · rw [if_pos h]
    rcases byte_le_two_iff.mp h with rfl | rfl | rfl <;> rfl
  · rw [if_neg h]
    unfold inputRole?
    split
    next h0 => omega
    next h1 => omega
    next h2 => omega
    next => rfl

theorem filterTime?_eq (b : Byte) : filterTime? b =
    if b.toNat ≤ 3 then some (if b = 0 then .ms0 else if b = 1 then .ms20 else if b = 2 then .ms100 else .ms500)
    else none := by
  by_cases h : b.toNat ≤ 3
  · rw [if_pos h]
    rcases byte_le_three_iff.mp h with rfl | rfl | rfl | rfl <;> rfl
  · rw [if_neg h]
    unfold filterTime?
    split
    next h0 => omega
    next h1 => omega
    next h2 => omega
    next h3 => omega
    next => rfl

/-- The active level byte is 0 for High and 1 for Low. -/
theorem byte_beq_zero {b : Byte} (h : b.toNat ≤ 1) : (!(b == 1)) = (b == 0) := by
  rcases byte_le_one_iff.mp h with rfl | rfl <;> rfl

/-- R179: the four bytes of an input configuration, and their ranges. -/
theorem inputCfg?_eq (v3 v2 v1 v0 : Byte) : inputCfg? v3 v2 v1 v0 =
    if v3.toNat ≤ 2 ∧ v2.toNat ≤ 1 ∧ v1.toNat ≤ 3 ∧ v0.toNat ≤ 1 then
      some ⟨if v3 = 0 then .event else if v3 = 1 then .stop else .derate, v2 == 0,
        if v1 = 0 then .ms0 else if v1 = 1 then .ms20 else if v1 = 2 then .ms100 else .ms500, v0 == 1⟩
    else none := by
  unfold inputCfg?
  rw [inputRole?_eq, filterTime?_eq, yesNo?_eq, yesNo?_eq]
  by_cases h3 : v3.toNat ≤ 2
  · by_cases h2 : v2.toNat ≤ 1
    · by_cases h1 : v1.toNat ≤ 3
      · by_cases h0 : v0.toNat ≤ 1
        · simp only [if_pos h3, if_pos h2, if_pos h1, if_pos h0, byte_beq_zero h2]
          exact (if_pos ⟨h3, h2, h1, h0⟩).symm
        · simp [h0]
      · simp [h1]
    · simp [h2]
  · simp [h3]

/-- R158, R180: the two bytes of a mask, and their ranges. -/
theorem mask?_eq (v3 v2 : Byte) :
    mask? v3 v2 = if v3.toNat < 64 ∧ v2.toNat ≤ 1 then some ⟨v3, v2 == 1⟩ else none := by
  unfold mask?
  rw [yesNo?_eq]
  by_cases h : v2.toNat ≤ 1
  · simp only [h, if_true, and_true]
    exact if_congr Nat.lt_succ_iff.symm rfl rfl
  · simp [h]

/-- The settings whose value is On or Off, or Yes or No. -/
def SettingId.isFlag : SettingId → Bool
  | .enabled _ | .warnLatch | .alarmLatch => true
  | _ => false

theorem settingValue?_of_flag {id : SettingId} (h : id.isFlag = true) (v3 v2 v1 v0 : Byte) :
    settingValue? id v3 v2 v1 v0 =
      if val32 v3 v2 v1 v0 ≤ 1 then some (.flag (val32 v3 v2 v1 v0 == 1)) else none := by
  cases id with
  | enabled _ | warnLatch | alarmLatch =>
    unfold settingValue?
    dsimp only
    split
    next hn => simp [hn]
    next hn => simp [hn]
    next h0 h1 =>
      have h0' : val32 v3 v2 v1 v0 ≠ 0 := h0
      have h1' : val32 v3 v2 v1 v0 ≠ 1 := h1
      exact (if_neg (by omega)).symm
  | _ => cases h

theorem settingValue?_of_range {id : SettingId} {lo hi : Nat} (h : id.range = some (lo, hi)) (v3 v2 v1 v0 : Byte) :
    settingValue? id v3 v2 v1 v0 =
      if lo ≤ val32 v3 v2 v1 v0 ∧ val32 v3 v2 v1 v0 ≤ hi then some (.num (val32 v3 v2 v1 v0)) else none := by
  cases id <;> cases h <;> rfl

theorem settingValue?_input_eq (y : InputNo) (v3 v2 v1 v0 : Byte) :
    settingValue? (.input y) v3 v2 v1 v0 = (inputCfg? v3 v2 v1 v0).map .input := rfl

theorem settingValue?_mask_eq (p : Port) (v3 v2 v1 v0 : Byte) :
    settingValue? (.mask p) v3 v2 v1 v0 = (mask? v3 v2).map .mask := rfl

/-! ### What a written setting reads back as (R180) -/

/-- A value of the shape a setting has; every value that passes the checks is one. -/
def SettingValue.fits : SettingValue → SettingId → Bool
  | .num _, id => id.range.isSome
  | .flag _, id => id.isFlag
  | .input _, .input _ => true
  | .mask _, .mask _ => true
  | _, _ => false

/-- A value in four bytes, most significant first. -/
def SettingValue.bytes : SettingValue → List Byte
  | .num n => be32 n
  | .flag b => be32 (if b then 1 else 0)
  | .input c => c.bytes
  | .mask m => m.bytes

theorem InputCfg.bytes_of_inputCfg? {v3 v2 v1 v0 : Byte} {c : InputCfg} (h : inputCfg? v3 v2 v1 v0 = some c) :
    c.bytes = [v3, v2, v1, v0] := by
  rw [inputCfg?_eq, Option.ite_none_right_eq_some] at h
  obtain ⟨⟨h3, h2, h1, h0⟩, hc⟩ := h
  obtain rfl := Option.some.inj hc
  simp only [InputCfg.bytes, List.cons.injEq, and_true]
  refine ⟨?_, ?_, ?_, ?_⟩
  · rcases byte_le_two_iff.mp h3 with rfl | rfl | rfl <;> rfl
  · rcases byte_le_one_iff.mp h2 with rfl | rfl <;> rfl
  · rcases byte_le_three_iff.mp h1 with rfl | rfl | rfl | rfl <;> rfl
  · rcases byte_le_one_iff.mp h0 with rfl | rfl <;> rfl

theorem Mask.bytes_of_mask? {v3 v2 : Byte} {m : Mask} (h : mask? v3 v2 = some m) : m.bytes = [v3, v2, 0, 0] := by
  rw [mask?_eq, Option.ite_none_right_eq_some] at h
  obtain ⟨⟨-, h2⟩, hm⟩ := h
  obtain rfl := Option.some.inj hm
  simp only [Mask.bytes, List.cons.injEq, true_and, and_true]
  rcases byte_le_one_iff.mp h2 with rfl | rfl <;> rfl

/-- The four bytes of a value within its range are the bytes it reads back as, but for the two low bytes of a mask. -/
def SettingId.readBack (id : SettingId) (v3 v2 v1 v0 : Byte) : List Byte :=
  match id with
  | .mask _ => [v3, v2, 0, 0]
  | _ => [v3, v2, v1, v0]

theorem settingValue?_of_flag_spec {id : SettingId} {v3 v2 v1 v0 : Byte} {v : SettingValue} (hid : id.isFlag = true)
    (h : settingValue? id v3 v2 v1 v0 = some v) : v.fits id = true ∧ v.bytes = [v3, v2, v1, v0] := by
  rw [settingValue?_of_flag hid, Option.ite_none_right_eq_some] at h
  obtain ⟨hn, hv⟩ := h
  obtain rfl := Option.some.inj hv
  refine ⟨hid, ?_⟩
  rw [← be32_val32 v3 v2 v1 v0]
  generalize val32 v3 v2 v1 v0 = n at hn ⊢
  obtain rfl | rfl : n = 0 ∨ n = 1 := by omega
  · rfl
  · rfl

theorem settingValue?_of_range_spec {id : SettingId} {lo hi : Nat} {v3 v2 v1 v0 : Byte} {v : SettingValue}
    (hid : id.range = some (lo, hi)) (h : settingValue? id v3 v2 v1 v0 = some v) :
    v.fits id = true ∧ v.bytes = [v3, v2, v1, v0] := by
  rw [settingValue?_of_range hid, Option.ite_none_right_eq_some] at h
  obtain ⟨-, hv⟩ := h
  obtain rfl := Option.some.inj hv
  exact ⟨Option.isSome_of_eq_some hid, be32_val32 v3 v2 v1 v0⟩

/-- R180: a value that passes the checks has the shape of its setting and spells the bytes it came in. -/
theorem settingValue?_spec {id : SettingId} {v3 v2 v1 v0 : Byte} {v : SettingValue}
    (h : settingValue? id v3 v2 v1 v0 = some v) : v.fits id = true ∧ v.bytes = id.readBack v3 v2 v1 v0 := by
  cases id with
  | enabled b => exact settingValue?_of_flag_spec rfl h
  | warnLatch => exact settingValue?_of_flag_spec rfl h
  | alarmLatch => exact settingValue?_of_flag_spec rfl h
  | input y =>
    obtain ⟨c, hc, rfl⟩ := Option.map_eq_some_iff.mp h
    exact ⟨rfl, InputCfg.bytes_of_inputCfg? hc⟩
  | mask p =>
    obtain ⟨m, hm, rfl⟩ := Option.map_eq_some_iff.mp h
    exact ⟨rfl, Mask.bytes_of_mask? hm⟩
  | _ => exact settingValue?_of_range_spec rfl h

/-- A written setting reads back as the value written. -/
theorem Settings.valueBytes_write (w : Settings) {id : SettingId} {v : SettingValue} (h : v.fits id = true) :
    (w.write id v).valueBytes id = v.bytes := by
  cases id with
  | enabled _ | rating _ | input _ =>
    cases v <;> cases h
    simp [Settings.write, Settings.valueBytes, SettingValue.bytes]
  | mask p =>
    cases v <;> cases h
    cases p <;> rfl
  | _ =>
    cases v <;> cases h
    rfl

/-- A written setting leaves every other setting as it reads. -/
theorem Settings.valueBytes_write_ne (w : Settings) {id other : SettingId} (v : SettingValue) (h : other ≠ id) :
    (w.write id v).valueBytes other = w.valueBytes other := by
  unfold Settings.write
  split
  case h_1 b x =>
    cases other with
    | enabled c =>
      have hc : (b : Nat) ≠ c := fun e => h (by rw [Fin.ext e])
      simp [Settings.valueBytes, hc]
    | mask p => cases p <;> rfl
    | _ => rfl
  case h_2 b x =>
    cases other with
    | rating c =>
      have hc : (b : Nat) ≠ c := fun e => h (by rw [Fin.ext e])
      simp [Settings.valueBytes, hc]
    | mask p => cases p <;> rfl
    | _ => rfl
  case h_19 y x =>
    cases other with
    | input z =>
      have hz : (y : Nat) ≠ z := fun e => h (by rw [Fin.ext e])
      simp [Settings.valueBytes, hz]
    | mask p => cases p <;> rfl
    | _ => rfl
  all_goals
    cases other with
    | mask p => cases p <;> first | rfl | exact absurd rfl h
    | _ => first | rfl | exact absurd rfl h

theorem Settings.write_tables (w : Settings) (id : SettingId) (v : SettingValue) :
    (w.write id v).rateTable = w.rateTable ∧ (w.write id v).condTable = w.condTable := by
  unfold Settings.write
  split <;> exact ⟨rfl, rfl⟩

/-! ### WriteTable (R60) -/

theorem writeTable_served {r : Req} {t index value : Byte} {s : State} (ht : s.takes r.port = true)
    (hp : r.port = .service) (hb : r.body = [t, index, value]) : exec (.writeTable r) s =
      .next ((writeTableOwner [t, index, value] s).1.answered r 0x1B (writeTableOwner [t, index, value] s).2.status
        (writeTableOwner [t, index, value] s).2.body) := by
  change Host.Outcome.next (s.serve r 0x1B serviceOnly writeTableOwner) = _
  rw [State.serve_permitted ht (by rw [hp]; rfl), hb]

/-- R60: a table, an index and a value in range. -/
def tableEntryOk (t index value : Byte) : Prop :=
  index.toNat ≤ 40 ∧ ((t = 0 ∧ value.toNat ≤ 100) ∨ (t = 1 ∧ value.toNat ≤ 15))

theorem writeTable?_eq (t : Byte) :
    writeTable? t = if t = 0 then some (true, 100) else if t = 1 then some (false, 15) else none := by
  by_cases h : t.toNat ≤ 1
  · rcases byte_le_one_iff.mp h with rfl | rfl <;> rfl
  · obtain ⟨h0, h1⟩ := not_or.mp (mt byte_le_one_iff.mpr h)
    rw [if_neg h0, if_neg h1]
    unfold writeTable?
    split
    next h0 => omega
    next h1 => omega
    next => rfl

/-- R60: with its fields in range, the write waits for the end of a commit or takes place. -/
theorem writeTableOwner_of_ok {t index value : Byte} (s : State) (hok : tableEntryOk t index value)
    (h : index.toNat < 41) : writeTableOwner [t, index, value] s =
      if s.store.commit.isSome then (s, .refuse .busy)
      else (s.withWorking (if t = 0 then { s.cfg with rateTable := s.cfg.rateTable.set index.toNat value.toNat }
        else { s.cfg with condTable := s.cfg.condTable.set index.toNat value.toNat }), .done [t, index, value]) := by
  obtain ⟨-, ⟨rfl, hv⟩ | ⟨rfl, hv⟩⟩ := hok
  all_goals
    simp only [writeTableOwner, writeTable?_eq, if_pos, dif_pos h]
    exact if_pos hv

theorem writeTableOwner_of_not_ok {t index value : Byte} (s : State) (hok : ¬ tableEntryOk t index value) :
    writeTableOwner [t, index, value] s = (s, .refuse .badValue) := by
  simp only [writeTableOwner]
  split
  next rate top ht =>
    split
    next hi =>
      refine if_neg fun hv => hok ⟨by omega, ?_⟩
      rw [writeTable?_eq] at ht
      split at ht
      next h0 =>
        obtain ⟨-, rfl⟩ := Prod.mk.inj (Option.some.inj ht)
        exact .inl ⟨h0, hv⟩
      next =>
        rw [Option.ite_none_right_eq_some] at ht
        obtain ⟨h1, ht⟩ := ht
        obtain ⟨-, rfl⟩ := Prod.mk.inj (Option.some.inj ht)
        exact .inr ⟨h1, hv⟩
    next => rfl
  next => rfl

/-! ### WriteSetting (R180) -/

theorem writeSetting_served {r : Req} {i1 i0 v3 v2 v1 v0 : Byte} {s : State} (ht : s.takes r.port = true)
    (hp : r.port = .service) (hb : r.body = [i1, i0, v3, v2, v1, v0]) : exec (.writeSetting r) s =
      .next ((writeSettingOwner [i1, i0, v3, v2, v1, v0] s).1.answered r 0x1C
        (writeSettingOwner [i1, i0, v3, v2, v1, v0] s).2.status
        (writeSettingOwner [i1, i0, v3, v2, v1, v0] s).2.body) := by
  change Host.Outcome.next (s.serve r 0x1C serviceOnly writeSettingOwner) = _
  rw [State.serve_permitted ht (by rw [hp]; rfl), hb]

theorem writeSettingOwner_of_unknown {i1 i0 : Byte} (h : settingId? (val16 i1 i0) = none) (v3 v2 v1 v0 : Byte)
    (s : State) : writeSettingOwner [i1, i0, v3, v2, v1, v0] s = (s, .refuse .badValue) := by
  simp only [writeSettingOwner, h]

theorem writeSettingOwner_of_out {i1 i0 v3 v2 v1 v0 : Byte} {id : SettingId} (h : settingId? (val16 i1 i0) = some id)
    (hv : settingValue? id v3 v2 v1 v0 = none) (s : State) :
    writeSettingOwner [i1, i0, v3, v2, v1, v0] s = (s, .refuse .badValue) := by
  simp only [writeSettingOwner, h, hv]

theorem writeSettingOwner_of_ok {i1 i0 v3 v2 v1 v0 : Byte} {id : SettingId} {v : SettingValue}
    (h : settingId? (val16 i1 i0) = some id) (hv : settingValue? id v3 v2 v1 v0 = some v) (s : State) :
    writeSettingOwner [i1, i0, v3, v2, v1, v0] s =
      if s.store.commit.isSome then (s, .refuse .busy)
      else ((s.applySetting id v).settle, .done ([i1, i0] ++ (s.applySetting id v).cfg.valueBytes id)) := by
  simp only [writeSettingOwner, h, hv]

/-! ### The parts of an input configuration (R166) -/

theorem State.actRole_store (s : State) (y : InputNo) (e : Edge) : (s.actRole y e).store = s.store := by
  obtain ⟨-, -, -, hevent⟩ := s.roleEvent_same (s.inputCfg y).role y e
  obtain ⟨-, hhand, -, -⟩ := (s.roleEvent (s.inputCfg y).role y e).handRole_parts (s.inputCfg y).role
  exact hhand.trans hevent

theorem State.setFiltered_store (s : State) (y : InputNo) (active : Bool) : (s.setFiltered y active).store = s.store := by
  unfold State.setFiltered
  dsimp only
  split
  · rfl
  · split <;> exact State.actRole_store _ y _

theorem State.cfgActive_store (s : State) (y : InputNo) (high : Bool) :
    (s.cfgActive y high).store = (s.withInputCfg y { s.inputCfg y with activeHigh := high }).store := by
  unfold State.cfgActive
  split
  next h =>
    rw [← h]
    exact congrArg State.store (s.withInputCfg_self y).symm
  next => exact State.setFiltered_store _ y _

theorem State.cfgLatch_store (s : State) (y : InputNo) (latch : Bool) :
    (s.cfgLatch y latch).store = (s.withInputCfg y { s.inputCfg y with latch := latch }).store := by
  unfold State.cfgLatch
  split
  next h =>
    rw [← h]
    exact congrArg State.store (s.withInputCfg_self y).symm
  next =>
    dsimp only
    split
    · rfl
    · split
      · exact State.actRole_store _ y _
      · rfl

theorem State.cfgRole_store (s : State) (y : InputNo) (role : InputRole) :
    (s.cfgRole y role).store = (s.withInputCfg y { s.inputCfg y with role := role }).store := by
  unfold State.cfgRole
  dsimp only
  split
  next h =>
    rw [← h]
    exact congrArg State.store (s.withInputCfg_self y).symm
  next =>
    have hleft : (if (s.input y).inForce then s.roleEvent (s.inputCfg y).role y .cleared else s).store = s.store := by
      split
      · exact (s.roleEvent_same _ y _).2.2.2
      · rfl
    generalize (if (s.input y).inForce then s.roleEvent (s.inputCfg y).role y .cleared else s) = left at hleft ⊢
    have hput : (left.withInputCfg y { s.inputCfg y with role := role }).store =
        (s.withInputCfg y { s.inputCfg y with role := role }).store := by
      simp only [State.withInputCfg, State.withWorking, State.cfg, hleft]
    rw [← hput]
    split
    · rw [State.actRole_store, State.updInput_store]
      exact (State.handRole_parts _ _).2.1
    · exact (State.handRole_parts _ _).2.1

/-- Of two configurations written one after the other, the store holds the later. -/
theorem State.withInputCfg_store_of_store {s t : State} {y : InputNo} {k : InputCfg}
    (h : t.store = (s.withInputCfg y k).store) (c : InputCfg) :
    (t.withInputCfg y c).store = (s.withInputCfg y c).store := by
  simp [State.withInputCfg, State.withWorking, State.cfg, h]

/-- R166: a written configuration changes the store by itself alone. -/
theorem State.reconfigure_store (s : State) (y : InputNo) (c : InputCfg) :
    (s.reconfigure y c).store = (s.withInputCfg y c).store := by
  unfold State.reconfigure
  rw [State.cfgRole_store, State.cfgLatch_inputCfg, State.cfgActive_inputCfg, State.cfgFilter_inputCfg]
  have hfilter : (s.cfgFilter y c.filter).store = (s.withInputCfg y { s.inputCfg y with filter := c.filter }).store := rfl
  have hactive := (State.cfgActive_store (s.cfgFilter y c.filter) y c.activeHigh).trans
    (State.withInputCfg_store_of_store hfilter _)
  have hlatch := (State.cfgLatch_store ((s.cfgFilter y c.filter).cfgActive y c.activeHigh) y c.latch).trans
    (State.withInputCfg_store_of_store hactive _)
  exact State.withInputCfg_store_of_store hlatch c

theorem State.reconfigure_eq_cfgFilter {s : State} {y : InputNo} {c : InputCfg}
    (ha : (s.inputCfg y).activeHigh = c.activeHigh) (hl : (s.inputCfg y).latch = c.latch)
    (hr : (s.inputCfg y).role = c.role) : s.reconfigure y c = s.cfgFilter y c.filter := by
  have hcfg := s.cfgFilter_inputCfg y c.filter
  unfold State.reconfigure
  rw [State.cfgActive_same (by rw [hcfg]; exact ha), State.cfgLatch_same (by rw [hcfg]; exact hl),
    State.cfgRole_same (by rw [hcfg]; exact hr)]

theorem State.reconfigure_eq_cfgActive {s : State} {y : InputNo} {c : InputCfg}
    (hf : (s.inputCfg y).filter = c.filter) (hl : (s.inputCfg y).latch = c.latch)
    (hr : (s.inputCfg y).role = c.role) : s.reconfigure y c = s.cfgActive y c.activeHigh := by
  have hcfg := s.cfgActive_inputCfg y c.activeHigh
  unfold State.reconfigure
  rw [State.cfgFilter_same hf, State.cfgLatch_same (by rw [hcfg]; exact hl),
    State.cfgRole_same (by rw [hcfg]; exact hr)]

theorem State.reconfigure_eq_cfgLatch {s : State} {y : InputNo} {c : InputCfg}
    (hf : (s.inputCfg y).filter = c.filter) (ha : (s.inputCfg y).activeHigh = c.activeHigh)
    (hr : (s.inputCfg y).role = c.role) : s.reconfigure y c = s.cfgLatch y c.latch := by
  unfold State.reconfigure
  rw [State.cfgFilter_same hf, State.cfgActive_same ha,
    State.cfgRole_same (by rw [State.cfgLatch_inputCfg]; exact hr)]

theorem State.reconfigure_eq_cfgRole {s : State} {y : InputNo} {c : InputCfg}
    (hf : (s.inputCfg y).filter = c.filter) (ha : (s.inputCfg y).activeHigh = c.activeHigh)
    (hl : (s.inputCfg y).latch = c.latch) : s.reconfigure y c = s.cfgRole y c.role := by
  unfold State.reconfigure
  rw [State.cfgFilter_same hf, State.cfgActive_same ha, State.cfgLatch_same hl]

/-- R166: a configuration that changes the filter alone. -/
theorem State.reconfigure_filter (s : State) (y : InputNo) (f : FilterTime) :
    s.reconfigure y { s.inputCfg y with filter := f } = s.withInputCfg y { s.inputCfg y with filter := f } :=
  State.reconfigure_eq_cfgFilter rfl rfl rfl

/-- R166: a configuration that changes the active level alone. -/
theorem State.reconfigure_activeHigh (s : State) (y : InputNo) (high : Bool) :
    s.reconfigure y { s.inputCfg y with activeHigh := high } = s.cfgActive y high :=
  State.reconfigure_eq_cfgActive rfl rfl rfl

/-- R166: a configuration that changes the latch setting alone. -/
theorem State.reconfigure_latch (s : State) (y : InputNo) (latch : Bool) :
    s.reconfigure y { s.inputCfg y with latch := latch } = s.cfgLatch y latch :=
  State.reconfigure_eq_cfgLatch rfl rfl rfl

/-- R166: a configuration that changes the role alone. -/
theorem State.reconfigure_role (s : State) (y : InputNo) (role : InputRole) :
    s.reconfigure y { s.inputCfg y with role := role } = s.cfgRole y role :=
  State.reconfigure_eq_cfgRole rfl rfl rfl

/-- R166: the parts of a configuration act one after the other, each as a configuration that changes it alone. -/
theorem State.reconfigure_parts (s : State) (y : InputNo) (c : InputCfg) :
    s.reconfigure y c =
      (((s.reconfigure y { s.inputCfg y with filter := c.filter }).reconfigure y
        { s.inputCfg y with filter := c.filter, activeHigh := c.activeHigh }).reconfigure y
          { s.inputCfg y with filter := c.filter, activeHigh := c.activeHigh, latch := c.latch }).reconfigure y c := by
  have h1 := s.cfgFilter_inputCfg y c.filter
  have h2 := (s.cfgFilter y c.filter).cfgActive_inputCfg y c.activeHigh
  have h3 := ((s.cfgFilter y c.filter).cfgActive y c.activeHigh).cfgLatch_inputCfg y c.latch
  rw [h1] at h2
  rw [h2] at h3
  have hfilter : s.reconfigure y { s.inputCfg y with filter := c.filter } = s.cfgFilter y c.filter :=
    s.reconfigure_filter y c.filter
  have hactive : (s.cfgFilter y c.filter).reconfigure y
      { s.inputCfg y with filter := c.filter, activeHigh := c.activeHigh } =
        (s.cfgFilter y c.filter).cfgActive y c.activeHigh :=
    State.reconfigure_eq_cfgActive (by rw [h1]) (by rw [h1]) (by rw [h1])
  have hlatch : ((s.cfgFilter y c.filter).cfgActive y c.activeHigh).reconfigure y
      { s.inputCfg y with filter := c.filter, activeHigh := c.activeHigh, latch := c.latch } =
        ((s.cfgFilter y c.filter).cfgActive y c.activeHigh).cfgLatch y c.latch :=
    State.reconfigure_eq_cfgLatch (by rw [h2]) (by rw [h2]) (by rw [h2])
  have hrole : (((s.cfgFilter y c.filter).cfgActive y c.activeHigh).cfgLatch y c.latch).reconfigure y c =
      s.reconfigure y c :=
    State.reconfigure_eq_cfgRole (by rw [h3]) (by rw [h3]) (by rw [h3])
  rw [hfilter, hactive, hlatch, hrole]

/-- R166: a changed active level drops the pending change and takes the filtered state afresh. -/
theorem State.cfgActive_of_ne {s : State} {y : InputNo} {high : Bool} (h : high ≠ (s.inputCfg y).activeHigh) :
    s.cfgActive y high = ((s.withInputCfg y { s.inputCfg y with activeHigh := high }).updInput y
      (fun i => { i with pending := none })).setFiltered y ((s.input y).levelHigh == high) :=
  if_neg (Ne.symm h)

/-- R166: a latch switched on holds an Active input. -/
theorem State.cfgLatch_on {s : State} {y : InputNo} (h : (s.inputCfg y).latch = false) :
    s.cfgLatch y true = (s.withInputCfg y { s.inputCfg y with latch := true }).updInput y
      (fun i => { i with latched := i.latched || i.active }) := by
  unfold State.cfgLatch
  rw [h]
  rfl

/-- R166: a latch switched off is cleared, and an input that it alone held leaves force. -/
theorem State.cfgLatch_off {s : State} {y : InputNo} (h : (s.inputCfg y).latch = true) :
    let t := (s.withInputCfg y { s.inputCfg y with latch := false }).updInput y (fun i => { i with latched := false })
    s.cfgLatch y false =
      if (s.input y).latched = true ∧ (s.input y).active = false then t.actRole y .cleared else t := by
  intro t
  unfold State.cfgLatch
  rw [h, if_neg (by decide), if_neg Bool.false_ne_true]
  exact if_congr (by rw [Bool.and_eq_true, Bool.not_eq_true']) rfl rfl

/-- R166: a changed role has an input in force leave it under the old role, and an Active one enter it under the new. -/
theorem State.cfgRole_of_ne {s : State} {y : InputNo} {role : InputRole} (h : role ≠ (s.inputCfg y).role) :
    let left := if (s.input y).active = true ∨ (s.input y).latched = true then
      s.roleEvent (s.inputCfg y).role y .cleared else s
    let t := ((left.withInputCfg y { s.inputCfg y with role := role }).updInput y
      (fun i => { i with latched := false })).handRole (s.inputCfg y).role
    s.cfgRole y role = if (s.input y).active then
      (t.updInput y (fun i => { i with latched := (s.inputCfg y).latch })).actRole y .raised else t := by
  intro left t
  have hleft : left = if (s.input y).inForce then s.roleEvent (s.inputCfg y).role y .cleared else s :=
    if_congr (by simp [InputState.inForce]) rfl rfl
  unfold State.cfgRole
  rw [if_neg h.symm, ← hleft]

/-! ### Targets after a setting change (R108) -/

/-- R133: a target that changes is handed to the Line controller. -/
theorem State.setTarget_of_ne {s : State} {b : BayNo} {v : Nat} (h : s.target b ≠ v) :
    s.setTarget b v = (s.withTarget b v).reconcile b := if_neg h

/-- R108: one bay of a raised post minimum. -/
def State.dropSmall (n : Nat) (s : State) (b : BayNo) : State :=
  if 0 < s.target b ∧ s.target b < n then (s.withTarget b 0).reconcile b else s

/-- R108: what a raised post minimum leaves of a target. -/
def targetUnder (n v : Nat) : Nat := if 0 < v ∧ v < n then 0 else v

theorem targetUnder_targetUnder (n v : Nat) : targetUnder n (targetUnder n v) = targetUnder n v := by
  by_cases h : 0 < v ∧ v < n <;> simp [targetUnder, h]

theorem State.dropSmall_store (n : Nat) (s : State) (b : BayNo) : (s.dropSmall n b).store = s.store := by
  unfold State.dropSmall
  split
  · exact State.reconcile_store _ b
  · rfl

theorem State.target_dropSmall (n : Nat) (s : State) (b : BayNo) :
    (s.dropSmall n b).target b = targetUnder n (s.target b) := by
  unfold State.dropSmall targetUnder
  split
  · rw [State.target_reconcile, State.target_withTarget]
  · rfl

theorem State.target_dropSmall_ne (n : Nat) (s : State) {b c : BayNo} (h : b ≠ c) :
    (s.dropSmall n c).target b = s.target b := by
  unfold State.dropSmall
  split
  · rw [State.target_reconcile, State.target_withTarget_ne s 0 h]
  · rfl

theorem State.target_foldl_dropSmall (n : Nat) (b : BayNo) (l : List BayNo) (s : State) :
    (l.foldl (State.dropSmall n) s).target b = if b ∈ l then targetUnder n (s.target b) else s.target b := by
  induction l generalizing s with
  | nil => rfl
  | cons c cs ih =>
    rw [List.foldl_cons, ih]
    by_cases h : b = c
    · subst h
      rw [State.target_dropSmall, targetUnder_targetUnder, ite_self, if_pos List.mem_cons_self]
    · rw [State.target_dropSmall_ne n s h]
      exact if_congr (by simp [h]) rfl rfl

theorem State.foldl_dropSmall_store (n : Nat) (l : List BayNo) (s : State) :
    (l.foldl (State.dropSmall n) s).store = s.store := by
  induction l generalizing s with
  | nil => rfl
  | cons c cs ih => rw [List.foldl_cons, ih, State.dropSmall_store]

/-- R108: the bays whose targets lie below a raised post minimum lose them, in ascending bay number. -/
theorem State.raisePostMin_eq (s : State) :
    s.raisePostMin = (List.finRange 24).foldl (State.dropSmall s.cfg.postMin) s := by
  have hfold : ∀ (l : List BayNo) (t : State), t.cfg = s.cfg →
      l.foldl (fun t b => if 0 < t.target b ∧ t.target b < t.cfg.postMin then t.setTarget b 0 else t) t =
        l.foldl (State.dropSmall s.cfg.postMin) t := by
    intro l
    induction l with
    | nil => exact fun _ _ => rfl
    | cons c cs ih =>
      intro t ht
      have hstep : (if 0 < t.target c ∧ t.target c < t.cfg.postMin then t.setTarget c 0 else t) =
          t.dropSmall s.cfg.postMin c := by
        unfold State.dropSmall
        rw [ht]
        split
        next h => exact State.setTarget_of_ne (by omega)
        next => rfl
      have hcfg : (t.dropSmall s.cfg.postMin c).cfg = s.cfg :=
        (congrArg Store.working (State.dropSmall_store _ t c)).trans ht
      rw [List.foldl_cons, List.foldl_cons, hstep, ih _ hcfg]
  exact hfold _ s rfl

/-- R108: a lowered post rating cuts the stored cap. -/
def State.cutCap (s : State) (b : BayNo) (rating : Nat) : State :=
  if rating < s.cap b then s.withCap b rating else s

theorem State.cap_cutCap (s : State) (b : BayNo) (rating : Nat) : (s.cutCap b rating).cap b = min (s.cap b) rating := by
  unfold State.cutCap
  split
  · rw [State.cap_withCap]
    omega
  · omega

theorem State.target_cutCap (s : State) (b c : BayNo) (rating : Nat) : (s.cutCap b rating).target c = s.target c := by
  unfold State.cutCap
  split <;> rfl

theorem State.cutCap_store (s : State) (b : BayNo) (rating : Nat) : (s.cutCap b rating).store = s.store := by
  unfold State.cutCap
  split <;> rfl

/-- R108: a target above a lowered post rating becomes the rating, or 0 where the post minimum forbids it. -/
theorem State.lowerRating_eq (s : State) (b : BayNo) (rating : Nat) : s.lowerRating b rating =
    if rating < s.target b then
      ((s.cutCap b rating).withTarget b (if s.cfg.postMin ≤ rating then rating else 0)).reconcile b
    else s.cutCap b rating := by
  have htarget := s.target_cutCap b b rating
  have hcfg : (s.cutCap b rating).cfg = s.cfg := congrArg Store.working (s.cutCap_store b rating)
  unfold State.lowerRating
  change (if rating < (s.cutCap b rating).target b then (s.cutCap b rating).setTarget b
    (if (s.cutCap b rating).cfg.postMin ≤ rating then rating else 0) else s.cutCap b rating) = _
  rw [htarget, hcfg]
  split
  next h => exact State.setTarget_of_ne (by split <;> omega)
  next => rfl

theorem State.reconcile_alloc (s : State) (b : BayNo) : (s.reconcile b).alloc = s.alloc := by
  unfold State.reconcile
  dsimp only
  split
  · split
    · rfl
    · split <;> rfl
  · rfl

theorem State.cap_lowerRating (s : State) (b : BayNo) (rating : Nat) :
    (s.lowerRating b rating).cap b = min (s.cap b) rating := by
  rw [State.lowerRating_eq, ← State.cap_cutCap]
  split
  · unfold State.cap
    rw [State.reconcile_alloc]
    rfl
  · rfl

theorem State.target_lowerRating (s : State) (b : BayNo) (rating : Nat) : (s.lowerRating b rating).target b =
    if rating < s.target b then (if s.cfg.postMin ≤ rating then rating else 0) else s.target b := by
  rw [State.lowerRating_eq]
  split
  · rw [State.target_reconcile, State.target_withTarget]
  · exact State.target_cutCap s b b rating

theorem State.lowerRating_store (s : State) (b : BayNo) (rating : Nat) : (s.lowerRating b rating).store = s.store := by
  rw [State.lowerRating_eq]
  split
  · exact (State.reconcile_store _ b).trans (s.cutCap_store b rating)
  · exact s.cutCap_store b rating

/-! ### What a written setting does (R180) -/

theorem State.applySetting_postMin (s : State) (n : Nat) : s.applySetting .postMin (.num n) =
    if s.cfg.postMin < n then
      (List.finRange 24).foldl (State.dropSmall n) (s.withWorking { s.cfg with postMin := n })
    else s.withWorking { s.cfg with postMin := n } :=
  if_congr Iff.rfl (State.raisePostMin_eq _) rfl

theorem State.applySetting_rating (s : State) (b : BayNo) (n : Nat) : s.applySetting (.rating b) (.num n) =
    if n < s.rating b then (s.withWorking { s.cfg with rating := s.cfg.rating.set b n }).lowerRating b n
    else s.withWorking { s.cfg with rating := s.cfg.rating.set b n } := rfl

/-- R180: a setting whose owner has nothing to do at the request is written and no more. -/
theorem State.applySetting_plain (s : State) {id : SettingId} (v : SettingValue) (hp : id ≠ .postMin)
    (hr : ∀ b, id ≠ .rating b) (hs : id ≠ .safeCeiling) (hd : id ≠ .derateCeiling) (hi : ∀ y, id ≠ .input y) :
    s.applySetting id v = s.withWorking (s.cfg.write id v) := by
  unfold State.applySetting
  dsimp only
  split
  · exact absurd rfl (hi _)
  · exact absurd rfl hp
  · exact absurd rfl (hr _)
  · exact absurd rfl hs
  · exact absurd rfl hd
  · rfl

/-- R180: whatever a written setting does besides, the store changes by the value written alone. -/
theorem State.applySetting_cfg (s : State) {id : SettingId} {v : SettingValue} (h : v.fits id = true) :
    (s.applySetting id v).cfg = s.cfg.write id v := by
  refine congrArg Store.working (?_ : (s.applySetting id v).store = (s.withWorking (s.cfg.write id v)).store)
  cases id with
  | input y =>
    cases v <;> cases h
    exact s.reconfigure_store y _
  | postMin =>
    cases v <;> cases h
    rw [State.applySetting_postMin]
    split
    · exact State.foldl_dropSmall_store _ _ _
    · rfl
  | rating b =>
    cases v <;> cases h
    rw [State.applySetting_rating]
    split
    · exact State.lowerRating_store _ b _
    · rfl
  | safeCeiling => exact State.recomputeCeiling_store _
  | derateCeiling => exact State.recomputeCeiling_store _
  | _ => rfl

/-! ### The requests (O50) -/

theorem writeTable_written {r : Req} {t index value : Byte} {s : State} (ht : s.takes r.port = true)
    (hp : r.port = .service) (hb : r.body = [t, index, value]) :
    (¬ tableEntryOk t index value → exec (.writeTable r) s = .next (s.answered r 0x1B .badValue [])) ∧
    (tableEntryOk t index value → s.store.commit ≠ none → exec (.writeTable r) s = .next (s.answered r 0x1B .busy [])) ∧
    (tableEntryOk t index value → s.store.commit = none → ∀ h : index.toNat < 41, exec (.writeTable r) s = .next
      ((s.withWorking (if t = 0 then { s.cfg with rateTable := s.cfg.rateTable.set index.toNat value.toNat }
        else { s.cfg with condTable := s.cfg.condTable.set index.toNat value.toNat })).answered r 0x1B .done r.body)) := by
  rw [writeTable_served ht hp hb, hb]
  refine ⟨fun hok => ?_, fun hok hc => ?_, fun hok hc h => ?_⟩
  · rw [writeTableOwner_of_not_ok s hok]
    rfl
  · rw [writeTableOwner_of_ok s hok (Nat.lt_succ_of_le hok.1), if_pos (Option.isSome_iff_ne_none.mpr hc)]
    rfl
  · rw [writeTableOwner_of_ok s hok h, if_neg (by simp [hc])]
    rfl

theorem writeSetting_written {r : Req} {i1 i0 v3 v2 v1 v0 : Byte} {s : State} (ht : s.takes r.port = true)
    (hp : r.port = .service) (hb : r.body = [i1, i0, v3, v2, v1, v0]) {id : SettingId} {v : SettingValue}
    (hid : settingId? (val16 i1 i0) = some id) (hv : settingValue? id v3 v2 v1 v0 = some v) :
    (s.store.commit ≠ none → exec (.writeSetting r) s = .next (s.answered r 0x1C .busy [])) ∧
    (s.store.commit = none → (s.applySetting id v).cfg = s.cfg.write id v ∧ exec (.writeSetting r) s =
      .next ((s.applySetting id v).settle.answered r 0x1C .done
        ([i1, i0] ++ (s.applySetting id v).cfg.valueBytes id))) := by
  rw [writeSetting_served ht hp hb, writeSettingOwner_of_ok hid hv]
  refine ⟨fun hc => ?_, fun hc => ⟨s.applySetting_cfg (settingValue?_spec hv).1, ?_⟩⟩
  · rw [if_pos (Option.isSome_iff_ne_none.mpr hc)]
    rfl
  · rw [if_neg (by simp [hc])]
    rfl

/-- Settles O50: the requests by their checks, the values setting by setting, a configuration part by part, and the
setting changes that act on targets and ceilings. -/
theorem tablesAndSettingsAreWritten : Obligations.TablesAndSettingsAreWritten := by
  unfold Obligations.TablesAndSettingsAreWritten
  refine ⟨fun r t index value s ht hp hb => writeTable_written ht hp hb, fun r i1 i0 v3 v2 v1 v0 s ht hp hb =>
    ⟨fun hid => ?_, fun id hid => ⟨fun hv => ?_, fun v hv => writeSetting_written ht hp hb hid hv⟩⟩,
    fun id v3 v2 v1 v0 => ?_, fun w id v3 v2 v1 v0 v hv => ⟨?_, fun other ho => w.valueBytes_write_ne v ho,
      w.write_tables id v⟩, fun y c s => ⟨s.reconfigure_parts y c, fun f => ?_, fun high h => ?_, fun h => ?_,
      fun h => ?_, fun role h => ?_⟩, fun n s => ⟨fun b => ?_, fun b hn => ⟨?_, ?_⟩,
      ⟨s.applySetting_postMin n, fun b => ?_⟩, fun id v hid => ?_, rfl, rfl⟩⟩
  · rw [writeSetting_served ht hp hb, writeSettingOwner_of_unknown hid]
    rfl
  · rw [writeSetting_served ht hp hb, writeSettingOwner_of_out hid hv]
    rfl
  · intro n within
    cases id with
    | enabled _ | warnLatch | alarmLatch => exact settingValue?_of_flag rfl v3 v2 v1 v0
    | input y =>
      rw [settingValue?_input_eq, inputCfg?_eq, apply_ite (Option.map _)]
      rfl
    | mask p =>
      rw [settingValue?_mask_eq, mask?_eq, apply_ite (Option.map _)]
      rfl
    | _ => exact settingValue?_of_range rfl v3 v2 v1 v0
  · obtain ⟨hfits, hbytes⟩ := settingValue?_spec hv
    rw [w.valueBytes_write hfits, hbytes]
    cases id <;> rfl
  · exact s.reconfigure_filter y f
  · exact (s.reconfigure_activeHigh y high).trans (State.cfgActive_of_ne h)
  · exact (s.reconfigure_latch y true).trans (State.cfgLatch_on h)
  · exact (s.reconfigure_latch y false).trans (State.cfgLatch_off h)
  · exact (s.reconfigure_role y role).trans (State.cfgRole_of_ne h)
  · rw [State.applySetting_postMin]
    by_cases h : s.cfg.postMin < n
    · rw [if_pos h, State.target_foldl_dropSmall, if_pos (List.mem_finRange b)]
      exact if_congr (and_iff_right h).symm rfl rfl
    · rw [if_neg h, if_neg (fun hc => h hc.1)]
      rfl
  · rw [State.applySetting_rating, if_pos hn]
    exact State.cap_lowerRating _ b n
  · rw [State.applySetting_rating, if_pos hn]
    exact State.target_lowerRating _ b n
  · rw [State.applySetting_rating]
    by_cases hn : n < s.rating b
    · rw [if_pos hn, State.lowerRating_eq]
      exact (if_neg (Nat.not_le.mpr hn)).symm
    · rw [if_neg hn]
      exact (if_pos (Nat.not_lt.mp hn)).symm
  · exact s.applySetting_plain v (by rintro rfl; exact hid) (by rintro b rfl; exact hid) (by rintro rfl; exact hid)
      (by rintro rfl; exact hid) (by rintro y rfl; exact hid)

end Sys2Proof.Machine
end

section
/-! PROOFS. The effective ceiling and the trim: O43, O44. -/

namespace Sys2Proof.Machine

/-! ### What the ceiling is composed of (O43) -/

/-- R79: the ceilings in force. -/
def ceilingsInForce (f : Feeder) (w : Settings) : List Nat :=
  f.site.toList ++ (if f.site.isNone ∨ f.stale = true then [w.safeCeiling] else []) ++
    (if f.derate then [w.derateCeiling] else [])

theorem mem_ceilingsInForce {f : Feeder} {w : Settings} {c : Nat} : c ∈ ceilingsInForce f w ↔
    f.site = some c ∨ (c = w.safeCeiling ∧ (f.site = none ∨ f.stale = true)) ∨ (c = w.derateCeiling ∧ f.derate = true) := by
  simp only [ceilingsInForce, List.mem_append, Option.mem_toList, List.mem_ite_nil_right, List.mem_singleton,
    Option.isNone_iff_eq_none, and_comm, or_assoc]

/-- R79: the site ceiling is in force once it is set, the safe ceiling until then. -/
theorem ceilingsInForce_ne_nil (f : Feeder) (w : Settings) : ceilingsInForce f w ≠ [] := by
  cases h : f.site with
  | none => exact List.ne_nil_of_mem (mem_ceilingsInForce.mpr (.inr (.inl ⟨rfl, .inl h⟩)))
  | some c => exact List.ne_nil_of_mem (mem_ceilingsInForce.mpr (.inl h))

theorem ceilingOf_of_stopped {f : Feeder} (w : Settings) (h : f.stop = true) : ceilingOf f w = 0 := if_pos (.inr h)

/-- R79: under no hold and no Stop the effective ceiling is the least ceiling in force, less the alarm cut. -/
theorem ceilingOf_of_running {f : Feeder} (w : Settings) (hh : f.hold = .running) (hs : f.stop = false) :
    ∃ least, (ceilingsInForce f w).min? = some least ∧ ceilingOf f w = least - f.cut := by
  have hopen : ¬ (f.hold ≠ .running ∨ f.stop = true) := by simp [hh, hs]
  have hceiling : ceilingOf f w = match ceilingsInForce f w with
      | [] => 0
      | c :: cs => cs.foldl min c - f.cut := if_neg hopen
  rw [hceiling]
  cases hl : ceilingsInForce f w with
  | nil => exact absurd hl (ceilingsInForce_ne_nil f w)
  | cons c cs => exact ⟨cs.foldl min c, rfl, rfl⟩

/-- Settles O43: a hold and a Stop as they stand, and otherwise the least of the list of the ceilings in force. -/
theorem effectiveCeilingIsComposed : Obligations.EffectiveCeilingIsComposed := by
  unfold Obligations.EffectiveCeilingIsComposed
  refine fun f w => ⟨?_, fun hh hs => ?_⟩
  · rintro (h | h | h)
    · exact ceilingOf_hold f w (by simp [h])
    · exact ceilingOf_hold f w (by simp [h])
    · exact ceilingOf_of_stopped w h
  · obtain ⟨least, hleast, hceiling⟩ := ceilingOf_of_running w hh hs
    obtain ⟨hmem, hle⟩ := List.min?_eq_some_iff.mp hleast
    exact ⟨least, mem_ceilingsInForce.mp hmem, fun c hc => hle c (mem_ceilingsInForce.mpr hc), hceiling⟩

/-! ### What a trim may change -/

/-- The state with other targets and other line records. -/
def State.withShares (s : State) (targets : Vector Nat 24) (bays : Vector LineBay 24) (nextAge : Nat) : State :=
  { s with
    alloc := { s.alloc with targets := targets }
    line := { s.line with bays := bays, nextAge := nextAge } }

/-- Targets and pending Grants are all that differs (R105, R133). -/
structure MovesTargets (s t : State) : Prop where
  shares : t = s.withShares t.alloc.targets t.line.bays t.line.nextAge
  lineBay : ∀ b, t.lineBay b = { s.lineBay b with pGrant := (t.lineBay b).pGrant }

theorem MovesTargets.refl (s : State) : MovesTargets s s := ⟨rfl, fun _ => rfl⟩

theorem MovesTargets.trans {s t u : State} (h : MovesTargets s t) (k : MovesTargets t u) : MovesTargets s u := by
  have hshares := congrArg (fun x => State.withShares x u.alloc.targets u.line.bays u.line.nextAge) h.shares
  have hline := fun b => congrArg (fun l => { l with pGrant := (u.lineBay b).pGrant }) (h.lineBay b)
  exact ⟨k.shares.trans hshares, fun b => (k.lineBay b).trans (hline b)⟩

theorem MovesTargets.foldl {f : State → BayNo → State} (h : ∀ s b, MovesTargets s (f s b)) (l : List BayNo) (s : State) :
    MovesTargets s (l.foldl f s) := by
  induction l generalizing s with
  | nil => exact .refl s
  | cons b bs ih => exact (h s b).trans (ih (f s b))

/-- A pending Grant made, changed or dropped, whatever age is the next. -/
theorem State.pending_moves (s : State) (b : BayNo) (p : Option PendingGrant) (age : Nat) :
    MovesTargets s { s.updLineBay b (fun l => { l with pGrant := p }) with
      line := { (s.updLineBay b (fun l => { l with pGrant := p })).line with nextAge := age } } := by
  refine ⟨rfl, fun c => ?_⟩
  have hline : (s.updLineBay b (fun l => { l with pGrant := p })).lineBay c =
      { s.lineBay c with pGrant := ((s.updLineBay b (fun l => { l with pGrant := p })).lineBay c).pGrant } := by
    by_cases hc : c = b
    · rw [hc, State.lineBay_updLineBay]
    · rw [State.lineBay_updLineBay_ne s _ hc]
  exact hline

theorem State.reconcile_moves (s : State) (b : BayNo) : MovesTargets s (s.reconcile b) := by
  unfold State.reconcile
  dsimp only
  split
  · split
    · exact s.pending_moves b none s.line.nextAge
    · split
      next p _ => exact s.pending_moves b (some { p with value := s.target b }) s.line.nextAge
      next => exact s.pending_moves b (some ⟨s.target b, s.line.nextAge⟩) (s.line.nextAge + 1)
  · exact .refl s

theorem State.withTarget_moves (s : State) (b : BayNo) (v : Nat) : MovesTargets s (s.withTarget b v) :=
  ⟨rfl, fun _ => rfl⟩

theorem State.setTarget_moves (s : State) (b : BayNo) (v : Nat) : MovesTargets s (s.setTarget b v) := by
  unfold State.setTarget
  split
  · exact .refl s
  · exact (s.withTarget_moves b v).trans (State.reconcile_moves _ b)

theorem State.trimBay_moves (s : State) (b : BayNo) : MovesTargets s (s.trimBay b) := by
  unfold State.trimBay
  split
  · exact .refl s
  · exact s.setTarget_moves b _

theorem State.trimCheck_moves (s : State) : MovesTargets s s.trimCheck := .foldl State.trimBay_moves _ s

/-- R88: eligibility rests on no target and no line record. -/
theorem MovesTargets.eligible {s t : State} (h : MovesTargets s t) (b : BayNo) : t.eligible b = s.eligible b := by
  have hsame := congrArg (fun x => State.eligible x b) h.shares
  exact hsame

theorem MovesTargets.exposure {s t : State} (h : MovesTargets s t) (b : BayNo) : t.exposure b = s.exposure b := by
  rw [State.exposure_eq, h.lineBay b]
  rfl

/-- R100: the available power rests on eligibility, exposures and the ceiling. -/
theorem MovesTargets.available {s t : State} (h : MovesTargets s t) : t.available = s.available := by
  have hstranded : t.stranded = s.stranded := by
    unfold State.stranded
    simp only [h.eligible, h.exposure]
  have hceiling : t.feeder.effective = s.feeder.effective := congrArg (fun x => x.feeder.effective) h.shares
  unfold State.available
  rw [hstranded, hceiling]

/-! ### The sum of the targets -/

theorem State.eligibleTargets_eq (s : State) :
    s.eligibleTargets = ∑ b : BayNo, if s.eligible b then s.target b else 0 := (Fin.sum_univ_def _).symm

/-- The sum of the targets when the target of one eligible bay takes a value. -/
theorem State.eligibleTargets_setTarget {s : State} {b : BayNo} (hb : s.eligible b = true) (v : Nat) :
    (s.setTarget b v).eligibleTargets + s.target b = s.eligibleTargets + v := by
  have hs := Finset.add_sum_erase Finset.univ (fun c => if s.eligible c then s.target c else 0) (Finset.mem_univ b)
  have ht := Finset.add_sum_erase Finset.univ
    (fun c => if s.eligible c then (s.setTarget b v).target c else 0) (Finset.mem_univ b)
  have hrest : ∑ c ∈ Finset.univ.erase b, (if s.eligible c then (s.setTarget b v).target c else 0) =
      ∑ c ∈ Finset.univ.erase b, if s.eligible c then s.target c else 0 :=
    Finset.sum_congr rfl fun c hc => by rw [State.target_setTarget_ne s v (Finset.ne_of_mem_erase hc)]
  simp only [hb, if_true, State.target_setTarget] at hs ht
  rw [State.eligibleTargets_eq, State.eligibleTargets_eq]
  simp only [(s.setTarget_moves b v).eligible]
  omega

theorem State.eligibleTargets_of_zero {s : State} (h : ∀ b, s.eligible b = true → s.target b = 0) :
    s.eligibleTargets = 0 := by
  rw [State.eligibleTargets_eq]
  refine Finset.sum_eq_zero fun b _ => ?_
  split
  next hb => exact h b hb
  next => rfl

/-- A sum over the bays that pass a test, as the sum over all bays that counts the others as 0. -/
theorem sum_map_filter (p : BayNo → Bool) (f : BayNo → Nat) (l : List BayNo) :
    ((l.filter p).map f).sum = (l.map (fun b => if p b then f b else 0)).sum := by
  induction l with
  | nil => rfl
  | cons b bs ih => cases h : p b <;> simp [h, ih]

/-- R100: the stranded exposure is that of the bays that are not eligible. -/
theorem State.stranded_eq (s : State) :
    s.stranded = (((List.finRange 24).filter (fun b => !s.eligible b)).map s.exposure).sum := by
  rw [sum_map_filter]
  unfold State.stranded allBays
  exact congrArg (fun f => ((List.finRange 24).map f).sum) (funext fun b => by cases s.eligible b <;> rfl)

/-! ### The trim (R105, R106) -/

/-- R106: a bay that is trimmed loses power. -/
theorem trimmedTarget_lt {target excess : Nat} (postMin : Nat) (ht : target ≠ 0) (he : 0 < excess) :
    trimmedTarget target excess postMin < target := by
  unfold trimmedTarget
  split <;> omega

theorem trimmedTarget_eq (target excess postMin : Nat) : trimmedTarget target excess postMin =
    if postMin ≤ target - excess ∧ excess ≤ target then target - excess else 0 :=
  if_congr (by omega) rfl rfl

theorem State.trimBay_of_done {s : State} {b : BayNo} (h : s.eligibleTargets ≤ s.available ∨ s.target b = 0) :
    s.trimBay b = s := if_pos h

theorem State.trimBay_of_excess {s : State} {b : BayNo} (h : ¬ (s.eligibleTargets ≤ s.available ∨ s.target b = 0)) :
    s.trimBay b = s.setTarget b (trimmedTarget (s.target b) (s.eligibleTargets - s.available) s.cfg.postMin) := if_neg h

/-- R106: one bay of the trim, as the statements write it. -/
theorem State.trimBay_eq (s : State) (b : BayNo) : s.trimBay b =
    if s.eligibleTargets ≤ s.available ∨ s.target b = 0 then s
    else (s.withTarget b (if s.cfg.postMin ≤ s.target b - (s.eligibleTargets - s.available) ∧
      s.eligibleTargets - s.available ≤ s.target b then s.target b - (s.eligibleTargets - s.available) else 0)).reconcile
        b := by
  rw [← trimmedTarget_eq]
  split
  next h => exact State.trimBay_of_done h
  next h =>
    have hlt := trimmedTarget_lt (excess := s.eligibleTargets - s.available) s.cfg.postMin (fun e => h (.inr e)) (by omega)
    rw [State.trimBay_of_excess h]
    exact State.setTarget_of_ne hlt.ne'

theorem State.trimCheck_eq (s : State) : s.trimCheck = s.alloc.ranking.reverse.foldl State.trimBay s := rfl

theorem State.target_trimBay_le (s : State) (b c : BayNo) : (s.trimBay c).target b ≤ s.target b := by
  by_cases h : s.eligibleTargets ≤ s.available ∨ s.target c = 0
  · rw [State.trimBay_of_done h]
  · rw [State.trimBay_of_excess h]
    by_cases hb : b = c
    · subst hb
      rw [State.target_setTarget]
      exact (trimmedTarget_lt s.cfg.postMin (fun e => h (.inr e)) (by omega)).le
    · rw [State.target_setTarget_ne s _ hb]

theorem State.target_foldl_trimBay_le (l : List BayNo) (s : State) (b : BayNo) :
    (l.foldl State.trimBay s).target b ≤ s.target b := by
  induction l generalizing s with
  | nil => exact Nat.le_refl _
  | cons c cs ih =>
    rw [List.foldl_cons]
    exact (ih (s.trimBay c)).trans (s.target_trimBay_le b c)

theorem State.target_trimBay_ne (s : State) {b c : BayNo} (h : b ≠ c) : (s.trimBay c).target b = s.target b := by
  unfold State.trimBay
  split
  · rfl
  · exact State.target_setTarget_ne s _ h

theorem State.target_foldl_trimBay_of_not_mem {l : List BayNo} {b : BayNo} (h : b ∉ l) (s : State) :
    (l.foldl State.trimBay s).target b = s.target b := by
  induction l generalizing s with
  | nil => rfl
  | cons c cs ih =>
    obtain ⟨hc, hcs⟩ := List.ne_and_not_mem_of_not_mem_cons h
    rw [List.foldl_cons, ih hcs, State.target_trimBay_ne s hc]

theorem State.foldl_trimBay_of_fits {s : State} (h : s.eligibleTargets ≤ s.available) (l : List BayNo) :
    l.foldl State.trimBay s = s := List.foldl_fixed' (fun _ => State.trimBay_of_done (.inl h)) l

/-- R106: once an eligible bay has been trimmed, the targets fit or it has none left. -/
theorem State.trimBay_fits_or_zero {s : State} {b : BayNo} (hb : s.eligible b = true) :
    (s.trimBay b).eligibleTargets ≤ (s.trimBay b).available ∨ (s.trimBay b).target b = 0 := by
  by_cases h : s.eligibleTargets ≤ s.available ∨ s.target b = 0
  · rw [State.trimBay_of_done h]
    exact h
  · have hsum := State.eligibleTargets_setTarget hb
      (trimmedTarget (s.target b) (s.eligibleTargets - s.available) s.cfg.postMin)
    rw [(s.trimBay_moves b).available, State.trimBay_of_excess h, State.target_setTarget]
    by_cases hpost : s.cfg.postMin + (s.eligibleTargets - s.available) ≤ s.target b
    · rw [trimmedTarget, if_pos hpost] at hsum ⊢
      left
      omega
    · exact .inr (if_neg hpost)

/-- R106: after a trim along a list of bays the targets fit, or no eligible bay of the list has any left. -/
theorem State.foldl_trimBay_fits_or_zero (l : List BayNo) (s : State) :
    (l.foldl State.trimBay s).eligibleTargets ≤ (l.foldl State.trimBay s).available ∨
      ∀ b ∈ l, s.eligible b = true → (l.foldl State.trimBay s).target b = 0 := by
  induction l generalizing s with
  | nil => exact .inr fun b hb => absurd hb List.not_mem_nil
  | cons c cs ih =>
    rw [List.foldl_cons]
    by_cases hfits : (s.trimBay c).eligibleTargets ≤ (s.trimBay c).available
    · rw [State.foldl_trimBay_of_fits hfits]
      exact .inl hfits
    · refine (ih (s.trimBay c)).imp_right fun hzero b hb he => ?_
      rcases List.mem_cons.mp hb with rfl | hb
      · have hb0 := (State.trimBay_fits_or_zero he).resolve_left hfits
        exact Nat.le_zero.mp (hb0 ▸ State.target_foldl_trimBay_le cs (s.trimBay b) b)
      · exact hzero b hb (((s.trimBay_moves c).eligible b).trans he)

theorem State.target_trimCheck_of_not_mem {s : State} {b : BayNo} (h : b ∉ s.alloc.ranking) :
    s.trimCheck.target b = s.target b :=
  State.target_foldl_trimBay_of_not_mem (fun hb => h (List.mem_reverse.mp hb)) s

/-- R105: the first law holds after a trim, where the ranking names every eligible bay with a target. -/
theorem State.trimCheck_fits {s : State} (h : ∀ b, s.eligible b = true → 0 < s.target b → b ∈ s.alloc.ranking) :
    s.trimCheck.eligibleTargets ≤ s.trimCheck.available := by
  refine (State.foldl_trimBay_fits_or_zero s.alloc.ranking.reverse s).elim id fun hzero => ?_
  rw [State.eligibleTargets_of_zero fun b hb => ?_]
  · exact Nat.zero_le _
  · have he : s.eligible b = true := ((s.trimCheck_moves.eligible b).symm).trans hb
    by_cases hr : b ∈ s.alloc.ranking
    · exact hzero b (List.mem_reverse.mpr hr) he
    · rw [State.target_trimCheck_of_not_mem hr]
      exact Nat.eq_zero_of_not_pos fun hpos => hr (h b he hpos)

/-- Settles O44: the trim bay by bay, the sums over the bays, the recomputation as it stands, and what a trim keeps. -/
theorem ceilingFallTrimsTargets : Obligations.CeilingFallTrimsTargets := by
  unfold Obligations.CeilingFallTrimsTargets
  refine ⟨⟨fun s => ?_, fun b s => ⟨rfl, rfl⟩⟩, fun s => ⟨s.stranded_eq, rfl, (sum_map_filter _ _ _).symm⟩,
    fun s => rfl, fun s => ⟨fun h => State.foldl_trimBay_of_fits h _, State.trimCheck_fits,
      s.target_foldl_trimBay_le _, fun b hb => State.target_trimCheck_of_not_mem hb, s.trimCheck_moves.lineBay,
      s.trimCheck_moves.shares⟩⟩
  have hstep := funext fun t => funext fun b => State.trimBay_eq t b
  rw [State.trimCheck_eq, hstep]
  rfl

end Sys2Proof.Machine
end

section
/-! PROOFS. The requests of the site: O45, O46. -/

namespace Sys2Proof.Machine

/-! ### SetCeiling (O45) -/

/-- R178: a quantity of two bytes is spelt by the bytes it was read from. -/
theorem be16_val16 (a b : Byte) : be16 (val16 a b) = [a, b] := by
  unfold be16 val16 byte
  congr 1
  · bv_omega
  · congr 1
    bv_omega

theorem setCeiling_served {r : Req} {c1 c0 : Byte} {s : State} (ht : s.takes r.port = true) (hp : r.port = .site)
    (hb : r.body = [c1, c0]) : exec (.setCeiling r) s = .next ((setCeilingOwner [c1, c0] s).1.answered r 0x12
      (setCeilingOwner [c1, c0] s).2.status (setCeilingOwner [c1, c0] s).2.body) := by
  change Host.Outcome.next (s.serve r 0x12 siteOnly setCeilingOwner) = _
  rw [State.serve_permitted ht (by rw [hp]; rfl), hb]

theorem setCeilingOwner_of_ok {c1 c0 : Byte} (s : State) (h : val16 c1 c0 ≤ 2000) : setCeilingOwner [c1, c0] s =
    ((s.setCeiling (val16 c1 c0)).settle,
      .done ([c1, c0] ++ be16 (s.setCeiling (val16 c1 c0)).feeder.effective)) := by
  unfold setCeilingOwner
  dsimp only
  rw [if_pos h, be16_val16]

theorem setCeilingOwner_of_high {c1 c0 : Byte} (s : State) (h : 2000 < val16 c1 c0) :
    setCeilingOwner [c1, c0] s = (s, .refuse .badValue) := if_neg (by omega)

/-! ### ReportMeter (O45) -/

theorem reportMeter_served {r : Req} {l1 l0 : Byte} {s : State} (ht : s.takes r.port = true) (hp : r.port = .site)
    (hb : r.body = [l1, l0]) : exec (.reportMeter r) s = .next ((reportMeterOwner [l1, l0] s).1.answered r 0x13
      (reportMeterOwner [l1, l0] s).2.status (reportMeterOwner [l1, l0] s).2.body) := by
  change Host.Outcome.next (s.serve r 0x13 siteOnly reportMeterOwner) = _
  rw [State.serve_permitted ht (by rw [hp]; rfl), hb]

theorem reportMeterOwner_of_ok {l1 l0 : Byte} (s : State) (h : val16 l1 l0 ≤ 4000) : reportMeterOwner [l1, l0] s =
    ((s.reportMeter (val16 l1 l0)).settle, .done ([l1, l0] ++ [(s.reportMeter (val16 l1 l0)).feederFlagsA] ++
      be16 (s.reportMeter (val16 l1 l0)).feeder.effective)) := by
  unfold reportMeterOwner
  dsimp only
  rw [if_pos h, be16_val16]

theorem reportMeterOwner_of_high {l1 l0 : Byte} (s : State) (h : 4000 < val16 l1 l0) :
    reportMeterOwner [l1, l0] s = (s, .refuse .badValue) := if_neg (by omega)

/-- R65: the arrival of a report leaves the settings. -/
theorem State.meterArrives_store (s : State) (load : Nat) : (s.meterArrives load).store = s.store := by
  unfold State.meterArrives
  dsimp only
  split
  · exact State.append_store _ _ _ _
  · rfl

/-- R65: the arrival of a report changes the Feeder unit in the load, the staleness and its timer. -/
theorem State.meterArrives_feeder (s : State) (load : Nat) : (s.meterArrives load).feeder =
    { s.feeder with load := load, stale := false, staleTimer := some (s.elapsed + 30000) } := by
  unfold State.meterArrives
  dsimp only
  split
  · exact (State.append_feeder _ _ _ _).1
  · rfl

theorem State.flagEvent_store (s : State) (k : EventKind) (old new : Bool) : (s.flagEvent k old new).store = s.store := by
  unfold State.flagEvent
  split
  · rfl
  · exact State.append_store _ _ _ _

theorem State.evaluateMeter_store (s : State) (load : Nat) : (s.evaluateMeter load).store = s.store := by
  unfold State.evaluateMeter
  rw [State.flagEvent_store, State.flagEvent_store]

/-- R68: a flag's event, as the statements write it. -/
theorem State.flagEvent_eq (s : State) (k : EventKind) (old new : Bool) : s.flagEvent k old new =
    if new = old then s else s.append k none (if new then .raised else .cleared) :=
  if_congr eq_comm rfl rfl

/-- R67, R68: conditions and flags are judged by what they were before the report. -/
theorem State.evaluateMeter_arrived (s : State) (load : Nat) :
    let warn := conditionAfter s.feeder.warnCond load s.cfg.warnThreshold s.cfg.hysteresis
    let alarm := conditionAfter s.feeder.alarmCond load s.cfg.alarmThreshold s.cfg.hysteresis
    let warnFlag := flagAfter s.cfg.warnLatch warn s.feeder.warnFlag
    let alarmFlag := flagAfter s.cfg.alarmLatch alarm s.feeder.alarmFlag
    let back := s.meterArrives load
    let judged := { back with feeder := { back.feeder with
      warnCond := warn, alarmCond := alarm, warnFlag := warnFlag, alarmFlag := alarmFlag } }
    back.evaluateMeter load =
      (State.flagEvent judged .feederWarn s.feeder.warnFlag warnFlag).flagEvent .feederAlarm s.feeder.alarmFlag
        alarmFlag := by
  have hcfg : (s.meterArrives load).cfg = s.cfg := congrArg Store.working (s.meterArrives_store load)
  unfold State.evaluateMeter
  simp only [hcfg, s.meterArrives_feeder load]

/-- R70: the cut is what the load has above the alarm threshold. -/
theorem cut_eq (load threshold : Nat) : load - threshold = if threshold < load then load - threshold else 0 := by
  split <;> omega

/-- Settles O45: each request by its limit; a report by its arrival, its judgement and its cut. -/
theorem siteReportsAct : Obligations.SiteReportsAct := by
  unfold Obligations.SiteReportsAct
  refine ⟨fun s => bitsOf_flagByte .., fun r c1 c0 s ht hp hb => ⟨fun h => ?_, fun h => ?_⟩,
    fun r l1 l0 s ht hp hb => ⟨fun h => ?_, fun h => ?_⟩⟩
  · rw [setCeiling_served ht hp hb, setCeilingOwner_of_high s h]
    rfl
  · rw [setCeiling_served ht hp hb, setCeilingOwner_of_ok s h]
    rfl
  · rw [reportMeter_served ht hp hb, reportMeterOwner_of_high s h]
    rfl
  · intro load inForce warn alarm warnFlag alarmFlag fresh back judged warned alarmed t
    have heval : (s.meterArrives load).evaluateMeter load = alarmed := by
      rw [State.evaluateMeter_arrived, State.flagEvent_eq, State.flagEvent_eq]
      rfl
    have hcfg : ((s.meterArrives load).evaluateMeter load).cfg = s.cfg :=
      congrArg Store.working ((State.evaluateMeter_store _ load).trans (s.meterArrives_store load))
    have hreport : s.reportMeter load = t := by
      unfold State.reportMeter State.recomputeCut
      rw [hcfg, heval, cut_eq]
    rw [reportMeter_served ht hp hb, reportMeterOwner_of_ok s h]
    change Host.Outcome.next (State.answered (s.reportMeter load).settle r 0x13 .done
      ([l1, l0] ++ [(s.reportMeter load).feederFlagsA] ++ be16 (s.reportMeter load).feeder.effective)) = _
    rw [hreport]

/-! ### The current band (R71) -/

theorem State.band_of_unset {s : State} (h : s.now? = none) : s.band = .normal := by
  unfold State.band
  rw [h]

theorem State.band_of_uncovered {s : State} {now : Nat} (h : s.now? = some now)
    (hw : ∀ w ∈ s.feeder.tariff, ¬ (w.start ≤ now ∧ now < w.stop)) : s.band = .normal := by
  have hnone : s.feeder.tariff.find? (fun w => w.start ≤ now && now < w.stop) = none :=
    List.find?_eq_none.mpr fun w hmem => by simpa using hw w hmem
  unfold State.band
  simp only [h, hnone]

/-- R71: no two windows of a list in order cover one moment. -/
theorem State.window_unique {s : State} (h : s.tariffInOrder) {now : Nat} {v w : Window} (hv : v ∈ s.feeder.tariff)
    (hw : w ∈ s.feeder.tariff) (cv : v.start ≤ now ∧ now < v.stop) (cw : w.start ≤ now ∧ now < w.stop) : v = w := by
  have hsymm : Std.Symm (fun v w : Window => v.stop ≤ w.start ∨ w.stop ≤ v.start) := ⟨fun _ _ => Or.symm⟩
  by_contra hne
  have hapart := (h.2.imp (S := fun v w => v.stop ≤ w.start ∨ w.stop ≤ v.start) .inl).forall hv hw hne
  omega

theorem State.band_of_covered {s : State} {now : Nat} {w : Window} (h : s.now? = some now) (ho : s.tariffInOrder)
    (hw : w ∈ s.feeder.tariff) (cw : w.start ≤ now ∧ now < w.stop) : s.band = w.band := by
  unfold State.band
  simp only [h]
  split
  next v hv =>
    have cv : v.start ≤ now ∧ now < v.stop := by simpa using List.find?_some hv
    rw [State.window_unique ho (List.mem_of_find?_eq_some hv) hw cv cw]
  next hnone =>
    have hnot := List.find?_eq_none.mp hnone w hw
    simp [cw] at hnot

/-! ### SetTariff (R72) -/

/-- R178: a quantity below 2^32 is spelt by its four bytes. -/
theorem val32_be32 {n : Nat} (h : n < 4294967296) :
    val32 (byte (n / 16777216)) (byte (n / 65536)) (byte (n / 256)) (byte n) = n := by
  simp only [val32, byte, BitVec.toNat_ofNat]
  omega

/-- R72: what a window of a SetTariff must be, apart from the other windows. -/
def Window.accepted (w : Window) : Prop := w.band ≠ .normal ∧ w.start < w.stop

/-- R178: what a SetTariff reads from the bytes of a window. -/
theorem window?_bytes {w : Window} (h1 : w.start < 4294967296) (h2 : w.stop < 4294967296) (v : Window) :
    window? w.bytes = some v ↔ v = w ∧ w.accepted := by
  unfold window? Window.bytes be32
  simp only [List.cons_append, List.nil_append, val32_be32 h1, val32_be32 h2]
  obtain ⟨start, stop, band⟩ := w
  cases band with
  | normal => simp [windowBand?, byte, Band.code, Window.accepted]
  | low | peak => simp [windowBand?, byte, Band.code, Window.accepted, eq_comm, and_comm]

/-- R178: what a SetTariff reads from its body, window by window. -/
theorem windows?_bytes {ws : List Window} (h : ∀ w ∈ ws, w.start < 4294967296 ∧ w.stop < 4294967296) (vs : List Window) :
    windows? ws.length (ws.flatMap Window.bytes) = some vs ↔ vs = ws ∧ ∀ w ∈ ws, w.accepted := by
  induction ws generalizing vs with
  | nil => simp [windows?, eq_comm]
  | cons w ws ih =>
    obtain ⟨⟨h1, h2⟩, hws⟩ := List.forall_mem_cons.mp h
    have htake : (w.bytes ++ ws.flatMap Window.bytes).take 9 = w.bytes := List.take_left' rfl
    have hdrop : (w.bytes ++ ws.flatMap Window.bytes).drop 9 = ws.flatMap Window.bytes := List.drop_left' rfl
    rw [List.flatMap_cons, List.length_cons, List.forall_mem_cons]
    unfold windows?
    rw [htake, hdrop]
    split
    next v us hv hus =>
      obtain ⟨rfl, hw⟩ := (window?_bytes h1 h2 v).mp hv
      obtain ⟨rfl, hall⟩ := (ih hws us).mp hus
      exact ⟨fun e => ⟨(Option.some.inj e).symm, hw, hall⟩, fun e => by rw [e.1]⟩
    next hnone =>
      refine ⟨fun e => absurd e (by simp), fun e => ?_⟩
      obtain ⟨-, hw, hall⟩ := e
      exact absurd ((ih hws ws).mpr ⟨rfl, hall⟩) (hnone w ws ((window?_bytes h1 h2 w).mpr ⟨rfl, hw⟩))

theorem Window.not_overlaps_iff (v w : Window) : (!v.overlaps w) = true ↔ v.stop ≤ w.start ∨ w.stop ≤ v.start := by
  simp only [Window.overlaps, Bool.not_and, Bool.or_eq_true, Bool.not_eq_true', decide_eq_false_iff_not, not_lt]
  exact or_comm

theorem noOverlap_iff (ws : List Window) :
    noOverlap ws = true ↔ ws.Pairwise (fun v w => v.stop ≤ w.start ∨ w.stop ≤ v.start) := by
  induction ws with
  | nil => simp [noOverlap]
  | cons w ws ih =>
    simp only [noOverlap, Bool.and_eq_true, List.all_eq_true, Window.not_overlaps_iff, ih, List.pairwise_cons]

/-- R71, R72: accepted windows without an overlap are sorted into strictly ascending starts. -/
theorem sortWindows_ascending {ws : List Window} (hw : ∀ w ∈ ws, w.start < w.stop) (ho : noOverlap ws = true) :
    (sortWindows ws).Pairwise (fun v w => v.start < w.start) := by
  refine (sortWindows_ordered hw ho).imp_of_mem fun {v w} hv _ hle => ?_
  have := hw v ((sortWindows_perm ws).mem_iff.mp hv)
  omega

theorem setTariff_served {r : Req} {s : State} (ht : s.takes r.port = true) (hp : r.port = .site) :
    exec (.setTariff r) s = .next ((setTariffOwner r.body s).1.answered r 0x14
      (setTariffOwner r.body s).2.status (setTariffOwner r.body s).2.body) := by
  change Host.Outcome.next (s.serve r 0x14 siteOnly setTariffOwner) = _
  rw [State.serve_permitted ht (by rw [hp]; rfl)]

theorem setTariffOwner_of_many {n : Byte} (rest : List Byte) (s : State) (h : 8 < n.toNat) :
    setTariffOwner (n :: rest) s = (s, .refuse .badValue) := if_neg (by omega)

/-- R178: the count of at most eight windows is the byte it is sent in. -/
theorem byte_count {ws : List Window} (h : ws.length ≤ 8) : (byte ws.length).toNat = ws.length := by
  rw [byte, BitVec.toNat_ofNat]
  omega

/-- R72: what becomes of the windows that a body spells. -/
theorem setTariffOwner_of_windows {ws vs : List Window} (s : State) (h : ws.length ≤ 8)
    (hvs : windows? ws.length (ws.flatMap Window.bytes) = some vs) :
    setTariffOwner (byte ws.length :: ws.flatMap Window.bytes) s =
      if noOverlap vs then (s.setTariff vs, .done [byte ws.length]) else (s, .refuse .badValue) := by
  unfold setTariffOwner
  simp only [byte_count h, length_windows, h, true_and, if_true, hvs]

theorem setTariffOwner_of_no_windows {ws : List Window} (s : State) (h : ws.length ≤ 8)
    (hvs : windows? ws.length (ws.flatMap Window.bytes) = none) :
    setTariffOwner (byte ws.length :: ws.flatMap Window.bytes) s = (s, .refuse .badValue) := by
  unfold setTariffOwner
  simp only [byte_count h, length_windows, h, true_and, if_true, hvs]

/-- Settles O46: the band by the windows that cover now, the request by what its bytes spell. -/
theorem setTariffReplacesTheList : Obligations.SetTariffReplacesTheList := by
  unfold Obligations.SetTariffReplacesTheList
  refine ⟨fun s => ⟨State.band_of_unset, fun now hnow => ⟨State.band_of_uncovered hnow,
    fun ho w hw h1 h2 => State.band_of_covered hnow ho hw ⟨h1, h2⟩⟩⟩, fun r n rest s ht hp hb hn => ?_, ?_⟩
  · rw [setTariff_served ht hp, hb, setTariffOwner_of_many rest s hn]
    rfl
  · intro r ws s ht hp hlen hrange hb passes
    rw [setTariff_served ht hp, hb]
    refine ⟨fun hno => ?_, fun ⟨hok, hapart⟩ => ⟨sortWindows ws, sortWindows_perm ws, ?_, ?_⟩⟩
    · cases hvs : windows? ws.length (ws.flatMap Window.bytes) with
      | none =>
        rw [setTariffOwner_of_no_windows s hlen hvs]
        rfl
      | some vs =>
        obtain ⟨rfl, hok⟩ := (windows?_bytes hrange vs).mp hvs
        rw [setTariffOwner_of_windows s hlen hvs, if_neg fun ho => hno ⟨hok, (noOverlap_iff vs).mp ho⟩]
        rfl
    · exact sortWindows_ascending (fun w hw => (hok w hw).2) ((noOverlap_iff ws).mpr hapart)
    · rw [setTariffOwner_of_windows s hlen ((windows?_bytes hrange ws).mpr ⟨rfl, hok⟩),
        if_pos ((noOverlap_iff ws).mpr hapart)]
      rfl

end Sys2Proof.Machine
end

section
/-! PROOFS. The hold of the depot and the latches: O47, O48. -/

namespace Sys2Proof.Machine

/-! ### A depot that runs goes on running -/

/-- No step from one state to the other ends Running: only a HoldDepot does (R75). -/
structure KeepsRunning (s t : State) : Prop where
  hold : s.feeder.hold = .running → t.feeder.hold = .running

theorem KeepsRunning.refl (s : State) : KeepsRunning s s := ⟨id⟩

theorem KeepsRunning.trans {s t u : State} (h : KeepsRunning s t) (k : KeepsRunning t u) : KeepsRunning s u :=
  ⟨fun e => k.hold (h.hold e)⟩

theorem KeepsRunning.of_feeder {s t : State} (h : t.feeder = s.feeder) : KeepsRunning s t := ⟨fun e => by rw [h, e]⟩

/-- What follows an update that leaves the Feeder unit alone. -/
theorem KeepsRunning.after {s t u : State} (k : KeepsRunning t u) (h : t.feeder = s.feeder) : KeepsRunning s u :=
  (KeepsRunning.of_feeder h).trans k

theorem KeepsRunning.foldl {α : Type} {f : State → α → State} (h : ∀ s x, KeepsRunning s (f s x)) (l : List α)
    (s : State) : KeepsRunning s (l.foldl f s) := by
  induction l generalizing s with
  | nil => exact .refl s
  | cons x xs ih => exact (h s x).trans (ih (f s x))

theorem State.append_running (s : State) (k : EventKind) (x : Option Subject) (e : Edge) :
    KeepsRunning s (s.append k x e) := .of_feeder (s.append_feeder k x e).1

/-- R76: the Held condition is no matter of a depot that runs. -/
theorem State.heldCheck_of_running {s : State} (h : s.feeder.hold = .running) : s.heldCheck = s := by
  simp only [State.heldCheck, h]

theorem State.noteExposure_running (s : State) (b : BayNo) (before : Nat) : KeepsRunning s (s.noteExposure b before) := by
  refine ⟨fun h => ?_⟩
  unfold State.noteExposure
  dsimp only
  rw [State.heldCheck_of_running h]
  split
  · exact h
  · split
    · rw [s.trimCheck_feeder.1, h]
    · exact h

/-! #### A selection (R134) -/

theorem State.start_running (s : State) (b : BayNo) (x : Exchange) : KeepsRunning s (s.start b x) :=
  (State.noteExposure_running _ b _).after rfl

theorem State.startPending_running (s : State) (b : BayNo) (v : Nat) : KeepsRunning s (s.startPending b v) :=
  (State.start_running _ b _).after rfl

theorem State.serveRetry_running (s : State) : KeepsRunning s s.serveRetry := by
  unfold State.serveRetry
  split
  · split <;> exact .of_feeder rfl
  · exact .refl s

theorem State.serveDecrease_running (s : State) : KeepsRunning s s.serveDecrease := by
  unfold State.serveDecrease
  split
  · split
    · exact s.startPending_running _ _
    · exact .refl s
  · exact .refl s

theorem State.serveItem_running (s : State) (i : ServiceItem) : KeepsRunning s (s.serveItem i) := by
  unfold State.serveItem
  split
  · exact .refl s
  · split
    · split
      · split
        · exact (State.start_running _ _ _).after rfl
        · exact .of_feeder rfl
      · exact .refl s
    · split
      · split
        · exact (State.start_running _ _ _).after rfl
        · exact .refl s
      · exact .refl s

theorem State.serveIncrease_running (s : State) : KeepsRunning s s.serveIncrease := by
  unfold State.serveIncrease
  split
  · split
    · exact s.startPending_running _ _
    · exact .refl s
  · exact .refl s

theorem State.serveKeepAlive_running (s : State) : KeepsRunning s s.serveKeepAlive := by
  unfold State.serveKeepAlive
  split
  · exact s.start_running _ _
  · exact .refl s

theorem State.serveProbe_running (s : State) : KeepsRunning s s.serveProbe := by
  unfold State.serveProbe
  split
  · split
    · exact (State.start_running _ _ _).after rfl
    · exact .refl s
  · exact .refl s

theorem State.servePoll_running (s : State) : KeepsRunning s s.servePoll := by
  unfold State.servePoll
  split
  · exact (State.start_running _ _ _).after rfl
  · exact (State.serveProbe_running _).after rfl

theorem State.ifFree_running (s : State) {f : State → State} (h : ∀ t, KeepsRunning t (f t)) :
    KeepsRunning s (s.ifFree f) := by
  unfold State.ifFree
  split
  · exact .refl s
  · exact h s

theorem State.settle_running (s : State) : KeepsRunning s s.settle :=
  s.ifFree_running fun t => ((((((t.ifFree_running State.serveRetry_running).trans
    (State.ifFree_running _ State.serveDecrease_running)).trans
    (State.ifFree_running _ fun u => .foldl State.serveItem_running _ u)).trans
    (State.ifFree_running _ State.serveIncrease_running)).trans (State.ifFree_running _ State.serveKeepAlive_running)).trans
    (State.ifFree_running _ State.serveProbe_running)).trans (State.ifFree_running _ State.servePoll_running)

/-! #### A round (R87) -/

theorem State.enterLog_running (s : State) (o : Order) : KeepsRunning s (s.enterLog o) := by
  unfold State.enterLog
  split <;> exact .of_feeder rfl

theorem State.closeOrder_running (s : State) (tag : Nat) (out : CloseOutcome) : KeepsRunning s (s.closeOrder tag out) := by
  unfold State.closeOrder
  split
  · exact .refl s
  · exact ((State.append_running _ _ _ _).trans (State.enterLog_running _ _)).after rfl

theorem State.clearDormantDeferred_running (s : State) : KeepsRunning s s.clearDormantDeferred := by
  refine .foldl (fun t x => ?_) _ s
  exact .of_feeder rfl

theorem State.changePhase_running (s : State) (now : Nat) (x : BayNo × Nat) : KeepsRunning s (s.changePhase now x) := by
  unfold State.changePhase
  split
  · exact .refl s
  · split
    · exact .refl s
    · dsimp only
      split
      · exact (State.append_running _ _ _ _).after rfl
      · exact .of_feeder rfl

theorem State.storeCaps_running (s : State) : KeepsRunning s s.storeCaps := by
  refine .foldl (fun t b => ?_) _ s
  split
  · split <;> exact .of_feeder rfl
  · exact .refl t

theorem State.setAtRisk_running (s : State) (now : Nat) (x : BayNo × Nat) : KeepsRunning s (s.setAtRisk now x) := by
  unfold State.setAtRisk
  split
  · exact .refl s
  · dsimp only
    split
    · exact .refl s
    · exact (State.append_running _ _ _ _).after rfl

theorem State.wakeDecision_running (s : State) (now : Nat) (x : BayNo × Nat) : KeepsRunning s (s.wakeDecision now x) := by
  unfold State.wakeDecision
  split
  · exact .refl s
  · split
    · split
      · split
        · exact .refl s
        · exact (State.append_running _ _ _ _).after rfl
      · split <;> exact .of_feeder rfl
    · exact .refl s

theorem State.setDeferred_running (s : State) (now : Nat) : KeepsRunning s (s.setDeferred now) := by
  refine .foldl (fun t x => ?_) _ s
  split <;> exact .of_feeder rfl

theorem State.reconcile_feeder (s : State) (b : BayNo) : (s.reconcile b).feeder = s.feeder := by
  have hsame := congrArg State.feeder (s.reconcile_moves b).shares
  exact hsame

theorem State.roundResult_running (s : State) (ranking : List BayNo) (grants : List (BayNo × Nat)) :
    KeepsRunning s (s.roundResult ranking grants) := by
  unfold State.roundResult
  refine KeepsRunning.after (.foldl (fun t b => ?_) _ _) rfl
  split
  · exact .refl t
  · exact .of_feeder (t.reconcile_feeder b)

/-- R73, R87: a round touches the Feeder unit in its tariff windows alone. -/
theorem State.roundAt_running (s : State) (now : Nat) : KeepsRunning s (s.roundAt now) := by
  have hclosed : KeepsRunning s ((s.closeMissed now).dropWindows now) :=
    KeepsRunning.trans (t := s.closeMissed now) (.foldl (fun t tag => t.closeOrder_running tag .missed) _ s) ⟨id⟩
  have hphases : ∀ t : State, KeepsRunning t (t.changePhases now) :=
    fun t => .foldl (fun u x => u.changePhase_running now x) _ t
  have hrisks : ∀ t : State, KeepsRunning t (t.setAtRisks now) := fun t => .foldl (fun u x => u.setAtRisk_running now x) _ t
  have hwakes : ∀ t : State, KeepsRunning t (t.wakeDecisions now) :=
    fun t => .foldl (fun u x => u.wakeDecision_running now x) _ t
  exact ((((((hclosed.trans (State.clearDormantDeferred_running _)).trans (hphases _)).trans
    (State.storeCaps_running _)).trans (hrisks _)).trans (hwakes _)).trans (State.setDeferred_running _ now)).trans
    (State.roundResult_running _ _ _)

theorem State.round_running (s : State) : KeepsRunning s s.round := by
  unfold State.round
  split
  · exact s.roundAt_running _
  · exact .refl s

/-! ### The Held condition (O47) -/

theorem State.heldCondition_iff (s : State) :
    s.heldCondition = true ↔ ∀ b, (s.bay b).state ≠ .faulted → s.exposure b = 0 := by
  simp [State.heldCondition, allBays, Classical.or_iff_not_imp_left]

/-- R76: a quiet depot that drains is held. -/
theorem State.heldCheck_of_drained {s : State} (h : s.feeder.hold = .draining) (hq : s.heldCondition = true) :
    s.heldCheck = State.append { s with feeder := { s.feeder with hold := .held } } .holdReached none .raised := by
  simp only [State.heldCheck, h, hq]

theorem State.heldCheck_of_draining {s : State} (h : s.feeder.hold = .draining) (hq : ¬ s.heldCondition = true) :
    s.heldCheck = s := by
  simp only [State.heldCheck, h, Bool.eq_false_of_not_eq_true hq]

/-- R76: a depot that is held and no longer quiet drains again. -/
theorem State.heldCheck_of_disturbed {s : State} (h : s.feeder.hold = .held) (hq : ¬ s.heldCondition = true) :
    s.heldCheck = { s with feeder := { s.feeder with hold := .draining } } := by
  simp only [State.heldCheck, h, Bool.eq_false_of_not_eq_true hq]

theorem State.heldCheck_of_held {s : State} (h : s.feeder.hold = .held) (hq : s.heldCondition = true) :
    s.heldCheck = s := by
  simp only [State.heldCheck, h, hq]

/-! ### HoldDepot and ResumeDepot (O47) -/

theorem holdDepot_served {r : Req} {s : State} (ht : s.takes r.port = true) (hp : r.port = .service) (hb : r.body = []) :
    exec (.holdDepot r) s = .next (s.holdDepot.answered r 0x15 .done [byte s.holdDepot.feeder.hold.code]) := by
  change Host.Outcome.next (s.serve r 0x15 serviceOnly holdDepotOwner) = _
  rw [State.serve_permitted ht (by rw [hp]; rfl), hb]
  rfl

theorem State.holdDepot_of_running {s : State} (h : s.feeder.hold = .running) : s.holdDepot =
    (State.recomputeCeiling { s with feeder := { s.feeder with hold := .draining } }).heldCheck.settle := if_pos h

theorem State.holdDepot_of_stopped {s : State} (h : s.feeder.hold ≠ .running) : s.holdDepot = s := if_neg h

theorem State.resumeDepot_of_running {s : State} (h : s.feeder.hold = .running) : s.resumeDepot = s := if_pos h

/-- R77: the depot runs again, and with the clock set a round is run and its timer restarted. -/
theorem State.resumeDepot_of_stopped {s : State} (h : s.feeder.hold ≠ .running) :
    let t := State.recomputeCeiling { s with feeder := { s.feeder with hold := .running } }
    s.resumeDepot = (if s.alloc.clock = none then t else t.round.startRoundTimer).settle := by
  have hclock : ∀ t u : State, (if s.alloc.clock.isSome then u else t) = if s.alloc.clock = none then t else u := by
    cases s.alloc.clock <;> exact fun _ _ => rfl
  exact (if_neg h).trans (congrArg State.settle (hclock _ _))

theorem State.recomputeCeiling_running (s : State) : KeepsRunning s s.recomputeCeiling :=
  ⟨fun h => by rw [s.recomputeCeiling_feeder.1, h]⟩

/-- R77: after a ResumeDepot the depot runs. -/
theorem State.resumeDepot_hold (s : State) : s.resumeDepot.feeder.hold = .running := by
  by_cases h : s.feeder.hold = .running
  · rw [State.resumeDepot_of_running h, h]
  · rw [State.resumeDepot_of_stopped h]
    have hopened := (State.recomputeCeiling_running { s with feeder := { s.feeder with hold := .running } }).hold rfl
    refine (State.settle_running _).hold ?_
    split
    · exact hopened
    · exact (State.round_running _).hold hopened

theorem resumeDepot_served {r : Req} {s : State} (ht : s.takes r.port = true) (hp : r.port = .service)
    (hb : r.body = []) : exec (.resumeDepot r) s = .next (s.resumeDepot.answered r 0x16 .done [0]) := by
  change Host.Outcome.next (s.serve r 0x16 serviceOnly resumeDepotOwner) = _
  rw [State.serve_permitted ht (by rw [hp]; rfl), hb]
  change Host.Outcome.next (s.resumeDepot.answered r 0x16 .done [byte s.resumeDepot.feeder.hold.code]) = _
  rw [State.resumeDepot_hold]
  rfl

/-- Settles O47: the requests by whether the depot runs, the Held condition by hold state and quiet. -/
theorem depotHoldsAndResumes : Obligations.DepotHoldsAndResumes := by
  unfold Obligations.DepotHoldsAndResumes
  refine ⟨fun r s ht hp hb => ⟨fun h => ?_, fun h => ?_, fun h => ?_, fun h => ?_⟩, fun s => ?_⟩
  · rw [holdDepot_served ht hp hb, State.holdDepot_of_stopped h]
  · rw [holdDepot_served ht hp hb, State.holdDepot_of_running h]
  · rw [resumeDepot_served ht hp hb, State.resumeDepot_of_running h]
  · rw [resumeDepot_served ht hp hb, State.resumeDepot_of_stopped h]
    rfl
  · intro quiet
    have hquiet : s.heldCondition = true ↔ quiet := s.heldCondition_iff
    rw [← hquiet]
    refine ⟨State.heldCheck_of_drained, State.heldCheck_of_disturbed, ?_⟩
    rintro (h | ⟨h, hq⟩ | ⟨h, hq⟩)
    · exact State.heldCheck_of_running h
    · exact State.heldCheck_of_draining h hq
    · exact State.heldCheck_of_held h hq

/-! ### ClearLatch (O48) -/

/-- A ClearLatch, of the feeder or of an input. -/
theorem clearLatch_served {r : Req} {sel : Byte} {s : State} (ht : s.takes r.port = true) (hp : r.port = .service)
    (hb : r.body = [sel]) : s.serve r 0x17 serviceOnly clearLatchOwner = (clearLatchOwner [sel] s).1.answered r 0x17
      (clearLatchOwner [sel] s).2.status (clearLatchOwner [sel] s).2.body := by
  rw [State.serve_permitted ht (by rw [hp]; rfl), hb]

/-- R69: a flag is cleared where it is set and its condition is not in force. -/
theorem ite_flag_kept (flag cond : Bool) (s t : State) :
    (if flag = (flag && cond) then s else t) = if flag = true ∧ ¬ cond = true then t else s := by
  cases flag <;> cases cond <;> rfl

/-- R178: the selectors from 1 on name the inputs. -/
theorem input?_of_number {sel : Byte} {y : InputNo} (h : sel.toNat = y.val + 1) : input? sel = some y := by
  unfold input?
  rw [dif_pos (by omega)]
  exact congrArg some (Fin.ext (by simp [h]))

theorem input?_of_high {sel : Byte} (h : 6 < sel.toNat) : input? sel = none := dif_neg (by omega)

theorem byte_ne_zero {sel : Byte} (h : 0 < sel.toNat) : sel ≠ 0 := by
  rintro rfl
  exact absurd h (by decide)

theorem clearLatchOwner_of_high {sel : Byte} (s : State) (h : 6 < sel.toNat) :
    clearLatchOwner [sel] s = (s, .refuse .badValue) := by
  simp only [clearLatchOwner, if_neg (byte_ne_zero (sel := sel) (by omega)), input?_of_high h]

/-- R165: a ClearLatch of an input, by whether it is active. -/
theorem clearLatchOwner_of_number {sel : Byte} {y : InputNo} (s : State) (h : sel.toNat = y.val + 1) :
    clearLatchOwner [sel] s = if (s.input y).active then (s, ⟨.wrongState, s.inputBody y⟩)
      else ((s.clearInputLatch y).settle, .done ((s.clearInputLatch y).inputBody y)) := by
  simp only [clearLatchOwner, if_neg (byte_ne_zero (sel := sel) (by omega)), input?_of_number h]

theorem State.roleEvent_inputs (s : State) (role : InputRole) (y : InputNo) (e : Edge) :
    (s.roleEvent role y e).inputs = s.inputs := by
  cases role with
  | event | stop => exact (s.append_feeder _ _ e).2.1
  | derate => rfl

theorem State.handRole_inputs (s : State) (role : InputRole) : (s.handRole role).inputs = s.inputs := by
  cases role with
  | event => rfl
  | stop =>
    simp only [State.handRole, State.handStop]
    split
    · rfl
    · exact (State.recomputeCeiling_feeder _).2.1
  | derate =>
    simp only [State.handRole, State.handDerate]
    split
    · rfl
    · exact (State.recomputeCeiling_feeder _).2.1

/-- R163: acting on a role leaves the inputs. -/
theorem State.actRole_inputs (s : State) (y : InputNo) (e : Edge) : (s.actRole y e).inputs = s.inputs :=
  (State.handRole_inputs _ _).trans (s.roleEvent_inputs _ y e)

theorem State.clearInputLatch_of_latched {s : State} {y : InputNo} (h : (s.input y).latched = true) :
    s.clearInputLatch y = (s.updInput y (fun i => { i with latched := false })).actRole y .cleared := if_pos h

theorem State.clearInputLatch_of_clear {s : State} {y : InputNo} (h : (s.input y).latched = false) :
    s.clearInputLatch y = s := if_neg (by simp [h])

/-- R165: an Inactive input has neither state after its ClearLatch. -/
theorem State.inputBody_clearInputLatch {s : State} {y : InputNo} (h : (s.input y).active = false) :
    (s.clearInputLatch y).inputBody y = [0, 0] := by
  have hinput : (s.clearInputLatch y).input y = { s.input y with latched := false } := by
    cases hl : (s.input y).latched with
    | false =>
      rw [State.clearInputLatch_of_clear hl, ← hl]
    | true =>
      rw [State.clearInputLatch_of_latched hl, State.input, State.actRole_inputs]
      exact s.input_updInput y _
  rw [State.inputBody, hinput, h]
  rfl

/-- Settles O48: the feeder's flags one by one, an input by its selector and its two states. -/
theorem clearLatchActs : Obligations.ClearLatchActs := by
  unfold Obligations.ClearLatchActs
  refine fun r s ht hp => ⟨fun hb => ?_, fun sel hb hsel => ?_, fun sel y hb hsel => ⟨fun ha => ?_, fun ha hl => ?_,
    fun ha hl => ?_⟩⟩
  · intro warn alarm t u v
    have hclear : s.clearFeederLatch = v := by
      unfold State.clearFeederLatch
      dsimp only
      rw [ite_flag_kept, ite_flag_kept]
    change Host.Outcome.next (s.serve r 0x17 serviceOnly clearLatchOwner) = _
    rw [clearLatch_served ht hp hb, ← hclear]
    rfl
  all_goals change Host.Outcome.next (s.serve r 0x17 serviceOnly clearLatchOwner) = _
  · rw [clearLatch_served ht hp hb, clearLatchOwner_of_high s hsel]
    rfl
  · rw [clearLatch_served ht hp hb, clearLatchOwner_of_number s hsel, if_pos ha, State.inputBody, ha]
    rfl
  · rw [clearLatch_served ht hp hb, clearLatchOwner_of_number s hsel, if_neg (by simp [ha]),
      State.inputBody_clearInputLatch ha, State.clearInputLatch_of_clear hl]
    rfl
  · rw [clearLatch_served ht hp hb, clearLatchOwner_of_number s hsel, if_neg (by simp [ha]),
      State.inputBody_clearInputLatch ha, State.clearInputLatch_of_latched hl]
    rfl

end Sys2Proof.Machine
end

section
/-! PROOFS. The demand of a bay and its rounding, the ranking and the walk: O38, O39, O42. -/

namespace Sys2Proof.Machine

/-! ### The demand of a bay (O38) -/

/-- R96: a Charging order that is owed energy and not deferred demands the cap. -/
theorem State.rawDemand_charging {o : Order} (hs : o.state = .charging) (s : State) (b : BayNo) :
    s.rawDemand b o = if s.remaining b o = 0 ∨ o.deferred = true then 0 else s.capOf b o := by
  simp only [State.rawDemand, hs]

/-- R96: a Conditioning order demands the cap, and its heater power once it is owed no energy. -/
theorem State.rawDemand_conditioning {o : Order} (hs : o.state = .conditioning) (s : State) (b : BayNo) :
    s.rawDemand b o = if s.remaining b o = 0 then min (s.capOf b o) (s.heater b o) else s.capOf b o := by
  simp only [State.rawDemand, hs]

/-- R96: a Ready order demands its heater power while conditioning is owed. -/
theorem State.rawDemand_ready {o : Order} (hs : o.state = .ready) (s : State) (b : BayNo) :
    s.rawDemand b o = if o.owes then min (s.capOf b o) (s.heater b o) else 0 := by
  simp only [State.rawDemand, hs]

theorem State.rawDemand_le_capOf (s : State) (b : BayNo) (o : Order) : s.rawDemand b o ≤ s.capOf b o := by
  cases hs : o.state with
  | charging =>
    rw [State.rawDemand_charging hs]
    split <;> omega
  | conditioning =>
    rw [State.rawDemand_conditioning hs]
    split <;> omega
  | ready =>
    rw [State.rawDemand_ready hs]
    split <;> omega
  | waiting | closing | closed => simp only [State.rawDemand, hs, Nat.zero_le]

/-- Settles O38: the phase's own equation, at the branch its conditions take. -/
theorem demandFollowsThePhase : Obligations.DemandFollowsThePhase := by
  unfold Obligations.DemandFollowsThePhase
  refine fun b o s => ⟨fun hs hr hd => ?_, fun hs h => ?_, fun hs hr => ?_, fun hs hr => ?_, fun hs hc hb => ?_,
    fun hs h => ?_, s.rawDemand_le_capOf b o⟩
  · rw [State.rawDemand_charging hs, if_neg (by simp [hd, Nat.ne_of_gt hr])]
  · rw [State.rawDemand_charging hs, if_pos h]
  · rw [State.rawDemand_conditioning hs, if_neg (Nat.ne_of_gt hr)]
  · rw [State.rawDemand_conditioning hs, if_pos hr]
  · rw [State.rawDemand_ready hs, if_pos (o.owes_iff.mpr ⟨hc, hb⟩)]
  · rw [State.rawDemand_ready hs, if_neg]
    intro howes
    obtain ⟨hc, hb⟩ := o.owes_iff.mp howes
    rcases h with h | h
    · exact hc h
    · rw [hb] at h
      cases h

/-! ### The rounding of a demand (O39) -/

theorem roundDemand_zero (cap postMin : Nat) : roundDemand 0 cap postMin = 0 := rfl

/-- R97: a demand below the post minimum is raised to it where the cap reaches it, and dropped otherwise. -/
theorem roundDemand_of_lt {demand postMin : Nat} (h0 : 0 < demand) (h : demand < postMin) (cap : Nat) :
    roundDemand demand cap postMin = if postMin ≤ cap then postMin else 0 := by
  rw [roundDemand, if_neg (Nat.ne_of_gt h0), if_pos h]

theorem roundDemand_of_le {demand postMin : Nat} (h : postMin ≤ demand) (cap : Nat) :
    roundDemand demand cap postMin = demand := by
  unfold roundDemand
  split
  next h0 => exact h0.symm
  next => exact if_neg (Nat.not_lt.mpr h)

/-- R97: a rounded demand stays within a cap that the demand is within. -/
theorem roundDemand_le {demand cap : Nat} (h : demand ≤ cap) (postMin : Nat) : roundDemand demand cap postMin ≤ cap := by
  unfold roundDemand
  split_ifs <;> omega

/-- R97: a rounded demand is none, or reaches the post minimum. -/
theorem roundDemand_zero_or_le (demand cap postMin : Nat) :
    roundDemand demand cap postMin = 0 ∨ postMin ≤ roundDemand demand cap postMin := by
  unfold roundDemand
  split_ifs <;> omega

theorem State.demand_le_capOf (s : State) (b : BayNo) (o : Order) : s.demand b o ≤ s.capOf b o :=
  roundDemand_le (s.rawDemand_le_capOf b o) _

/-- Settles O39: a demand is the rounding of what the phase asks for, so each clause is one of `roundDemand`. -/
theorem postMinimumRoundsDemand : Obligations.PostMinimumRoundsDemand := by
  unfold Obligations.PostMinimumRoundsDemand
  refine ⟨rfl, rfl, fun b o s => ⟨fun h => ?_, fun h0 h hc => ?_, fun h0 h hc => ?_, fun h => roundDemand_of_le h _,
    s.demand_le_capOf b o⟩⟩
  · rw [State.demand, h, roundDemand_zero]
  · rw [State.demand, roundDemand_of_lt h0 h, if_pos hc]
  · rw [State.demand, roundDemand_of_lt h0 h, if_neg (Nat.not_le.mpr hc)]

end Sys2Proof.Machine
end

section
/-! PROOFS. The ranking and the grants of its walk: O42. -/

namespace Sys2Proof.Machine

/-! ### Eligible and reckoned bays (R88, R89) -/

/-- R88: the live order of a bay is its order, Charging, Conditioning or Ready and not released. -/
theorem State.liveOrder?_isSome_iff (s : State) (b : BayNo) : (s.liveOrder? b).isSome = true ↔
    ∃ o, s.orderOf? b = some o ∧ o.state.live = true ∧ o.released = false := by
  unfold State.liveOrder?
  cases s.orderOf? b with
  | none => simp
  | some o => simp [Option.filter_some]

theorem State.eligible_iff (s : State) (b : BayNo) : s.eligible b = true ↔ (s.bay b).state = .bound ∧
    ∃ o, s.orderOf? b = some o ∧ o.state.live = true ∧ o.released = false := by
  unfold State.eligible
  rw [Bool.and_eq_true, beq_iff_eq, State.liveOrder?_isSome_iff]

theorem State.reckoned_iff (s : State) (b : BayNo) : s.reckoned b = true ↔ (s.bay b).state = .dormant ∧
    ∃ o, s.orderOf? b = some o ∧ o.state.live = true ∧ o.released = false := by
  unfold State.reckoned
  rw [Bool.and_eq_true, beq_iff_eq, State.liveOrder?_isSome_iff]

/-! ### The grant of one bay (R101) -/

/-- R99, R101: the grant of one bay, from the power left and whether every Express and Standard bay before it has its
whole demand. -/
def grantHere (limits : Vector (Option Nat) 24) (low : Bool) (postMin : Nat) (e : RankEntry) (left : Nat) (met : Bool) :
    Nat :=
  if e.cls = .spare ∧ low = false ∧ met = false then 0 else grantFor e.demand limits[e.bay] left postMin

/-- Whether a bay's grant leaves no Express or Standard demand unmet. -/
def demandMet (e : RankEntry) (g : Nat) : Bool := e.cls == .spare || g == e.demand

theorem demandMet_eq_false {e : RankEntry} {g : Nat} : demandMet e g = false ↔ e.cls ≠ .spare ∧ g ≠ e.demand := by
  simp [demandMet]

/-- R101: the walk grants the first bay its share and goes on with what is left. -/
theorem grantWalk_cons (limits : Vector (Option Nat) 24) (low : Bool) (postMin : Nat) (e : RankEntry)
    (es : List RankEntry) (left : Nat) (met : Bool) :
    grantWalk limits low postMin (e :: es) left met =
      (e.bay, grantHere limits low postMin e left met) ::
        grantWalk limits low postMin es (left - grantHere limits low postMin e left met)
          (met && demandMet e (grantHere limits low postMin e left met)) := by
  rw [grantWalk]
  unfold grantHere
  split
  next h => simp [demandMet, h.1]
  next =>
    by_cases hspare : e.cls = .spare
    · simp [demandMet, hspare]
    · simp [demandMet, hspare, beq_eq_false_iff_ne.mpr hspare]

theorem grantFor_le_left (demand : Nat) (limit : Option Nat) (left postMin : Nat) :
    grantFor demand limit left postMin ≤ left := by
  unfold grantFor
  dsimp only
  split <;> omega

theorem grantFor_le_demand (demand : Nat) (limit : Option Nat) (left postMin : Nat) :
    grantFor demand limit left postMin ≤ demand := by
  unfold grantFor
  dsimp only
  split <;> omega

theorem grantFor_le_limit (demand m left postMin : Nat) : grantFor demand (some m) left postMin ≤ m := by
  unfold grantFor
  dsimp only [Option.getD_some]
  split <;> omega

/-- R101: no sliver is granted, unless the demand itself is one. -/
theorem grantFor_zero_or_le {demand postMin : Nat} (h : demand = 0 ∨ postMin ≤ demand) (limit : Option Nat)
    (left : Nat) : grantFor demand limit left postMin = 0 ∨ postMin ≤ grantFor demand limit left postMin := by
  unfold grantFor
  dsimp only
  split <;> omega

section
variable (limits : Vector (Option Nat) 24) (low : Bool) (postMin : Nat) (e : RankEntry) (left : Nat) (met : Bool)

theorem grantHere_le_left : grantHere limits low postMin e left met ≤ left := by
  unfold grantHere
  split
  · exact Nat.zero_le _
  · exact grantFor_le_left ..

theorem grantHere_le_demand : grantHere limits low postMin e left met ≤ e.demand := by
  unfold grantHere
  split
  · exact Nat.zero_le _
  · exact grantFor_le_demand ..

theorem grantHere_le_limit {m : Nat} (h : limits[e.bay] = some m) : grantHere limits low postMin e left met ≤ m := by
  unfold grantHere
  split
  · exact Nat.zero_le _
  · rw [h]
    exact grantFor_le_limit ..

theorem grantHere_zero_or_le (h : e.demand = 0 ∨ postMin ≤ e.demand) :
    grantHere limits low postMin e left met = 0 ∨ postMin ≤ grantHere limits low postMin e left met := by
  unfold grantHere
  split
  · exact .inl rfl
  · exact grantFor_zero_or_le h ..

end

/-! ### The walk (R99, R101) -/

/-- Every Express and Standard bay of a walk has its whole demand. -/
def demandsMet (ranked : List RankEntry) (grants : List (BayNo × Nat)) : Bool :=
  (ranked.zip grants).all (fun p => demandMet p.1 p.2.2)

theorem demandsMet_eq_false {ranked : List RankEntry} {grants : List (BayNo × Nat)} : demandsMet ranked grants = false ↔
    ∃ p ∈ ranked.zip grants, p.1.cls ≠ .spare ∧ p.2.2 ≠ p.1.demand := by
  simp only [demandsMet, List.all_eq_false, Bool.not_eq_true, demandMet_eq_false]

section
variable (limits : Vector (Option Nat) 24) (low : Bool) (postMin : Nat)

theorem length_grantWalk (ranked : List RankEntry) (left : Nat) (met : Bool) :
    (grantWalk limits low postMin ranked left met).length = ranked.length := by
  induction ranked generalizing left met with
  | nil => rfl
  | cons e es ih => rw [grantWalk_cons, List.length_cons, List.length_cons, ih]

theorem map_bay_grantWalk (ranked : List RankEntry) (left : Nat) (met : Bool) :
    (grantWalk limits low postMin ranked left met).map (fun g => g.1) = ranked.map (fun e => e.bay) := by
  induction ranked generalizing left met with
  | nil => rfl
  | cons e es ih => rw [grantWalk_cons, List.map_cons, List.map_cons, ih]

/-- R101: the walk of a list and its rest: the rest is walked with the power the list has left. -/
theorem grantWalk_append (front rest : List RankEntry) (left : Nat) (met : Bool) :
    grantWalk limits low postMin (front ++ rest) left met =
      grantWalk limits low postMin front left met ++ grantWalk limits low postMin rest
        (left - ((grantWalk limits low postMin front left met).map (fun g => g.2)).sum)
        (met && demandsMet front (grantWalk limits low postMin front left met)) := by
  induction front generalizing left met with
  | nil => simp [grantWalk, demandsMet]
  | cons e es ih =>
    rw [List.cons_append, grantWalk_cons, grantWalk_cons, ih]
    simp only [demandsMet, List.map_cons, List.sum_cons, List.zip_cons_cons, List.all_cons, Nat.sub_sub,
      Bool.and_assoc, List.cons_append]

theorem sum_grantWalk_le (ranked : List RankEntry) (left : Nat) (met : Bool) :
    ((grantWalk limits low postMin ranked left met).map (fun g => g.2)).sum ≤ left := by
  induction ranked generalizing left met with
  | nil => exact Nat.zero_le _
  | cons e es ih =>
    rw [grantWalk_cons, List.map_cons, List.sum_cons]
    have hhead := grantHere_le_left limits low postMin e left met
    have htail := ih (left - grantHere limits low postMin e left met)
      (met && demandMet e (grantHere limits low postMin e left met))
    omega

/-- Each grant of a walk is that of its bay from some power left. -/
theorem mem_zip_grantWalk {ranked : List RankEntry} {left : Nat} {met : Bool} {p : RankEntry × (BayNo × Nat)}
    (h : p ∈ ranked.zip (grantWalk limits low postMin ranked left met)) :
    p.1 ∈ ranked ∧ ∃ l m, p.2 = (p.1.bay, grantHere limits low postMin p.1 l m) := by
  induction ranked generalizing left met with
  | nil => exact absurd h List.not_mem_nil
  | cons e es ih =>
    rw [grantWalk_cons, List.zip_cons_cons] at h
    rcases List.mem_cons.mp h with rfl | h
    · exact ⟨List.mem_cons_self, left, met, rfl⟩
    · exact (ih h).imp_left (List.mem_cons_of_mem e)

/-- R99: outside a Low band a Spare bay goes without while an Express or Standard bay does. Such bays come before it
in a ranking by class. -/
theorem grantWalk_spare_zero {ranked : List RankEntry} (hsort : ranked.Pairwise (fun x y => x.cls.rank ≤ y.cls.rank))
    {left : Nat} {met : Bool} (hunmet : met = false ∨ ∃ q ∈ ranked.zip (grantWalk limits false postMin ranked left met),
      q.1.cls ≠ .spare ∧ q.2.2 ≠ q.1.demand)
    {p : RankEntry × (BayNo × Nat)} (hp : p ∈ ranked.zip (grantWalk limits false postMin ranked left met))
    (hspare : p.1.cls = .spare) : p.2.2 = 0 := by
  induction ranked generalizing left met with
  | nil => exact absurd hp List.not_mem_nil
  | cons e es ih =>
    obtain ⟨hhead, htail⟩ := List.pairwise_cons.mp hsort
    rw [grantWalk_cons, List.zip_cons_cons] at hp hunmet
    rcases List.mem_cons.mp hp with rfl | hp
    · have hmet : met = false := by
        rcases hunmet with hmet | ⟨q, hq, hcls, hshort⟩
        · exact hmet
        · rcases List.mem_cons.mp hq with rfl | hq
          · exact absurd hspare hcls
          · have hrank := hhead q.1 (mem_zip_grantWalk limits false postMin hq).1
            rw [hspare] at hrank
            cases hc : q.1.cls <;> simp_all [OrderClass.rank]
      exact if_pos ⟨hspare, rfl, hmet⟩
    · refine ih htail ?_ hp
      rcases hunmet with hmet | ⟨q, hq, hcls, hshort⟩
      · exact .inl (by rw [hmet, Bool.false_and])
      · rcases List.mem_cons.mp hq with rfl | hq
        · exact .inl (by rw [demandMet_eq_false.mpr ⟨hcls, hshort⟩, Bool.and_false])
        · exact .inr ⟨q, hq, hcls, hshort⟩

end

/-- R102: where a walk names each bay once, a bay takes its grant. -/
theorem grantOf_of_mem {grants : List (BayNo × Nat)} (hn : (grants.map (fun g => g.1)).Nodup) {b : BayNo} {g : Nat}
    (h : (b, g) ∈ grants) : grantOf grants b = g := by
  induction grants with
  | nil => exact absurd h List.not_mem_nil
  | cons x xs ih =>
    obtain ⟨hnot, hrest⟩ := List.nodup_cons.mp hn
    rcases List.mem_cons.mp h with rfl | h
    · simp [grantOf]
    · have hne : x.1 ≠ b := fun e => hnot (List.mem_map.mpr ⟨(b, g), h, e.symm⟩)
      rw [← ih hrest h]
      simp [grantOf, hne]

theorem grantOf_of_not_mem {grants : List (BayNo × Nat)} {b : BayNo} (h : b ∉ grants.map (fun g => g.1)) :
    grantOf grants b = 0 := by
  have hnone : grants.find? (fun x => x.1 == b) = none :=
    List.find?_eq_none.mpr fun x hx e => h (List.mem_map.mpr ⟨x, hx, beq_iff_eq.mp e⟩)
  unfold grantOf
  rw [hnone]

/-- A grant that is not 0 is one of the walk. -/
theorem mem_of_grantOf_pos {grants : List (BayNo × Nat)} {b : BayNo} (h : 0 < grantOf grants b) :
    (b, grantOf grants b) ∈ grants := by
  unfold grantOf at h ⊢
  cases hf : grants.find? (fun x => x.1 == b) with
  | none => simp [hf] at h
  | some x =>
    obtain rfl : x.1 = b := by simpa using List.find?_some hf
    exact List.mem_of_find?_eq_some hf

/-! ### The ranking (R98) -/

theorem insertBy_perm {α : Type} (before : α → α → Bool) (x : α) (l : List α) : (insertBy before x l).Perm (x :: l) := by
  induction l with
  | nil => exact .refl _
  | cons y ys ih =>
    unfold insertBy
    split
    · exact (ih.cons y).trans (.swap x y ys)
    · exact .refl _

theorem sortBy_perm {α : Type} (before : α → α → Bool) (l : List α) : (sortBy before l).Perm l := by
  induction l with
  | nil => exact .refl _
  | cons x xs ih => exact (insertBy_perm before x _).trans (ih.cons x)

/-- An element enters a sorted list at its place, where it is before or after each element of the list. -/
theorem insertBy_pairwise {α : Type} {before : α → α → Bool}
    (htrans : ∀ x y z, before x y = true → before y z = true → before x z = true) {x : α} {l : List α}
    (hl : l.Pairwise (fun y z => before y z = true)) (htotal : ∀ y ∈ l, before y x = true ∨ before x y = true) :
    (insertBy before x l).Pairwise (fun y z => before y z = true) := by
  induction l with
  | nil => exact List.pairwise_singleton _ _
  | cons y ys ih =>
    obtain ⟨hy, hys⟩ := List.pairwise_cons.mp hl
    unfold insertBy
    split
    next hyx =>
      refine List.pairwise_cons.mpr ⟨fun z hz => ?_, ih hys fun z hz => htotal z (List.mem_cons_of_mem y hz)⟩
      rcases List.mem_cons.mp ((insertBy_perm before x ys).mem_iff.mp hz) with rfl | hz
      · exact hyx
      · exact hy z hz
    next hyx =>
      have hxy := (htotal y List.mem_cons_self).resolve_left hyx
      refine List.pairwise_cons.mpr ⟨fun z hz => ?_, hl⟩
      rcases List.mem_cons.mp hz with rfl | hz
      · exact hxy
      · exact htrans x y z hxy (hy z hz)

theorem sortBy_pairwise {α : Type} {before : α → α → Bool}
    (htrans : ∀ x y z, before x y = true → before y z = true → before x z = true) {l : List α}
    (htotal : l.Pairwise (fun x y => before y x = true ∨ before x y = true)) :
    (sortBy before l).Pairwise (fun x y => before x y = true) := by
  induction l with
  | nil => exact List.Pairwise.nil
  | cons x xs ih =>
    obtain ⟨hx, hxs⟩ := List.pairwise_cons.mp htotal
    exact insertBy_pairwise htrans (ih hxs) fun y hy => hx y ((sortBy_perm before xs).mem_iff.mp hy)

theorem rankBefore_iff {x y : RankEntry} : rankBefore x y = true ↔ x.cls.rank < y.cls.rank ∨
    (x.cls.rank = y.cls.rank ∧ (x.slack < y.slack ∨ (x.slack = y.slack ∧ x.bay < y.bay))) := by
  simp [rankBefore]

theorem rankBefore_trans (x y z : RankEntry) (h : rankBefore x y = true) (k : rankBefore y z = true) :
    rankBefore x z = true := by
  rw [rankBefore_iff, Fin.lt_def] at h k ⊢
  omega

theorem rankBefore_total {x y : RankEntry} (h : x.bay ≠ y.bay) : rankBefore y x = true ∨ rankBefore x y = true := by
  have hval : (x.bay : Nat) ≠ y.bay := fun e => h (Fin.ext e)
  rw [rankBefore_iff, rankBefore_iff, Fin.lt_def, Fin.lt_def]
  omega

theorem OrderClass.rank_inj {c d : OrderClass} (h : c.rank = d.rank) : c = d := by
  cases c <;> cases d <;> simp [OrderClass.rank] at h ⊢

/-- R98: what is ranked: each eligible bay with its order's class, slack and demand. -/
theorem State.mem_rankEntries {s : State} {now : Nat} {e : RankEntry} : e ∈ s.rankEntries now ↔
    ∃ b o, s.eligible b = true ∧ s.orderOf? b = some o ∧ e = ⟨b, o.cls, s.slack b o now, s.demand b o⟩ := by
  simp only [State.rankEntries, List.mem_filterMap, allBays, List.mem_finRange, true_and,
    Option.ite_none_right_eq_some, Option.map_eq_some_iff]
  exact ⟨fun ⟨b, he, o, ho, h⟩ => ⟨b, o, he, ho, h.symm⟩, fun ⟨b, o, he, ho, h⟩ => ⟨b, he, o, ho, h.symm⟩⟩

theorem State.mem_ranked {s : State} {now : Nat} {e : RankEntry} : e ∈ s.ranked now ↔
    ∃ b o, s.eligible b = true ∧ s.orderOf? b = some o ∧ e = ⟨b, o.cls, s.slack b o now, s.demand b o⟩ :=
  (sortBy_perm _ _).mem_iff.trans State.mem_rankEntries

/-- Each bay is ranked once at most. -/
theorem State.rankEntries_bays (s : State) (now : Nat) : (s.rankEntries now).Pairwise (fun x y => x.bay ≠ y.bay) := by
  refine List.pairwise_filterMap.mpr ((List.nodup_finRange 24).imp fun {b c} hne x hx y hy => ?_)
  simp only [Option.ite_none_right_eq_some, Option.map_eq_some_iff] at hx hy
  obtain ⟨-, _, -, rfl⟩ := hx
  obtain ⟨-, _, -, rfl⟩ := hy
  exact hne

theorem State.ranked_nodup (s : State) (now : Nat) : ((s.ranked now).map (fun e => e.bay)).Nodup := by
  refine ((sortBy_perm rankBefore (s.rankEntries now)).map _).nodup_iff.mpr ?_
  rw [List.nodup_iff_pairwise_ne, List.pairwise_map]
  exact s.rankEntries_bays now

theorem State.mem_ranked_bays {s : State} {now : Nat} {b : BayNo} :
    b ∈ (s.ranked now).map (fun e => e.bay) ↔ s.eligible b = true := by
  rw [List.mem_map]
  constructor
  · rintro ⟨e, he, rfl⟩
    obtain ⟨c, o, hc, -, rfl⟩ := State.mem_ranked.mp he
    exact hc
  · intro hb
    obtain ⟨-, o, ho, -⟩ := (s.eligible_iff b).mp hb
    exact ⟨_, State.mem_ranked.mpr ⟨b, o, hb, ho, rfl⟩, rfl⟩

theorem State.ranked_pairwise (s : State) (now : Nat) : (s.ranked now).Pairwise (fun x y => rankBefore x y = true) :=
  sortBy_pairwise rankBefore_trans ((s.rankEntries_bays now).imp rankBefore_total)

/-- Settles O42: the walk at one bay by `grantWalk_append`, the sorting of the ranked bays by `rankBefore`, and the bounds
of a walk by those of one grant. -/
theorem rankingAndWalkKeepTheirRules : Obligations.RankingAndWalkKeepTheirRules := by
  unfold Obligations.RankingAndWalkKeepTheirRules
  refine ⟨fun limits low postMin available front back e => ?_,
    fun grants b hn => ⟨fun g => grantOf_of_mem hn, grantOf_of_not_mem⟩,
    fun now s => ⟨s.ranked_nodup now, fun b => State.mem_ranked_bays, fun e he => ?_,
      (s.ranked_pairwise now).imp fun {x y} h => ?_⟩,
    fun limits low postMin left ranked hdemand hsort => ⟨map_bay_grantWalk _ _ _ _ _ _, sum_grantWalk_le _ _ _ _ _ _,
      fun p hp => ?_, fun p hp hspare hlow hunmet => ?_⟩⟩
  · dsimp only
    rw [grantWalk_append, grantWalk_cons, List.append_cons, List.take_left' (by simp [length_grantWalk])]
    refine congrArg (fun g => grantWalk limits low postMin front available true ++ [(e.bay, g)]) ?_
    exact if_congr (by rw [Bool.true_and, demandsMet_eq_false]) rfl rfl
  · obtain ⟨b, o, -, ho, rfl⟩ := State.mem_ranked.mp he
    exact ⟨o, ho, rfl, rfl, rfl⟩
  · exact (rankBefore_iff.mp h).imp_right fun hrest => ⟨OrderClass.rank_inj hrest.1, hrest.2⟩
  · obtain ⟨hmem, l, m, hgrant⟩ := mem_zip_grantWalk limits low postMin hp
    rw [hgrant]
    exact ⟨grantHere_le_demand .., fun _ hm => grantHere_le_limit _ _ _ _ _ _ hm,
      grantHere_zero_or_le _ _ _ _ _ _ (hdemand p.1 hmem)⟩
  · subst hlow
    exact grantWalk_spare_zero limits postMin hsort (.inr hunmet) hp hspare

end Sys2Proof.Machine
end

section
/-! PROOFS. The steps of a round and what it leaves: O34. -/

namespace Sys2Proof.Machine

/-! ### The orders a round takes (R87) -/

/-- The entry of a roster order in a round: its bay, where the bay is bound to it and taken. -/
theorem State.mem_roundOrders {s : State} {test : BayNo → Bool} {b : BayNo} {tag : Nat} :
    (b, tag) ∈ s.roundOrders test ↔ test b = true ∧ (s.bay b).boundOrder = some tag ∧
      ∃ o ∈ s.roster, o.tag = tag ∧ o.boundBay = some b := by
  unfold State.roundOrders
  rw [List.mem_filterMap]
  constructor
  · rintro ⟨o, ho, h⟩
    split at h
    next c hc =>
      simp only [Option.ite_none_right_eq_some, Bool.and_eq_true, beq_iff_eq, Option.some.injEq, Prod.mk.injEq] at h
      obtain ⟨⟨htest, hbound⟩, rfl, rfl⟩ := h
      exact ⟨htest, hbound, o, ho, rfl, hc⟩
    next => cases h
  · rintro ⟨htest, hbound, o, ho, rfl, hc⟩
    exact ⟨o, ho, by simp [hc, htest, hbound]⟩

/-- What a partial map picks of a list, when each pick is the total map's value. -/
theorem filterMap_sublist_map {α β : Type} {f : α → Option β} {g : α → β} (h : ∀ a b, f a = some b → b = g a)
    (l : List α) : (l.filterMap f).Sublist (l.map g) := by
  induction l with
  | nil => exact .refl _
  | cons a as ih =>
    rw [List.map_cons]
    cases hf : f a with
    | none =>
      rw [List.filterMap_cons_none hf]
      exact ih.cons _
    | some b =>
      rw [List.filterMap_cons_some hf, h a b hf]
      exact ih.cons_cons _

/-- R87: the orders are taken in roster order. -/
theorem State.roundOrders_sublist (s : State) (test : BayNo → Bool) :
    ((s.roundOrders test).map (fun x => x.2)).Sublist (s.roster.map (fun o => o.tag)) := by
  unfold State.roundOrders
  rw [List.map_filterMap]
  refine filterMap_sublist_map (fun o tag h => ?_) _
  obtain ⟨x, hx, rfl⟩ := Option.map_eq_some_iff.mp h
  split at hx
  · simp only [Option.ite_none_right_eq_some, Option.some.injEq] at hx
    rw [← hx.2]
  · cases hx

/-- R16: the Waiting orders past their departure and the missed grace. -/
theorem State.missedOrders_eq (s : State) (now : Nat) : s.missedOrders now =
    (s.roster.filter (fun o => o.state = .waiting ∧ o.departure + s.cfg.missedGrace ≤ now)).map (fun o => o.tag) := by
  unfold State.missedOrders
  exact congrArg (List.map _) (List.filter_congr fun o _ => by simp [Bool.beq_eq_decide_eq])

/-! ### The stored caps (R91) -/

/-- R91: the cap a round stores for a bay; a bay that is neither eligible nor reckoned keeps the one it has. -/
def State.roundCap (s : State) (b : BayNo) (old : Nat) : Nat :=
  match s.orderOf? b with
  | some o => if s.eligible b = true ∨ s.reckoned b = true then s.capOf b o else old
  | none => old

theorem State.roundCap_roundCap (s : State) (b : BayNo) (old : Nat) :
    s.roundCap b (s.roundCap b old) = s.roundCap b old := by
  unfold State.roundCap
  cases s.orderOf? b with
  | none => rfl
  | some o =>
    dsimp only
    split <;> rfl

theorem State.withCap_cap (s : State) (b : BayNo) : s.withCap b (s.cap b) = s := by
  simp [State.withCap, State.cap]

theorem State.storeCaps_eq (s : State) :
    s.storeCaps = allBays.foldl (fun t b => t.withCap b (s.roundCap b (t.cap b))) s := by
  have hstep : ∀ (t : State) (b : BayNo), (if s.eligible b || s.reckoned b then
      match s.orderOf? b with
      | some o => t.withCap b (s.capOf b o)
      | none => t
    else t) = t.withCap b (s.roundCap b (t.cap b)) := by
    intro t b
    unfold State.roundCap
    cases ho : s.orderOf? b with
    | none => simp only [ite_self, State.withCap_cap]
    | some o =>
      dsimp only
      by_cases h : s.eligible b = true ∨ s.reckoned b = true
      · rw [if_pos h, if_pos (by simpa using h)]
      · rw [if_neg h, if_neg (by simpa using h), State.withCap_cap]
  unfold State.storeCaps
  exact congrFun (congrFun (congrArg _ (funext fun t => funext fun b => hstep t b)) _) _

theorem State.cap_foldl_withCap (s : State) (b : BayNo) (l : List BayNo) (t : State) :
    (l.foldl (fun t b => t.withCap b (s.roundCap b (t.cap b))) t).cap b =
      if b ∈ l then s.roundCap b (t.cap b) else t.cap b := by
  induction l generalizing t with
  | nil => rfl
  | cons c cs ih =>
    rw [List.foldl_cons, ih]
    by_cases h : b = c
    · subst h
      rw [State.cap_withCap, State.roundCap_roundCap, ite_self, if_pos List.mem_cons_self]
    · rw [State.cap_withCap_ne t _ h]
      exact if_congr (by simp [h]) rfl rfl

theorem State.cap_storeCaps (s : State) (b : BayNo) : s.storeCaps.cap b = s.roundCap b (s.cap b) := by
  rw [State.storeCaps_eq, State.cap_foldl_withCap, if_pos (by exact List.mem_finRange b)]

/-- R91: the stored caps are all that changes. -/
theorem State.storeCaps_alone (s : State) :
    s.storeCaps = { s with alloc := { s.alloc with caps := s.storeCaps.alloc.caps } } := by
  have hfold : ∀ (l : List BayNo) (t : State), l.foldl (fun t b => t.withCap b (s.roundCap b (t.cap b))) t =
      { t with alloc := { t.alloc with
        caps := (l.foldl (fun t b => t.withCap b (s.roundCap b (t.cap b))) t).alloc.caps } } := by
    intro l
    induction l with
    | nil => exact fun _ => rfl
    | cons c cs ih => exact fun t => ih _
  rw [State.storeCaps_eq]
  exact hfold _ s

/-! ### The round as a whole (R87, R100 to R102) -/

/-- R87: the state a round ranks: its steps up to Deferred taken. -/
def State.readied (s : State) (now : Nat) : State :=
  (((((((s.closeMissed now).dropWindows now).clearDormantDeferred).changePhases now).storeCaps).setAtRisks
    now).wakeDecisions now).setDeferred now

/-- R101: the grants of a round's walk. -/
def State.grants (s : State) (now : Nat) : List (BayNo × Nat) :=
  grantWalk s.alloc.limits (s.band == .low) s.cfg.postMin (s.ranked now) s.available true

theorem State.round_of_now {s : State} {now : Nat} (h : s.now? = some now) :
    s.round = (s.readied now).grantRound now := by
  unfold State.round
  rw [h]
  rfl

/-- R102: what a round stores before the changed targets are handed on. -/
def State.withRound (s : State) (ranking : List BayNo) (grants : List (BayNo × Nat)) : State :=
  { s with alloc := { s.alloc with
    targets := Vector.ofFn (fun b => grantOf grants b)
    ranking := ranking
    limits := Vector.replicate 24 none } }

theorem MovesTargets.leaves {s t : State} (h : MovesTargets s t) :
    t.roster = s.roster ∧ t.bays = s.bays ∧ t.feeder = s.feeder ∧ t.events = s.events := by
  have hroster := congrArg State.roster h.shares
  have hbays := congrArg State.bays h.shares
  have hfeeder := congrArg State.feeder h.shares
  have hevents := congrArg State.events h.shares
  exact ⟨hroster, hbays, hfeeder, hevents⟩

/-- R102: targets and pending Grants are all that the handing on may change, and it changes no target. -/
theorem State.roundResult_moves (s : State) (ranking : List BayNo) (grants : List (BayNo × Nat)) :
    MovesTargets (s.withRound ranking grants) (s.roundResult ranking grants) := by
  refine .foldl (fun u b => ?_) _ _
  split
  · exact .refl u
  · exact u.reconcile_moves b

theorem State.roundResult_alloc (s : State) (ranking : List BayNo) (grants : List (BayNo × Nat)) :
    (s.roundResult ranking grants).alloc = (s.withRound ranking grants).alloc := by
  refine List.foldlRecOn (motive := fun u : State => u.alloc = (s.withRound ranking grants).alloc) _ _ rfl
    fun u hu b _ => ?_
  split
  · exact hu
  · rw [State.reconcile_alloc, hu]

theorem State.grantRound_moves (s : State) (now : Nat) : MovesTargets
    (s.withRound ((s.ranked now).map (fun e => e.bay)) (s.grants now)) (s.grantRound now) :=
  s.roundResult_moves ((s.ranked now).map (fun e => e.bay)) (s.grants now)

theorem State.grantRound_alloc (s : State) (now : Nat) : (s.grantRound now).alloc =
    (s.withRound ((s.ranked now).map (fun e => e.bay)) (s.grants now)).alloc := s.roundResult_alloc _ _

/-- R102: a bay's target is its grant. -/
theorem State.target_grantRound (s : State) (now : Nat) (b : BayNo) :
    (s.grantRound now).target b = grantOf (s.grants now) b := by
  unfold State.target
  rw [State.grantRound_alloc]
  simp [State.withRound]

theorem State.limits_grantRound (s : State) (now : Nat) (b : BayNo) : (s.grantRound now).alloc.limits[b] = none := by
  rw [State.grantRound_alloc]
  simp [State.withRound]

/-- R102: the orders, the bays, the Feeder unit and the events are no matter of the grants. -/
theorem State.grantRound_leaves (s : State) (now : Nat) :
    (s.grantRound now).roster = s.roster ∧ (s.grantRound now).bays = s.bays ∧
      (s.grantRound now).feeder = s.feeder ∧ (s.grantRound now).events = s.events := by
  have hleaves := (s.grantRound_moves now).leaves
  simpa only [State.withRound] using hleaves

/-- R102: a bay that is not eligible is not ranked, and its target is 0. -/
theorem State.grantOf_grants_of_not_eligible {s : State} {b : BayNo} (h : s.eligible b = false) (now : Nat) :
    grantOf (s.grants now) b = 0 := by
  refine grantOf_of_not_mem fun hb => ?_
  unfold State.grants at hb
  rw [map_bay_grantWalk, State.mem_ranked_bays, h] at hb
  cases hb

theorem handOrder_eq (ranking : List BayNo) :
    handOrder ranking = ranking.reverse ++ (List.finRange 24).filter (fun b => b ∉ ranking) :=
  congrArg _ (List.filter_congr fun b _ => by simp)

/-- Settles O34: the round in its two halves (`State.round_of_now`), then each step's own lemma; the folds stand as the
model has them. -/
theorem roundTakesItsStepsAndSetsTargets : Obligations.RoundTakesItsStepsAndSetsTargets := by
  unfold Obligations.RoundTakesItsStepsAndSetsTargets
  refine ⟨fun now s hnow => ?_, fun now s => ⟨?_, rfl⟩, fun b s => ⟨s.eligible_iff b, s.reckoned_iff b⟩,
    fun test s => ⟨s.roundOrders_sublist test, fun b tag => State.mem_roundOrders⟩,
    fun now s => ⟨⟨rfl, rfl⟩, rfl, rfl, rfl, s.storeCaps_alone, s.cap_storeCaps⟩⟩
  · intro m ranked grants t
    have ht : t = m.grantRound now := State.round_of_now hnow
    clear_value t m
    subst ht
    have hranking : (m.grantRound now).alloc.ranking = ranked.map (fun e => e.bay) :=
      congrArg Alloc.ranking (m.grantRound_alloc now)
    obtain ⟨hroster, hbays, hfeeder, hevents⟩ := m.grantRound_leaves now
    refine ⟨hranking, m.target_grantRound now, fun b hb => ?_, m.limits_grantRound now, hroster, hbays, hfeeder,
      hevents, ?_⟩
    · rw [State.target_grantRound]
      exact State.grantOf_grants_of_not_eligible hb now
    · rw [hranking, ← handOrder_eq]
      rfl
  · rw [← State.missedOrders_eq]
    rfl

end Sys2Proof.Machine
end

section
/-! PROOFS. The laws of the targets (R103) in parts, and what leaves them alone, lowers targets or takes a bay out of
eligibility. -/

namespace Sys2Proof.Machine

/-! ### The laws in parts -/

/-- R103: the laws bay by bay, the eligibility of some bays left out of account. -/
structure SharesRight (X : Set BayNo) (s : State) : Prop where
  idle : ∀ b ∉ X, s.eligible b = false → s.target b = 0
  rated : ∀ b, s.cap b ≤ s.rating b
  least : ∀ b, 0 < s.target b → s.cfg.postMin ≤ s.target b
  most : ∀ b, s.target b ≤ s.cap b
  ranked : ∀ b, 0 < s.target b → b ∈ s.alloc.ranking

/-- R103: the first law. -/
def State.fits (s : State) : Prop := s.eligibleTargets ≤ s.available

theorem targetsRight_iff {s : State} : s.targetsRight ↔ SharesRight ∅ s ∧ s.fits := by
  constructor
  · rintro ⟨hfits, hbay⟩
    refine ⟨⟨fun b _ => (hbay b).1, fun b => (hbay b).2.1, fun b h => ((hbay b).2.2 h).1, fun b => ?_,
      fun b h => ((hbay b).2.2 h).2.2⟩, hfits⟩
    rcases Nat.eq_zero_or_pos (s.target b) with h | h
    · rw [h]
      exact Nat.zero_le _
    · exact ((hbay b).2.2 h).2.1
  · rintro ⟨⟨hidle, hrated, hleast, hmost, hranked⟩, hfits⟩
    exact ⟨hfits, fun b => ⟨hidle b (Set.notMem_empty b), hrated b, fun h => ⟨hleast b h, hmost b, hranked b h⟩⟩⟩

/-- Targets are lowered, none to a sliver, and nothing else of the laws' changes. -/
theorem SharesRight.lowered {X : Set BayNo} {s t : State} (h : SharesRight X s) (r : SameRecords s t)
    (hle : ∀ b, t.target b ≤ s.target b) (hmin : ∀ b, 0 < t.target b → s.cfg.postMin ≤ t.target b) :
    SharesRight X t where
  idle b hb he := Nat.le_zero.mp (h.idle b hb (r.eligible b ▸ he) ▸ hle b)
  rated b := by
    rw [r.cap, r.rating]
    exact h.rated b
  least b hb := by
    have hcfg : t.cfg = s.cfg := r.working
    rw [hcfg]
    exact hmin b hb
  most b := by
    rw [r.cap]
    exact (hle b).trans (h.most b)
  ranked b hb := by
    rw [r.ranking]
    exact h.ranked b (hb.trans_le (hle b))

/-- R103: the first law stands while each eligible bay's target and each stranded exposure is no larger. -/
theorem State.fits_of_le {s t : State} (hs : s.fits)
    (htarget : ∀ b, t.eligible b = true → t.target b ≤ if s.eligible b then s.target b else 0)
    (hstranded : ∀ b, t.eligible b = false → s.eligible b = false ∧ t.exposure b ≤ s.exposure b)
    (heff : s.feeder.effective ≤ t.feeder.effective) : t.fits := by
  have hsum : t.eligibleTargets ≤ s.eligibleTargets := by
    rw [State.eligibleTargets_eq, State.eligibleTargets_eq]
    refine Finset.sum_le_sum fun b _ => ?_
    split
    next h => exact htarget b h
    next => exact Nat.zero_le _
  have hstr : t.stranded ≤ s.stranded := by
    unfold State.stranded allBays
    rw [← Fin.sum_univ_def, ← Fin.sum_univ_def]
    refine Finset.sum_le_sum fun b _ => ?_
    split
    next => exact Nat.zero_le _
    next h =>
      obtain ⟨hb, hexp⟩ := hstranded b (Bool.eq_false_of_not_eq_true h)
      rw [hb]
      exact hexp
  unfold State.fits State.available at *
  omega

/-- From one state to another the laws of the targets are kept. -/
def KeepsTargets (s t : State) : Prop := s.targetsRight → t.targetsRight

theorem KeepsTargets.refl (s : State) : KeepsTargets s s := id

theorem KeepsTargets.trans {s t u : State} (h : KeepsTargets s t) (k : KeepsTargets t u) : KeepsTargets s u :=
  fun x => k (h x)

theorem KeepsTargets.foldl {α : Type} {f : State → α → State} (h : ∀ s x, KeepsTargets s (f s x)) (l : List α)
    (s : State) : KeepsTargets s (l.foldl f s) := by
  induction l generalizing s with
  | nil => exact .refl s
  | cons x xs ih => exact (h s x).trans (ih (f s x))

/-! ### What leaves the laws alone -/

/-- Nothing that the laws rest on is tightened: the targets, the stored caps and the ranking stand, no rating falls and
the post minimum does not rise, no exposure rises and the effective ceiling does not fall, and no bay but the ones left
out of account leaves eligibility. -/
structure KeepsShares (X : Set BayNo) (s t : State) : Prop where
  targets : t.alloc.targets = s.alloc.targets
  caps : t.alloc.caps = s.alloc.caps
  ranking : t.alloc.ranking = s.alloc.ranking
  rating : ∀ b, s.rating b ≤ t.rating b
  postMin : t.cfg.postMin ≤ s.cfg.postMin
  effective : s.feeder.effective ≤ t.feeder.effective
  norise : NoRise s t
  eligible : ∀ b ∉ X, s.eligible b = true → t.eligible b = true

section
variable {X : Set BayNo}

theorem KeepsShares.refl (s : State) : KeepsShares X s s :=
  ⟨rfl, rfl, rfl, fun _ => le_rfl, le_rfl, le_rfl, .refl s, fun _ _ => id⟩

theorem KeepsShares.trans {s t u : State} (h : KeepsShares X s t) (k : KeepsShares X t u) : KeepsShares X s u :=
  ⟨k.targets.trans h.targets, k.caps.trans h.caps, k.ranking.trans h.ranking, fun b => (h.rating b).trans (k.rating b),
    k.postMin.trans h.postMin, h.effective.trans k.effective, h.norise.trans k.norise,
    fun b hb he => k.eligible b hb (h.eligible b hb he)⟩

theorem KeepsShares.foldl {α : Type} {f : State → α → State} (h : ∀ s x, KeepsShares X s (f s x)) (l : List α)
    (s : State) : KeepsShares X s (l.foldl f s) := by
  induction l generalizing s with
  | nil => exact .refl s
  | cons x xs ih => exact (h s x).trans (ih (f s x))

/-- A bay that is not eligible has no eligibility to lose. -/
theorem KeepsShares.of_not_eligible {b : BayNo} {s t : State} (h : KeepsShares {b} s t) (hb : s.eligible b = false) :
    KeepsShares X s t := by
  refine ⟨h.targets, h.caps, h.ranking, h.rating, h.postMin, h.effective, h.norise, fun c _ he => h.eligible c ?_ he⟩
  rintro rfl
  rw [hb] at he
  cases he

/-- What leaves the records alone, and the targets with them. -/
theorem KeepsShares.of_records {s t : State} (r : SameRecords s t) (ht : t.alloc.targets = s.alloc.targets)
    (n : NoRise s t) (he : s.feeder.effective ≤ t.feeder.effective) : KeepsShares X s t :=
  ⟨ht, r.caps, r.ranking, fun b => (r.rating b).ge, (congrArg Settings.postMin r.working).le, he, n,
    fun b _ h => (r.eligible b).trans h⟩

theorem KeepsShares.target {s t : State} (h : KeepsShares X s t) (b : BayNo) : t.target b = s.target b := by
  unfold State.target
  rw [h.targets]

theorem KeepsShares.sharesRight {s t : State} (h : KeepsShares X s t) (k : SharesRight ∅ s) : SharesRight X t where
  idle b hb he := by
    rw [h.target]
    refine k.idle b (Set.notMem_empty b) (Bool.eq_false_of_not_eq_true fun hs => ?_)
    rw [h.eligible b hb hs] at he
    cases he
  rated b := by
    have hcap : t.cap b = s.cap b := by unfold State.cap; rw [h.caps]
    rw [hcap]
    exact (k.rated b).trans (h.rating b)
  least b hb := by
    rw [h.target] at hb ⊢
    exact h.postMin.trans (k.least b hb)
  most b := by
    have hcap : t.cap b = s.cap b := by unfold State.cap; rw [h.caps]
    rw [hcap, h.target]
    exact k.most b
  ranked b hb := by
    rw [h.target] at hb
    rw [h.ranking]
    exact k.ranked b hb

end

/-- A bay that gains eligibility brings target 0 and takes its exposure out of the stranded sum (R100). -/
theorem KeepsShares.keeps {s t : State} (h : KeepsShares ∅ s t) : KeepsTargets s t := by
  intro hs
  obtain ⟨hshares, hfits⟩ := targetsRight_iff.mp hs
  refine targetsRight_iff.mpr ⟨h.sharesRight hshares, State.fits_of_le hfits (fun b _ => ?_) (fun b hb => ?_)
    h.effective⟩
  · rw [h.target]
    cases he : s.eligible b with
    | true => exact le_rfl
    | false => exact (hshares.idle b (Set.notMem_empty b) he).le
  · refine ⟨Bool.eq_false_of_not_eq_true fun hs => ?_, h.norise.le b⟩
    rw [h.eligible b (Set.notMem_empty b) hs] at hb
    cases hb

/-! ### Lowered targets (R104, R106, R107) -/

/-- The first law is kept while targets fall. -/
theorem MovesTargets.fits {s t : State} (h : MovesTargets s t) (hle : ∀ b, t.target b ≤ s.target b) (hs : s.fits) :
    t.fits := by
  refine State.fits_of_le hs (fun b hb => ?_) (fun b hb => ⟨(h.eligible b).symm.trans hb, (h.exposure b).le⟩) ?_
  · rw [← h.eligible b, hb]
    exact hle b
  · rw [(h.leaves).2.2.1]

/-- A target is lowered, to 0 or to no less than the post minimum. -/
theorem State.setTarget_sharesRight {X : Set BayNo} {s : State} (h : SharesRight X s) {b : BayNo} {v : Nat}
    (hv : v ≤ s.target b) (hmin : v = 0 ∨ s.cfg.postMin ≤ v) : SharesRight X (s.setTarget b v) := by
  refine h.lowered (s.setTarget_records b v) (fun c => ?_) (fun c hc => ?_)
  · by_cases e : c = b
    · subst e
      rwa [State.target_setTarget]
    · rw [State.target_setTarget_ne s v e]
  · by_cases e : c = b
    · subst e
      rw [State.target_setTarget] at hc ⊢
      omega
    · rw [State.target_setTarget_ne s v e] at hc ⊢
      exact h.least c hc

theorem State.target_setTarget_le {s : State} {b : BayNo} {v : Nat} (hv : v ≤ s.target b) (c : BayNo) :
    (s.setTarget b v).target c ≤ s.target c := by
  by_cases e : c = b
  · subst e
    rwa [State.target_setTarget]
  · rw [State.target_setTarget_ne s v e]

theorem State.setTarget_targets {s : State} {b : BayNo} {v : Nat} (hv : v ≤ s.target b)
    (hmin : v = 0 ∨ s.cfg.postMin ≤ v) : KeepsTargets s (s.setTarget b v) := by
  intro hs
  obtain ⟨hshares, hfits⟩ := targetsRight_iff.mp hs
  exact targetsRight_iff.mpr ⟨State.setTarget_sharesRight hshares hv hmin,
    (s.setTarget_moves b v).fits (State.target_setTarget_le hv) hfits⟩

/-- R106: what a trim leaves of a target is none or no sliver. -/
theorem trimmedTarget_zero_or_le (target excess postMin : Nat) :
    trimmedTarget target excess postMin = 0 ∨ postMin ≤ trimmedTarget target excess postMin := by
  unfold trimmedTarget
  split <;> omega

theorem State.trimBay_sharesRight {X : Set BayNo} {s : State} (h : SharesRight X s) (b : BayNo) :
    SharesRight X (s.trimBay b) := by
  by_cases hdone : s.eligibleTargets ≤ s.available ∨ s.target b = 0
  · rw [State.trimBay_of_done hdone]
    exact h
  · rw [State.trimBay_of_excess hdone]
    exact State.setTarget_sharesRight h (trimmedTarget_lt _ (fun e => hdone (.inr e)) (by omega)).le
      (trimmedTarget_zero_or_le _ _ _)

theorem State.trimCheck_sharesRight {X : Set BayNo} {s : State} (h : SharesRight X s) : SharesRight X s.trimCheck :=
  List.foldlRecOn (motive := fun t : State => SharesRight X t) _ _ h fun _ ht b _ => State.trimBay_sharesRight ht b

/-- R105: a trim restores the first law, whatever has broken it. -/
theorem State.trimCheck_targetsRight {s : State} (h : SharesRight ∅ s) : s.trimCheck.targetsRight :=
  targetsRight_iff.mpr ⟨State.trimCheck_sharesRight h, State.trimCheck_fits fun b _ hb => h.ranked b hb⟩

/-- R104: what takes a bay out of eligibility ends with its target 0 and a trim; where the bay was not eligible before,
there is nothing to take. -/
theorem KeepsShares.leaves {s t : State} {b : BayNo} (h : KeepsShares {b} s t) :
    KeepsTargets s (t.leaveEligibility (s.eligible b) b) := by
  intro hs
  cases he : s.eligible b with
  | false => exact (h.of_not_eligible he).keeps hs
  | true =>
    have hleft := State.setTarget_sharesRight (h.sharesRight (targetsRight_iff.mp hs).1) (b := b) (Nat.zero_le _)
      (.inl rfl)
    refine State.trimCheck_targetsRight ⟨fun c _ hc => ?_, hleft.rated, hleft.least, hleft.most, hleft.ranked⟩
    by_cases e : c = b
    · subst e
      exact State.target_setTarget t c 0
    · exact hleft.idle c e hc

/-! ### The Held condition and the notices (R76, R132) -/

section
variable {X : Set BayNo}

theorem State.append_shares (s : State) (k : EventKind) (x : Option Subject) (e : Edge) :
    KeepsShares X s (s.append k x e) := by
  refine .of_records (s.append_records k x e) ?_ (s.append_norise k x e)
    (congrArg Feeder.effective (s.append_feeder k x e).1).ge
  unfold State.append
  split <;> rfl

theorem State.feeder_shares (s : State) (f : Feeder) (h : s.feeder.effective ≤ f.effective) :
    KeepsShares X s { s with feeder := f } := .of_records (s.feeder_records f) rfl (.of_same rfl) h

theorem State.heldCheck_shares (s : State) : KeepsShares X s s.heldCheck := by
  unfold State.heldCheck
  split
  · exact (s.feeder_shares { s.feeder with hold := .held } le_rfl).trans (State.append_shares _ _ _ _)
  · exact s.feeder_shares _ le_rfl
  · exact .refl s

end

/-- R132: after the notices of an exposure the first law holds, where an exposure that needs no notice kept it. -/
theorem State.noteExposure_targetsRight {t : State} {b : BayNo} {before : Nat} (hshares : SharesRight ∅ t)
    (hfits : t.eligible b = true ∨ t.exposure b ≤ before → t.fits) : (t.noteExposure b before).targetsRight := by
  have hheld : KeepsShares ∅ t t.heldCheck := t.heldCheck_shares
  unfold State.noteExposure
  dsimp only
  rw [State.exposure_heldCheck, t.heldCheck_records.eligible]
  split
  next e => exact targetsRight_iff.mpr ⟨hshares, hfits (.inr e.le)⟩
  next =>
    split
    next => exact State.trimCheck_targetsRight (hheld.sharesRight hshares)
    next h =>
      refine hheld.keeps (targetsRight_iff.mpr ⟨hshares, hfits ?_⟩)
      by_cases hle : t.exposure b ≤ before
      · exact .inr hle
      · exact .inl (Bool.eq_true_of_not_eq_false fun he => h ⟨by omega, he⟩)

theorem State.noteExposure_targets (s : State) (b : BayNo) (before : Nat) :
    KeepsTargets s (s.noteExposure b before) := by
  intro hs
  obtain ⟨hshares, hfits⟩ := targetsRight_iff.mp hs
  exact State.noteExposure_targetsRight hshares fun _ => hfits

/-- R132: a change of one bay's exposure, up or down, with the notices that follow it. -/
theorem SameRecords.noted {s t : State} (r : SameRecords s t) (b : BayNo) (ht : t.alloc.targets = s.alloc.targets)
    (he : t.feeder.effective = s.feeder.effective) (hexp : ∀ c, c ≠ b → t.exposure c = s.exposure c) :
    KeepsTargets s (t.noteExposure b (s.exposure b)) := by
  intro hs
  obtain ⟨hshares, hfits⟩ := targetsRight_iff.mp hs
  have htarget : ∀ c, t.target c = s.target c := fun c => by unfold State.target; rw [ht]
  refine State.noteExposure_targetsRight
    (hshares.lowered r (fun c => (htarget c).le) fun c hc => htarget c ▸ hshares.least c (htarget c ▸ hc)) fun hb => ?_
  refine State.fits_of_le hfits (fun c hc => ?_) (fun c hc => ⟨(r.eligible c).symm.trans hc, ?_⟩) he.ge
  · rw [htarget, ← r.eligible, hc]
    exact le_rfl
  · by_cases e : c = b
    · subst e
      exact hb.resolve_left (by rw [hc]; simp)
    · exact (hexp c e).le

/-- R80, R81: a change of the ceiling's inputs that ends in a recomputation: a fall is trimmed away. -/
theorem State.recompute_targets (s : State) (f : Feeder) (h : f.effective = s.feeder.effective) :
    KeepsTargets s (State.recomputeCeiling { s with feeder := f }) := by
  have hrecords : ∀ g : Feeder, SameRecords s { s with feeder := g } := s.feeder_records
  intro hs
  unfold State.recomputeCeiling
  dsimp only
  split
  next =>
    refine State.trimCheck_targetsRight ?_
    obtain ⟨hshares, -⟩ := targetsRight_iff.mp hs
    exact hshares.lowered (hrecords _) (fun _ => le_rfl) hshares.least
  next hnew =>
    rw [h] at hnew
    exact KeepsShares.keeps (s.feeder_shares _ (Nat.le_of_not_lt hnew)) hs

theorem State.recomputeCeiling_targets (s : State) : KeepsTargets s s.recomputeCeiling :=
  s.recompute_targets s.feeder rfl

/-- R107: a refused increase lowers a target to the held grant, or to 0 where that is a sliver. -/
theorem State.refusedIncrease_targets (s : State) (b : BayNo) : KeepsTargets s (s.refusedIncrease b) := by
  have hlimit : KeepsTargets s (s.withLimit b (some (s.lineBay b).held)) :=
    KeepsShares.keeps (.of_records (s.withLimit_records b _) rfl (s.withLimit_norise b _) le_rfl)
  unfold State.refusedIncrease
  dsimp only
  split
  next h =>
    refine hlimit.trans (State.setTarget_targets ?_ ?_)
    · split <;> omega
    · split <;> omega
  next => exact hlimit

end Sys2Proof.Machine
end

section
/-! PROOFS. The operations of the Roster unit and the Bay unit keep the laws of the targets: what each leaves alone, and
where a bay leaves eligibility. -/

namespace Sys2Proof.Machine

/-! ### Eligibility, by a bay's state, binding and order -/

theorem State.orderOf?_eq_some_iff {s : State} {b : BayNo} {o : Order} :
    s.orderOf? b = some o ↔ ∃ tag, (s.bay b).boundOrder = some tag ∧ s.order? tag = some o := by
  unfold State.orderOf?
  cases (s.bay b).boundOrder with
  | none => simp
  | some tag => simp

/-- The tag of a bay's order is the one it is bound to. -/
theorem State.order?_of_orderOf? {s : State} {b : BayNo} {o : Order} (h : s.orderOf? b = some o) :
    (s.bay b).boundOrder = some o.tag ∧ s.order? o.tag = some o := by
  obtain ⟨tag, hb, ho⟩ := State.orderOf?_eq_some_iff.mp h
  obtain rfl := s.tag_of_order? ho
  exact ⟨hb, ho⟩

/-- R88: a bay stays eligible while its state and binding stand and its order stays live and is not released. -/
theorem State.eligible_of_order {s t : State} {b : BayNo} (hstate : (t.bay b).state = (s.bay b).state)
    (hbound : (t.bay b).boundOrder = (s.bay b).boundOrder)
    (horder : ∀ tag o, (s.bay b).boundOrder = some tag → s.order? tag = some o → o.state.live = true →
      o.released = false → ∃ p, t.order? tag = some p ∧ p.state.live = true ∧ p.released = false)
    (he : s.eligible b = true) : t.eligible b = true := by
  obtain ⟨hb, o, ho, hlive, hrel⟩ := (s.eligible_iff b).mp he
  obtain ⟨tag, hbt, hot⟩ := State.orderOf?_eq_some_iff.mp ho
  obtain ⟨p, hp, hplive, hprel⟩ := horder tag o hbt hot hlive hrel
  exact (t.eligible_iff b).mpr ⟨hstate.trans hb, p, State.orderOf?_eq_some_iff.mpr ⟨tag, hbound.trans hbt, hp⟩, hplive,
    hprel⟩

theorem State.not_eligible_of_state {s : State} {b : BayNo} (h : (s.bay b).state ≠ .bound) : s.eligible b = false :=
  Bool.eq_false_of_not_eq_true fun he => h ((s.eligible_iff b).mp he).1

/-- R88: a bay whose order is not live is not eligible. -/
theorem State.not_eligible_of_order {s : State} {b : BayNo} {o : Order} (ho : s.orderOf? b = some o)
    (h : o.state.live = false) : s.eligible b = false := by
  refine Bool.eq_false_of_not_eq_true fun he => ?_
  obtain ⟨-, p, hp, hlive, -⟩ := (s.eligible_iff b).mp he
  obtain rfl := Option.some.inj (ho.symm.trans hp)
  rw [h] at hlive
  cases hlive

/-- Where the records agree, a bay that names an order is the one the order is bound to. -/
theorem RecordsExcept.only_bound {x : Option BayNo} {s : State} (h : RecordsExcept x s) {tag : Nat} {o : Order}
    (ho : s.order? tag = some o) {b c : BayNo} (hb : o.boundBay = some b) (hc : some c ≠ x)
    (ht : (s.bay c).boundOrder = some tag) : c = b := by
  obtain ⟨-, hbay⟩ := h.of_bound hc (s.mem_of_order? ho) (by rw [s.tag_of_order? ho]; exact ht)
  exact Option.some.inj (hbay.symm.trans hb)

section
variable {X : Set BayNo}

/-! ### Primitive updates -/

theorem State.updBay_shares (s : State) (b : BayNo) (f : BayRec → BayRec)
    (hs : ∀ r, (f r).state = r.state := by intro _; rfl)
    (hb : ∀ r, (f r).boundOrder = r.boundOrder := by intro _; rfl) : KeepsShares X s (s.updBay b f) :=
  .of_records (s.updBay_records b f hs hb) rfl (s.updBay_norise b f) le_rfl

/-- An update of a bay's record is no matter of the eligibility of another bay. -/
theorem State.updBay_shares_at (s : State) (b : BayNo) (f : BayRec → BayRec) : KeepsShares {b} s (s.updBay b f) := by
  refine ⟨rfl, rfl, rfl, fun _ => le_rfl, le_rfl, le_rfl, s.updBay_norise b f, fun c hc => ?_⟩
  have hbay : (s.updBay b f).bay c = s.bay c := State.bay_updBay_ne s f hc
  exact State.eligible_of_order (by rw [hbay]) (by rw [hbay]) fun tag o _ ho hlive hrel => ⟨o, ho, hlive, hrel⟩

theorem State.updLineBay_shares (s : State) (b : BayNo) (f : LineBay → LineBay)
    (h : ∀ l, (f l).exposure ≤ l.exposure := by exact fun _ => le_rfl) : KeepsShares X s (s.updLineBay b f) :=
  .of_records (s.updLineBay_records b f) rfl (s.updLineBay_norise b f h) le_rfl

theorem State.line_shares (s : State) (l : LineCtl) (h : l.bays = s.line.bays) : KeepsShares X s { s with line := l } :=
  .of_records (s.line_records l) rfl (s.line_norise l h) le_rfl

theorem State.freeLine_shares (s : State) : KeepsShares X s s.freeLine :=
  .of_records s.freeLine_records rfl s.freeLine_norise le_rfl

theorem State.runTo_shares (s : State) (t : Nat) : KeepsShares X s (s.runTo t) :=
  .of_records (s.runTo_records t) rfl (s.runTo_norise t) le_rfl

theorem State.reconcile_shares (s : State) (b : BayNo) : KeepsShares X s (s.reconcile b) :=
  .of_records (s.reconcile_records b) (by rw [State.reconcile_alloc]) (s.reconcile_norise b)
    (congrArg Feeder.effective (s.reconcile_feeder b)).ge

theorem State.withdrawWake_shares (s : State) (b : BayNo) : KeepsShares X s (s.withdrawWake b) :=
  .of_records (s.withdrawWake_records b) rfl (s.withdrawWake_norise b) le_rfl

/-- An order that keeps its tag, stays live where it was and is released no more than it was. -/
theorem State.updOrder_shares (s : State) (tag : Nat) (f : Order → Order)
    (ht : ∀ o, (f o).tag = o.tag := by intro _; rfl)
    (hl : ∀ o, o.state.live = true → (f o).state.live = true := by exact fun _ => id)
    (hr : ∀ o, (f o).released = o.released := by intro _; rfl) : KeepsShares X s (s.updOrder tag f) := by
  refine ⟨rfl, rfl, rfl, fun _ => le_rfl, le_rfl, le_rfl, s.updOrder_norise tag f, fun c _ => ?_⟩
  refine State.eligible_of_order rfl rfl fun other o _ ho hlive hrel => ?_
  by_cases e : other = tag
  · subst e
    exact ⟨f o, by rw [State.order?_updOrder s other f ht, ho, Option.map_some], hl o hlive, (hr o).trans hrel⟩
  · exact ⟨o, by rw [State.order?_updOrder_ne s f ht e, ho], hlive, hrel⟩

end

/-- An update under a tag asks for the records of that tag alone. -/
theorem State.updOrder_guarded (s : State) (tag : Nat) (f : Order → Order) :
    s.updOrder tag f = s.updOrder tag (fun o => if o.tag = tag then f o else o) := by
  have hmap : s.roster.map (fun o => if o.tag = tag then f o else o) =
      s.roster.map (fun o => if o.tag = tag then (if o.tag = tag then f o else o) else o) :=
    List.map_congr_left fun o _ => by split <;> rfl
  unfold State.updOrder
  rw [hmap]

/-- A record put under its own tag is found there, and the orders of other tags are found as before. -/
theorem State.order?_putOrder (s : State) {tag : Nat} {o' : Order} (ht : o'.tag = tag) (other : Nat) :
    (s.updOrder tag (fun _ => o')).order? other = if other = tag then (s.order? tag).map (fun _ => o') else
      s.order? other := by
  have hguard : ∀ o : Order, (if o.tag = tag then o' else o).tag = o.tag := by
    intro o
    split
    next e => rw [ht, e]
    next => rfl
  rw [State.updOrder_guarded]
  split
  next e =>
    subst e
    rw [State.order?_updOrder s other _ hguard]
    refine Option.map_congr fun o ho => if_pos (s.tag_of_order? ?_)
    exact ho
  next e => exact State.order?_updOrder_ne s _ hguard e

/-- An order that leaves the roster: the orders of other tags are found as before. -/
theorem find?_filter_tag (l : List Order) {tag other : Nat} (h : other ≠ tag) :
    (l.filter (fun x => x.tag != tag)).find? (fun x => x.tag == other) = l.find? (fun x => x.tag == other) := by
  rw [List.find?_filter]
  refine congrArg (fun p => l.find? p) (funext fun x => ?_)
  by_cases e : x.tag = other
  · simp [e, h]
  · simp [e]

section
variable {X : Set BayNo}

/-- Orders change, and no eligible bay in account is bound to one that does. -/
theorem KeepsShares.of_orders {s t : State} {tag : Nat} (hbays : t.bays = s.bays) (halloc : t.alloc = s.alloc)
    (hstore : t.store = s.store) (he : s.feeder.effective ≤ t.feeder.effective) (hn : NoRise s t)
    (horder : ∀ other, other ≠ tag → t.order? other = s.order? other)
    (hfree : ∀ c ∉ X, (s.bay c).boundOrder = some tag → s.eligible c = false) : KeepsShares X s t := by
  have hbay : ∀ c, t.bay c = s.bay c := fun c => by unfold State.bay; rw [hbays]
  have hcfg : t.cfg = s.cfg := congrArg Store.working hstore
  refine ⟨by rw [halloc], by rw [halloc], by rw [halloc], fun b => ?_, by rw [hcfg], he, hn, fun c hc hcs => ?_⟩
  · unfold State.rating
    rw [hcfg]
  · refine State.eligible_of_order (by rw [hbay]) (by rw [hbay]) (fun other o hb ho hlive hrel => ?_) hcs
    refine ⟨o, ?_, hlive, hrel⟩
    rw [horder other ?_, ho]
    rintro rfl
    rw [hfree c hc hb] at hcs
    cases hcs

/-! ### Closure and unbinding (R15, R18, R42) -/

/-- No bay that is bound to an order that is not live is eligible. -/
theorem State.free_of_not_live {s : State} {tag : Nat} (h : ∀ o, s.order? tag = some o → o.state.live = false)
    (c : BayNo) (hc : (s.bay c).boundOrder = some tag) : s.eligible c = false := by
  refine Bool.eq_false_of_not_eq_true fun he => ?_
  obtain ⟨-, o, ho, hlive, -⟩ := (s.eligible_iff c).mp he
  obtain ⟨other, hb, hot⟩ := State.orderOf?_eq_some_iff.mp ho
  obtain rfl := Option.some.inj (hc.symm.trans hb)
  rw [h o hot] at hlive
  cases hlive

theorem State.logOrder_shares (s : State) {o : Order} (h : ∀ p, s.order? o.tag = some p → p.state.live = false) :
    KeepsShares X s (s.logOrder o) :=
  .of_orders (tag := o.tag) rfl rfl rfl le_rfl (s.logOrder_norise o) (fun _ hne => find?_filter_tag s.roster hne)
    fun c _ => State.free_of_not_live h c

theorem State.enterLog_shares (s : State) {o : Order} (h : ∀ p, s.order? o.tag = some p → p.state.live = false) :
    KeepsShares X s (s.enterLog o) := by
  unfold State.enterLog
  split
  · exact s.logOrder_shares h
  · exact .of_orders (tag := o.tag) rfl rfl rfl le_rfl (.of_same rfl) (fun _ _ => rfl)
      fun c _ => State.free_of_not_live h c

/-- R15: the closure of an order that no eligible bay in account is bound to. -/
theorem State.closeOrder_shares (s : State) {tag : Nat} (out : CloseOutcome)
    (h : ∀ c ∉ X, (s.bay c).boundOrder = some tag → s.eligible c = false) :
    KeepsShares X s (s.closeOrder tag out) := by
  unfold State.closeOrder
  split
  · exact .refl s
  next o ho =>
    have htag : o.tag = tag := s.tag_of_order? ho
    have hput : KeepsShares X s (s.updOrder tag (fun _ => s.closedForm o out)) :=
      .of_orders (tag := tag) rfl rfl rfl le_rfl (s.updOrder_norise tag _)
        (fun other hne => by rw [State.order?_putOrder s (o' := s.closedForm o out) htag, if_neg hne]) h
    refine (hput.trans (State.append_shares _ _ _ _)).trans (State.enterLog_shares _ fun p hp => ?_)
    have hp : (s.updOrder tag (fun _ => s.closedForm o out)).order? o.tag = some p :=
      ((State.append_records _ _ _ _).order? _).symm.trans hp
    rw [htag, State.order?_putOrder s (o' := s.closedForm o out) htag, if_pos rfl, ho] at hp
    obtain rfl := Option.some.inj hp
    rfl

theorem State.updOrder_shares_of_free (s : State) {tag : Nat} (f : Order → Order)
    (h : ∀ c ∉ X, (s.bay c).boundOrder = some tag → s.eligible c = false)
    (ht : ∀ o, (f o).tag = o.tag := by intro _; rfl) : KeepsShares X s (s.updOrder tag f) :=
  .of_orders (tag := tag) rfl rfl rfl le_rfl (s.updOrder_norise tag f)
    (fun _ hne => State.order?_updOrder_ne s f ht hne) h

theorem State.unbindOrder_shares (s : State) {tag : Nat}
    (h : ∀ c ∉ X, (s.bay c).boundOrder = some tag → s.eligible c = false) : KeepsShares X s (s.unbindOrder tag) := by
  cases ho : s.order? tag with
  | none =>
    unfold State.unbindOrder
    rw [ho]
    exact .refl s
  | some o =>
    rw [State.unbindOrder_of_some ho]
    have hput : KeepsShares X s (s.updOrder tag Order.unbound) := s.updOrder_shares_of_free _ h
    split
    · exact hput.trans (State.append_shares _ _ _ _)
    · exact hput

end

theorem State.unbindBay_shares (s : State) (b : BayNo) : KeepsShares {b} s (s.unbindBay b) := by
  unfold State.unbindBay
  split
  · exact s.updBay_shares_at b _
  · exact (s.updBay_shares_at b _).trans (State.withdrawWake_shares _ b)

/-- R21: the order that a finished decrease closes is Closing, so its bay is not eligible. -/
theorem State.decreaseDone_shares {X : Set BayNo} (s : State) (b : BayNo) : KeepsShares X s (s.decreaseDone b) := by
  unfold State.decreaseDone
  split
  · exact .refl s
  next o ho =>
    split
    next h =>
      have hlive : o.state.live = false := by rw [h.1]; rfl
      obtain ⟨-, hfind⟩ := State.order?_of_orderOf? ho
      have hfree : ∀ c, (s.bay c).boundOrder = some o.tag → s.eligible c = false :=
        State.free_of_not_live fun p hp => by rwa [← Option.some.inj (hfind.symm.trans hp)]
      exact KeepsShares.of_not_eligible ((s.closeOrder_shares _ fun c _ => hfree c).trans (State.unbindBay_shares _ b))
        (State.not_eligible_of_order ho hlive)
    next => exact .refl s

/-! ### Binding (R12, R38 to R40) -/

/-- R40: a binding makes an order Charging and a bay Bound; no other bay leaves eligibility by it. -/
theorem State.bind_shares_at (s : State) (b : BayNo) (tag : Nat) : KeepsShares {b} s (s.bind b tag) :=
  (s.updBay_shares_at b _).trans (State.updOrder_shares _ tag (Order.boundTo b) (fun _ => rfl) (fun _ _ => rfl))

section
variable {X : Set BayNo}

/-- R39: the binding check binds to an Unmatched bay, which is not eligible. -/
theorem State.bindingCheckOrder_shares (s : State) (tag : Nat) : KeepsShares X s (s.bindingCheckOrder tag) := by
  have hbind : ∀ {key : Nat} {b : BayNo}, b ∈ s.unmatchedWith key → KeepsShares X s (s.bind b tag) := by
    intro key b hb
    refine (s.bind_shares_at b tag).of_not_eligible (State.not_eligible_of_state ?_)
    rw [State.unmatchedWith, List.mem_filter, Bool.and_eq_true, beq_iff_eq] at hb
    rw [hb.2.1]
    simp
  unfold State.bindingCheckOrder
  split
  · exact .refl s
  · split
    · split
      next hb => exact hbind hb
      next => exact .foldl (fun t x => t.append_shares _ _ _) _ s
    · split
      next => exact .refl s
      next b l hl => exact hbind (hl ▸ List.mem_cons_self)

end

/-- R38: the binding check at an admission acts on the admitting bay. -/
theorem State.bindingCheckAdmission_shares (s : State) (b : BayNo) (key : Nat) :
    KeepsShares {b} s (s.bindingCheckAdmission b key) := by
  unfold State.bindingCheckAdmission
  dsimp only
  split
  · exact (s.updBay_shares_at b _).trans (State.append_shares _ _ _ _)
  · split
    · exact s.bind_shares_at b _
    · exact (s.updBay_shares_at b _).trans (State.append_shares _ _ _ _)

/-! ### Counters and frames (R17, R27 to R41) -/

section
variable {X : Set BayNo}

theorem State.takeCounter_shares (s : State) (b : BayNo) (reading : Nat) : KeepsShares X s (s.takeCounter b reading) := by
  unfold State.takeCounter
  split
  · exact .refl s
  · split
    · split
      · exact s.updOrder_shares _ _
      · refine KeepsShares.trans ?_ (State.updBay_shares _ b _)
        exact s.updOrder_shares _ _
    · exact .refl s

theorem State.identityConflict_shares (s : State) (b : BayNo) : KeepsShares X s (s.identityConflict b) := by
  unfold State.identityConflict
  split
  · exact .refl s
  · exact (s.updBay_shares b _).trans (State.append_shares _ _ _ _)

theorem State.clearWakeFailed_shares (s : State) (b : BayNo) : KeepsShares X s (s.clearWakeFailed b) := by
  unfold State.clearWakeFailed
  split
  · exact s.updOrder_shares _ _
  · exact .refl s

theorem State.countFrame_shares (s : State) (b : BayNo) : KeepsShares X s (s.countFrame b) :=
  (s.updBay_shares b _).trans (State.clearWakeFailed_shares _ b)

theorem State.boundFrame_shares (s : State) (b : BayNo) (f : VanFrame) : KeepsShares X s (s.boundFrame b f) := by
  unfold State.boundFrame
  split
  · split
    · exact (s.countFrame_shares b).trans (State.updBay_shares _ b _)
    · exact s.countFrame_shares b
    · exact s.countFrame_shares b
  · exact s.identityConflict_shares b

end

theorem State.completeAdmission_shares (s : State) (b : BayNo) : KeepsShares {b} s (s.completeAdmission b) := by
  unfold State.completeAdmission
  dsimp only
  split
  · exact (s.updBay_shares b _).trans (State.bindingCheckAdmission_shares _ b _)
  · exact s.updBay_shares b _

theorem State.admittingFrame_shares (s : State) (b : BayNo) (f : VanFrame) : KeepsShares {b} s (s.admittingFrame b f) := by
  unfold State.admittingFrame
  split
  case h_1 | h_4 | h_5 | h_6 | h_9 | h_10 => exact s.updBay_shares b _
  case h_2 | h_3 | h_8 | h_11 => exact .refl s
  case h_7 => exact s.completeAdmission_shares b

theorem State.returnToBound_shares (s : State) (b : BayNo) : KeepsShares {b} s (s.returnToBound b) :=
  (((s.updBay_shares_at b _).trans (State.clearWakeFailed_shares _ b)).trans (State.withdrawWake_shares _ b)).trans
    (State.append_shares _ _ _ _)

theorem State.dormantFrame_shares (s : State) (b : BayNo) (f : VanFrame) : KeepsShares {b} s (s.dormantFrame b f) := by
  unfold State.dormantFrame
  split
  · exact (s.returnToBound_shares b).trans (State.boundFrame_shares _ b f)
  · exact s.identityConflict_shares b

theorem State.wakingFrame_shares (s : State) (b : BayNo) (f : VanFrame) : KeepsShares {b} s (s.wakingFrame b f) := by
  unfold State.wakingFrame
  split
  · exact (s.returnToBound_shares b).trans (State.boundFrame_shares _ b _)
  · split
    · exact .refl s
    · exact s.identityConflict_shares b
  · exact .refl s

/-- R27: a frame takes a bay out of no state it was eligible in; in every other state the bay has no target. -/
theorem State.takeFrame_shares {X : Set BayNo} (s : State) (b : BayNo) (f : VanFrame) :
    KeepsShares X s (s.takeFrame b f) := by
  have hidle : ∀ {t : State}, (s.bay b).state ≠ .bound → KeepsShares {b} s t → KeepsShares X s t :=
    fun hs h => h.of_not_eligible (State.not_eligible_of_state hs)
  unfold State.takeFrame
  split
  · split
    case h_1 hs _ => exact hidle (by rw [hs]; simp) (s.updBay_shares_at b _)
    case h_4 hs _ => exact hidle (by rw [hs]; simp) (s.admittingFrame_shares b _)
    case h_5 =>
      split
      · exact s.updBay_shares b _
      · exact .refl s
    case h_8 => exact s.boundFrame_shares b _
    case h_9 hs _ => exact hidle (by rw [hs]; simp) (s.dormantFrame_shares b _)
    case h_10 hs _ => exact hidle (by rw [hs]; simp) (s.wakingFrame_shares b _)
    case h_2 | h_3 | h_6 | h_7 | h_11 | h_12 | h_13 => exact .refl s
  · exact .refl s

/-! ### Plug reactions (R29 to R31) -/

theorem State.attach_shares (s : State) (b : BayNo) : KeepsShares {b} s (s.attach b) :=
  (s.updBay_shares_at b _).trans (State.append_shares _ _ _ _)

/-- R31: a plug-out takes the bay out of eligibility; where the records agree, no other bay names its order. -/
theorem State.plugOut_targets {s : State} (h : RecordsExcept none s) (b : BayNo) : KeepsTargets s (s.plugOut b) := by
  unfold State.plugOut
  dsimp only
  refine KeepsShares.leaves (KeepsShares.trans (KeepsShares.trans ?_ (State.updBay_shares_at _ b _))
    (State.append_shares _ _ _ _))
  split
  next o ho =>
    obtain ⟨hfind, -, hbay⟩ := h.orderOf? (by simp) ho
    exact s.closeOrder_shares _ fun c hc ht => absurd (h.only_bound hfind hbay (by simp) ht) hc
  next => exact .refl s

theorem State.plugOutFaulted_shares (s : State) (b : BayNo) (wasIn : Bool)
    (hs : (s.bay b).state = .faulted) (h : RecordsExcept none s) :
    KeepsShares ∅ s (s.plugOutFaulted b wasIn) := by
  unfold State.plugOutFaulted
  split
  next o ho =>
    obtain ⟨hfind, -, hbay⟩ := h.orderOf? (by simp) ho
    refine KeepsShares.of_not_eligible ?_ (State.not_eligible_of_state (b := b) (by rw [hs]; simp))
    refine ((s.closeOrder_shares _ fun c hc ht => ?_).trans (State.updBay_shares_at _ b _)).trans
      (State.append_shares _ _ _ _)
    exact absurd (h.only_bound hfind hbay (by simp) ht) hc
  · split
    · exact s.append_shares _ _ _
    · exact .refl s

theorem State.plugReaction_targets {s : State} (h : RecordsExcept none s) (b : BayNo) (plugIn wasIn : Bool) :
    KeepsTargets s (s.plugReaction b plugIn wasIn) := by
  have hidle : ∀ {t : State}, (s.bay b).state ≠ .bound → KeepsShares {b} s t → KeepsTargets s t :=
    fun hs k => KeepsShares.keeps (k.of_not_eligible (State.not_eligible_of_state hs))
  unfold State.plugReaction
  split
  case h_1 hs => exact hidle (by rw [hs]; simp) (s.updBay_shares_at b _)
  case h_2 hs | h_3 hs => exact hidle (by rw [hs]; simp) (s.attach_shares b)
  case h_4 | h_5 | h_6 | h_7 | h_8 | h_9 | h_10 | h_11 => exact .refl s
  case h_12 | h_13 | h_14 | h_15 | h_16 | h_17 => exact State.plugOut_targets h b
  case h_18 hs => exact (s.plugOutFaulted_shares b wasIn hs h).keeps

theorem State.bayTakesStatus_targets {s : State} (h : RecordsExcept none s) (b : BayNo) (st : PostStatus) :
    KeepsTargets s (s.bayTakesStatus b st) := by
  have hdata : KeepsShares ∅ s (s.updBay b (fun r =>
      { r with plugIn := st.plugIn, output := st.output, counter := st.counter, limit := st.limit })) :=
    s.updBay_shares b _
  exact (hdata.trans (State.takeCounter_shares _ b _)).keeps.trans
    (State.plugReaction_targets (((s.updBay_keeps b _).trans (State.takeCounter_keeps _ b _)) h) b _ _)

/-! ### Timers and faults (R36, R43, R112, R120) -/

theorem State.admissionTimeout_shares {X : Set BayNo} {s : State} {b : BayNo} (hs : (s.bay b).state = .admitting) :
    KeepsShares X s (s.admissionTimeout b) :=
  ((s.updBay_shares_at b _).trans (State.append_shares _ _ _ _)).of_not_eligible
    (State.not_eligible_of_state (by rw [hs]; simp))

/-- R112: a bay that becomes Dormant leaves eligibility. -/
theorem State.becomeDormant_targets (s : State) (b : BayNo) : KeepsTargets s (s.becomeDormant b) :=
  KeepsShares.leaves ((s.updBay_shares_at b _).trans (State.append_shares _ _ _ _))

theorem State.wakeTryFailed_shares {X : Set BayNo} (s : State) (b : BayNo) : KeepsShares X s (s.wakeTryFailed b) := by
  unfold State.wakeTryFailed
  split
  · exact .refl s
  · split
    · exact .refl s
    · split
      · exact s.updBay_shares b _
      · refine KeepsShares.trans ?_ (State.append_shares _ _ _ _)
        refine KeepsShares.trans ?_ (State.updOrder_shares _ _ _)
        exact s.updBay_shares b _
      · exact .refl s

theorem State.wakeWindowOver_shares {X : Set BayNo} {s : State} {b : BayNo} (hs : (s.bay b).state = .waking) :
    KeepsShares X s (s.wakeWindowOver b) :=
  ((s.updBay_shares_at b _).trans (State.wakeTryFailed_shares _ b)).of_not_eligible
    (State.not_eligible_of_state (by rw [hs]; simp))

/-- R43: a bay that becomes Faulted leaves eligibility; the order that is closed with it is Closing. -/
theorem State.faultReport_targets (s : State) (b : BayNo) : KeepsTargets s (s.faultReport b) := by
  have hf : KeepsShares {b} s (s.updBay b BayRec.toFaulted) := s.updBay_shares_at b _
  unfold State.faultReport
  split
  · exact .refl s
  · dsimp only
    refine KeepsTargets.trans (KeepsShares.leaves ?_) (KeepsShares.keeps (State.heldCheck_shares _))
    split
    next o ho =>
      obtain ⟨-, hfind⟩ := State.order?_of_orderOf? ho
      split
      next hc =>
        refine (hf.trans (State.closeOrder_shares _ _ fun c _ => State.free_of_not_live (fun p hp => ?_) c)).trans
          (State.updBay_shares_at _ b _)
        rw [← Option.some.inj (hfind.symm.trans hp), hc]
        rfl
      next => exact hf
    next => exact hf

theorem State.faultLimit_targets (s : State) (b : BayNo) : KeepsTargets s (s.faultLimit b) :=
  (KeepsShares.keeps ((s.append_shares _ _ _).trans (State.updLineBay_shares _ b _))).trans
    (State.faultReport_targets _ b)

/-! ### ClearBay (R45) -/

/-- R45 steps 1 and 2: the bay turned Off, its line record cleared. -/
theorem State.turnedOffNoted_shares (s : State) (b : BayNo) : KeepsShares {b} s (s.turnedOffNoted b) := by
  have hoff : KeepsShares {b} s (s.turnedOff b) := by
    have hbay := (s.updBay_shares_at b (fun r => { r.stopWake with state := .off, step := none, admTimer := none })).trans
      (State.updLineBay_shares _ b (fun _ => LineBay.reset) (fun _ => LineBay.exposure_closed (Nat.zero_le _) rfl))
    exact hbay.trans (State.line_shares _ _ rfl)
  unfold State.turnedOffNoted
  split
  · exact hoff
  · exact hoff.trans (State.heldCheck_shares _)

/-- R45 step 3: the order of the bay is closed, or unbound and bound anew; where the records agree no other bay names
it. -/
theorem State.clearBayOrder_shares {s : State} (h : RecordsExcept none s) (b : BayNo) :
    KeepsShares {b} s (s.clearBayOrder b) := by
  unfold State.clearBayOrder
  split
  · exact .refl s
  next o ho =>
    obtain ⟨hfind, -, hbay⟩ := h.orderOf? (by simp) ho
    have hfree : ∀ c ∉ ({b} : Set BayNo), (s.bay c).boundOrder = some o.tag → s.eligible c = false :=
      fun c hc ht => absurd (h.only_bound hfind hbay (by simp) ht) hc
    split
    · exact s.closeOrder_shares _ hfree
    · exact (s.unbindOrder_shares hfree).trans (State.bindingCheckOrder_shares _ _)

theorem State.turnedOffNoted_keeps (s : State) (b : BayNo) : KeepsRecords s (s.turnedOffNoted b) := by
  have hline := (s.updBay_keeps b (fun r => { r.stopWake with state := .off, step := none, admTimer := none })).trans
    (State.clearLine_keeps _ b)
  rw [State.clearLine_turnsOff] at hline
  exact hline

/-- R45: the bay leaves eligibility at its first step; its record is cleared when it is Off. -/
theorem State.clearBay_targets {s : State} (h : RecordsExcept none s) (b : BayNo) : KeepsTargets s (s.clearBay b) := by
  rw [State.clearBay_eq]
  refine KeepsTargets.trans (KeepsShares.leaves ((s.turnedOffNoted_shares b).trans
    (State.clearBayOrder_shares (s.turnedOffNoted_keeps b h) b))) (KeepsShares.keeps ?_)
  refine (State.updBay_shares_at _ b _).of_not_eligible (State.not_eligible_of_state ?_)
  rw [(s.clearBay_leaves b).bay, State.bay_turnedOff]
  simp

end Sys2Proof.Machine
end

section
/-! PROOFS. The Line controller keeps the laws of the targets: what it sends, the outcomes it takes, the post status. -/

namespace Sys2Proof.Machine

/-! ### Sending (R126, R132) -/

/-- R132: the exposure of a started exchange rises in its own bay, and is noted. -/
theorem State.start_targets (s : State) (b : BayNo) (x : Exchange) : KeepsTargets s (s.start b x) :=
  SameRecords.noted ((s.updLineBay_records b _).trans (State.carry_records _ b x false)) b rfl rfl fun c hc => by
    rw [State.exposure_eq, State.carry_lineBay, ← State.exposure_eq, s.exposure_updLineBay_ne _ hc]

/-- The pending exchange that is started is taken from its bay's line record first. -/
theorem State.startTaken_targets (s : State) (b : BayNo) (x : Exchange) (f : LineBay → LineBay)
    (hf : ∀ l, (f l).exposure ≤ l.exposure := by exact fun _ => le_rfl) :
    KeepsTargets s ((s.updLineBay b f).start b x) :=
  (KeepsShares.keeps (s.updLineBay_shares b f hf)).trans (State.start_targets _ b x)

theorem State.resend_shares {X : Set BayNo} (s : State) (b : BayNo) {o : OpenX} (ho : (s.lineBay b).opn = some o) :
    KeepsShares X s (s.resend b o) :=
  .of_records (s.resend_records b o) rfl ((s.updLineBay_norise_at b _ (LineBay.exposure_what
    ((s.lineBay b).sent_held _ _) (by rw [ho]; rfl))).trans (State.carry_norise _ _ _ false)) le_rfl

theorem State.repeatSending_shares {X : Set BayNo} (s : State) (b : BayNo) (x : Exchange) :
    KeepsShares X s (s.repeatSending b x) :=
  .of_records (s.repeatSending_records b x) rfl (s.repeatSending_norise b x) le_rfl

/-! ### The service order (R134 to R140) -/

theorem State.serveRetry_targets (s : State) : KeepsTargets s s.serveRetry := by
  unfold State.serveRetry
  split
  · split
    next ho => exact (s.resend_shares _ ho).keeps
    next => exact .refl s
  · exact .refl s

theorem State.serveDecrease_targets (s : State) : KeepsTargets s s.serveDecrease := by
  unfold State.serveDecrease
  split
  · split
    · exact s.startTaken_targets _ _ _
    · exact .refl s
  · exact .refl s

theorem State.serveItem_targets (s : State) (i : ServiceItem) : KeepsTargets s (s.serveItem i) := by
  unfold State.serveItem
  split
  · exact .refl s
  · split
    · split
      · split
        · exact s.startTaken_targets _ _ _
        · exact (s.withdrawWake_shares _).keeps
      · exact .refl s
    · split
      · split
        · exact s.startTaken_targets _ _ _
        · exact .refl s
      · exact .refl s

theorem State.serveIncrease_targets (s : State) : KeepsTargets s s.serveIncrease := by
  unfold State.serveIncrease
  split
  · split
    · exact s.startTaken_targets _ _ _
    · exact .refl s
  · exact .refl s

theorem State.serveKeepAlive_targets (s : State) : KeepsTargets s s.serveKeepAlive := by
  unfold State.serveKeepAlive
  split
  · exact s.start_targets _ _
  · exact .refl s

theorem State.serveProbe_targets (s : State) : KeepsTargets s s.serveProbe := by
  unfold State.serveProbe
  split
  · split
    · refine KeepsTargets.trans (KeepsShares.keeps (s.line_shares _ ?_)) (State.start_targets _ _ _)
      rfl
    · exact .refl s
  · exact .refl s

theorem State.servePoll_targets (s : State) : KeepsTargets s s.servePoll := by
  unfold State.servePoll
  split
  · refine KeepsTargets.trans (KeepsShares.keeps (s.line_shares _ ?_)) (State.start_targets _ _ _)
    rfl
  · refine KeepsTargets.trans (KeepsShares.keeps (s.line_shares _ ?_)) (State.serveProbe_targets _)
    rfl

theorem State.ifFree_targets (s : State) {f : State → State} (h : ∀ t, KeepsTargets t (f t)) :
    KeepsTargets s (s.ifFree f) := by
  unfold State.ifFree
  split
  · exact .refl s
  · exact h s

/-- R134: a selection. -/
theorem State.settle_targets (s : State) : KeepsTargets s s.settle :=
  s.ifFree_targets fun t => ((((((t.ifFree_targets State.serveRetry_targets).trans
    (State.ifFree_targets _ State.serveDecrease_targets)).trans
    (State.ifFree_targets _ fun u => .foldl State.serveItem_targets _ u)).trans
    (State.ifFree_targets _ State.serveIncrease_targets)).trans (State.ifFree_targets _ State.serveKeepAlive_targets)).trans
    (State.ifFree_targets _ State.serveProbe_targets)).trans (State.ifFree_targets _ State.servePoll_targets)

theorem KeepsTargets.settles {s t : State} (h : KeepsTargets s t) : KeepsTargets s t.settle := h.trans t.settle_targets

/-! ### Final outcomes (R130, R131, R143) -/

theorem State.count_shares {X : Set BayNo} (s : State) (b : BayNo) (o : PostOutcome) : KeepsShares X s (s.count b o) := by
  refine .of_records (s.count_records b o) ?_ (s.count_norise b o) ?_ <;> unfold State.count <;> split
  · rfl
  · rfl
  · exact le_rfl
  · exact le_rfl

theorem State.endExchange_shares {X : Set BayNo} (s : State) (b : BayNo) : KeepsShares X s (s.endExchange b) :=
  .of_records (s.endExchange_records b) rfl (s.endExchange_norise b) le_rfl

theorem State.endGrant_targets (s : State) (b : BayNo) (before : Nat) : KeepsTargets s (s.endGrant b before) :=
  (KeepsShares.keeps ((s.updLineBay_shares b (fun l => { l with increase := false })).trans
    (State.endExchange_shares _ b))).trans (State.noteExposure_targets _ b before)

/-- A fault limit that is acted on where it is reached. -/
theorem KeepsTargets.faults {s t : State} (h : KeepsTargets s t) (b : BayNo) :
    KeepsTargets s (if t.atFaultLimit b then t.faultLimit b else t) := by
  split
  · exact h.trans (t.faultLimit_targets b)
  · exact h

/-- R131: what an accepted Grant leaves held was its bay's exposure before, so no exposure rises. -/
theorem State.finishGrant_targets (s : State) (b : BayNo) {v : Nat} {x : OpenX} (hx : (s.lineBay b).opn = some x)
    (hv : x.what = .grant v) (sentAt : Nat) (o : PostOutcome) : KeepsTargets s (s.finishGrant b v sentAt o) := by
  have hheld : KeepsShares ∅ s (s.updLineBay b (fun l => { l with held := if o = .accept then v else l.held })) :=
    .of_records (s.updLineBay_records b _) rfl
      (s.grantHeld_norise b hx hv (fun l => if o = .accept then v else l.held) (by split <;> omega)) le_rfl
  unfold State.finishGrant
  dsimp only
  have h1 := (hheld.trans (State.count_shares _ b o)).keeps
  generalize (s.updLineBay b (fun l => { l with held := if o = .accept then v else l.held })).count b o = s1 at h1 ⊢
  have h2 := (h1.faults b).trans (State.endGrant_targets _ b (s.exposure b))
  generalize (if s1.atFaultLimit b then s1.faultLimit b else s1).endGrant b (s.exposure b) = s2 at h2 ⊢
  have h3 : KeepsTargets s (if ((s.lineBay b).increase && o == .refuse) then s2.refusedIncrease b else s2) := by
    split
    · exact h2.trans (State.refusedIncrease_targets _ b)
    · exact h2
  generalize (if ((s.lineBay b).increase && o == .refuse) then s2.refusedIncrease b else s2) = s3 at h3 ⊢
  split
  · exact h3
  · exact h3.trans (KeepsShares.keeps (((State.updLineBay_shares _ b _).trans (State.decreaseDone_shares _ b)).trans
      (State.reconcile_shares _ b)))

/-- R117: a bay that wakes was Dormant. -/
theorem State.wakeAccepted_shares {X : Set BayNo} (s : State) (b : BayNo) (period : Nat) :
    KeepsShares X s (s.wakeAccepted b period) := by
  unfold State.wakeAccepted
  dsimp only
  split
  next h =>
    exact KeepsShares.of_not_eligible ((s.updBay_shares_at b _).trans (State.updBay_shares_at _ b _))
      (State.not_eligible_of_state (by rw [h.1]; simp))
  next => exact s.updBay_shares b _

theorem State.wakeNotAccepted_shares {X : Set BayNo} (s : State) (b : BayNo) (period : Nat) :
    KeepsShares X s (s.wakeNotAccepted b period) := by
  unfold State.wakeNotAccepted
  dsimp only
  split
  · exact (s.updBay_shares b _).trans (State.wakeTryFailed_shares _ b)
  · exact s.updBay_shares b _

theorem State.endCounted_shares {X : Set BayNo} (s : State) (b : BayNo) (o : PostOutcome) :
    KeepsShares X s ((s.endExchange b).count b o) := (s.endExchange_shares b).trans (State.count_shares _ b o)

theorem State.finishWake_targets (s : State) (b : BayNo) (period : Nat) (o : PostOutcome) :
    KeepsTargets s (s.finishWake b period o) := by
  unfold State.finishWake
  dsimp only
  refine KeepsTargets.trans (s.endCounted_shares b o).keeps ?_
  split
  · exact (KeepsShares.keeps (State.updBay_shares _ b _)).trans (State.faultLimit_targets _ b)
  · split
    · exact (State.wakeAccepted_shares _ b period).keeps
    · exact (State.wakeNotAccepted_shares _ b period).keeps
    · exact (State.wakeNotAccepted_shares _ b period).keeps

theorem State.finishUnlock_targets (s : State) (b : BayNo) (age : Nat) (o : PostOutcome) :
    KeepsTargets s (s.finishUnlock b age o) := by
  unfold State.finishUnlock
  refine KeepsTargets.faults (KeepsShares.keeps ?_) b
  split
  · exact s.endCounted_shares b o
  · exact (s.endCounted_shares b o).trans (State.updLineBay_shares _ b _)

theorem State.finishPoll_targets (s : State) (b : BayNo) (o : PostOutcome) : KeepsTargets s (s.finishPoll b o) :=
  KeepsTargets.faults (s.endCounted_shares b o).keeps b

theorem State.finish_targets (s : State) (b : BayNo) (o : PostOutcome) : KeepsTargets s (s.finish b o) := by
  unfold State.finish
  split
  · exact s.finishPoll_targets b o
  case h_2 h => exact s.finishGrant_targets b h rfl _ o
  · exact s.finishWake_targets b _ o
  · exact s.finishUnlock_targets b _ o
  · exact s.freeLine_shares.keeps

/-! ### Windows and answers (R127 to R129) -/

theorem State.windowOver_targets (s : State) : KeepsTargets s s.windowOver := by
  unfold State.windowOver
  split
  · exact .refl s
  · split
    · exact s.freeLine_shares.keeps
    · split
      · exact s.finish_targets _ _
      · exact (s.repeatSending_shares _ _).keeps

theorem State.runWindow_targets (s : State) : KeepsTargets s s.runWindow := by
  unfold State.runWindow
  split
  · exact .refl s
  · exact (s.runTo_shares _).keeps.trans (State.windowOver_targets _)

theorem State.silence_targets (s : State) : KeepsTargets s s.silence := by
  unfold State.silence
  split
  · split
    · exact s.runWindow_targets
    · exact s.runWindow_targets.trans (State.runWindow_targets _)
  · exact .refl s

/-- R127: an answer keeps the laws when what takes it does. -/
theorem State.answer_targets (s : State) {take : State → State} (h : KeepsTargets s (take s)) :
    KeepsTargets s (s.answer take) := by
  unfold State.answer
  split
  · split
    · exact s.freeLine_shares.keeps
    · exact h
  · exact .refl s

theorem State.takeOutcome_targets (s : State) (b : BayNo) (k : Exchange → Bool) (o : PostOutcome) :
    KeepsTargets s (s.takeOutcome b k o) := by
  unfold State.takeOutcome
  split
  · split
    · exact s.silence_targets
    · exact s.answer_targets (s.finish_targets b _)
    · exact s.answer_targets (s.finish_targets b _)
  · exact .refl s

theorem State.defer_targets (s : State) (b : BayNo) {o : OpenX} (ho : (s.lineBay b).opn = some o) :
    KeepsTargets s (s.defer b o) := by
  unfold State.defer
  dsimp only
  split
  · exact s.finish_targets b _
  · refine KeepsShares.keeps (KeepsShares.trans ?_ (State.freeLine_shares _))
    exact .of_records (s.updLineBay_records b _) rfl
      (s.updLineBay_norise_at b _ (LineBay.exposure_what rfl (by rw [ho]; rfl))) le_rfl

theorem State.deferOpen_targets (s : State) (b : BayNo) : KeepsTargets s (s.deferOpen b) := by
  unfold State.deferOpen
  split
  case h_1 h => exact s.defer_targets b h
  · exact s.freeLine_shares.keeps

theorem State.takeDefer_targets (s : State) (b : BayNo) : KeepsTargets s (s.takeDefer b) := by
  unfold State.takeDefer
  split
  · exact s.answer_targets (s.deferOpen_targets b)
  · exact .refl s

/-! ### Post status (R141, R142) -/

/-- R141: a held grant that rises to the output is noted, and one that falls lets the exposure fall. -/
theorem State.lineTakesStatus_targets (s : State) (b : BayNo) (st : PostStatus) :
    KeepsTargets s (s.lineTakesStatus b st) := by
  have hfall : ∀ (l k : LineBay), k.held = 0 → k.opn = l.opn → k.exposure ≤ l.exposure :=
    fun l k hk ho => LineBay.exposure_le (hk ▸ Nat.zero_le l.held) ho
  unfold State.lineTakesStatus
  dsimp only
  split
  · exact (KeepsShares.keeps ((s.updLineBay_shares b _ (by exact fun l => hfall l _ rfl rfl)).trans
      (State.updBay_shares _ b _))).trans (State.noteExposure_targets _ b _)
  · split
    · refine SameRecords.noted ((s.updLineBay_records b _).trans (State.reconcile_records _ b)) b ?_ ?_ fun c hc => ?_
      · rw [State.reconcile_alloc]
        rfl
      · rw [State.reconcile_feeder]
        rfl
      · rw [(State.reconcile_moves _ b).exposure, s.exposure_updLineBay_ne _ hc]
    · split
      · exact ((KeepsShares.keeps (s.updLineBay_shares b _ (by exact fun l => hfall l _ rfl rfl))).trans
          (State.noteExposure_targets _ b _)).trans (State.decreaseDone_shares _ b).keeps
      · exact .refl s

theorem State.takeStatus_targets {s : State} (h : RecordsExcept none s) (b : BayNo) (st : PostStatus) :
    KeepsTargets s (s.takeStatus b st) := by
  unfold State.takeStatus
  dsimp only
  have hline := (s.endCounted_shares b .accept).keeps.trans (State.lineTakesStatus_targets _ b st)
  have hrecords := ((s.endExchange_records b).trans (State.count_records _ b .accept)).keeps.trans
    (State.lineTakesStatus_keeps _ b st)
  have hbay := hline.trans (State.bayTakesStatus_targets (hrecords h) b st)
  split
  · refine KeepsTargets.trans ?_ (State.reconcile_shares _ b).keeps
    split
    · exact hbay.trans (State.takeFrame_shares _ b _).keeps
    · exact hbay
  · split
    · exact hbay.trans (State.takeFrame_shares _ b _).keeps
    · exact hbay

theorem State.takePostStatus_targets {s : State} (h : RecordsExcept none s) (b : BayNo) (st : PostStatus) :
    KeepsTargets s (s.takePostStatus b st) := by
  unfold State.takePostStatus
  split
  · exact s.answer_targets (State.takeStatus_targets h b st)
  · exact .refl s

end Sys2Proof.Machine
end

section
/-! PROOFS. A round establishes the laws of the targets from the grants of its walk. -/

namespace Sys2Proof.Machine

/-! ### The steps before the caps are stored (R87, steps 1 to 4)

They keep the stored caps within the ratings. Which bays they leave eligible is no matter of the round's result, so every
bay's eligibility is left out of account. -/

theorem State.closeMissed_shares (s : State) (now : Nat) : KeepsShares Set.univ s (s.closeMissed now) :=
  .foldl (fun t _ => t.closeOrder_shares _ fun c hc => absurd (Set.mem_univ c) hc) _ s

theorem State.dropWindows_shares {X : Set BayNo} (s : State) (now : Nat) : KeepsShares X s (s.dropWindows now) := by
  unfold State.dropWindows
  exact s.feeder_shares _ le_rfl

theorem State.clearDormantDeferred_shares {X : Set BayNo} (s : State) : KeepsShares X s s.clearDormantDeferred :=
  .foldl (fun t _ => t.updOrder_shares _ _) _ s

theorem State.changePhase_shares (s : State) (now : Nat) (x : BayNo × Nat) :
    KeepsShares Set.univ s (s.changePhase now x) := by
  unfold State.changePhase
  split
  · exact .refl s
  · split
    · exact .refl s
    next st _ =>
      have hput : KeepsShares Set.univ s (s.updOrder x.2 (fun o =>
          { o with state := st, begun := if st = .conditioning then true else o.begun })) :=
        s.updOrder_shares_of_free _ fun c hc => absurd (Set.mem_univ c) hc
      dsimp only
      split
      · exact hput.trans (State.append_shares _ _ _ _)
      · exact hput

/-! ### The stored caps (R91) -/

theorem State.eligible_alloc (s : State) (a : Alloc) (b : BayNo) :
    State.eligible { s with alloc := a } b = s.eligible b := rfl

theorem State.available_alloc (s : State) (a : Alloc) : State.available { s with alloc := a } = s.available := rfl

/-- R91: the stored cap of each eligible bay is its order's cap. -/
def CapsStored (s : State) : Prop :=
  ∀ b o, s.eligible b = true → s.orderOf? b = some o → s.cap b = s.capOf b o

theorem State.storeCaps_stored (s : State) : CapsStored s.storeCaps := by
  intro b o he ho
  have heligible : s.storeCaps.eligible b = s.eligible b := by rw [s.storeCaps_alone]; exact s.eligible_alloc _ b
  have horder : s.storeCaps.orderOf? b = s.orderOf? b := by rw [s.storeCaps_alone]; rfl
  have hcap : s.storeCaps.capOf b o = s.capOf b o := by rw [s.storeCaps_alone]; rfl
  rw [heligible] at he
  rw [horder] at ho
  rw [State.cap_storeCaps, hcap, State.roundCap, ho]
  exact if_pos (.inl he)

/-- R55: a cap is within the rating, so stored caps stay within it. -/
theorem State.storeCaps_rated {s : State} (h : ∀ b, s.cap b ≤ s.rating b) (b : BayNo) :
    s.storeCaps.cap b ≤ s.storeCaps.rating b := by
  have hrating : s.storeCaps.rating b = s.rating b := by rw [s.storeCaps_alone]; rfl
  rw [State.cap_storeCaps, hrating, State.roundCap]
  split
  · split
    · exact Nat.min_le_left _ _
    · exact h b
  · exact h b

/-! ### The steps between the caps and the ranking (R87, steps 6 to 8) -/

/-- An order as its bay's cap and eligibility see it. -/
structure SameCapOrder (o p : Order) : Prop where
  tag : p.tag = o.tag
  state : p.state = o.state
  released : p.released = o.released
  conditioning : p.conditioning = o.conditioning
  begun : p.begun = o.begun

/-- The settings, the stored caps, and all that the eligibility and the cap of a bay rest on are the same. -/
structure SameCaps (s t : State) : Prop where
  store : t.store = s.store
  caps : t.alloc.caps = s.alloc.caps
  bay : ∀ b, (t.bay b).state = (s.bay b).state ∧ (t.bay b).boundOrder = (s.bay b).boundOrder ∧
    (t.bay b).limit = (s.bay b).limit ∧ (t.bay b).ovr = (s.bay b).ovr ∧ (t.bay b).pack = (s.bay b).pack
  order : ∀ tag p, t.order? tag = some p → ∃ o, s.order? tag = some o ∧ SameCapOrder o p

theorem SameCaps.refl (s : State) : SameCaps s s :=
  ⟨rfl, rfl, fun _ => ⟨rfl, rfl, rfl, rfl, rfl⟩, fun _ p hp => ⟨p, hp, rfl, rfl, rfl, rfl, rfl⟩⟩

theorem SameCaps.trans {s t u : State} (h : SameCaps s t) (k : SameCaps t u) : SameCaps s u := by
  refine ⟨k.store.trans h.store, k.caps.trans h.caps, fun b => ?_, fun tag q hq => ?_⟩
  · obtain ⟨h1, h2, h3, h4, h5⟩ := h.bay b
    obtain ⟨k1, k2, k3, k4, k5⟩ := k.bay b
    exact ⟨k1.trans h1, k2.trans h2, k3.trans h3, k4.trans h4, k5.trans h5⟩
  · obtain ⟨p, hp, k1, k2, k3, k4, k5⟩ := k.order tag q hq
    obtain ⟨o, ho, h1, h2, h3, h4, h5⟩ := h.order tag p hp
    exact ⟨o, ho, k1.trans h1, k2.trans h2, k3.trans h3, k4.trans h4, k5.trans h5⟩

theorem SameCaps.foldl {α : Type} {f : State → α → State} (h : ∀ s x, SameCaps s (f s x)) (l : List α) (s : State) :
    SameCaps s (l.foldl f s) := by
  induction l generalizing s with
  | nil => exact .refl s
  | cons x xs ih => exact (h s x).trans (ih (f s x))

/-- An update of neither settings, caps, bays nor orders. -/
theorem SameCaps.of_same {s t : State} (h1 : t.store = s.store) (h2 : t.alloc = s.alloc) (h3 : t.bays = s.bays)
    (h4 : t.roster = s.roster) : SameCaps s t := by
  refine ⟨h1, by rw [h2], fun b => ?_, fun tag p hp => ⟨p, ?_, rfl, rfl, rfl, rfl, rfl⟩⟩
  · unfold State.bay
    rw [h3]
    exact ⟨rfl, rfl, rfl, rfl, rfl⟩
  · unfold State.order? at hp ⊢
    rwa [h4] at hp

theorem State.append_sameCaps (s : State) (k : EventKind) (x : Option Subject) (e : Edge) :
    SameCaps s (s.append k x e) := by
  unfold State.append
  split <;> exact .of_same rfl rfl rfl rfl

theorem State.updOrder_sameCaps (s : State) (tag : Nat) (f : Order → Order)
    (hf : ∀ o, SameCapOrder o (f o) := by exact fun _ => ⟨rfl, rfl, rfl, rfl, rfl⟩) :
    SameCaps s (s.updOrder tag f) := by
  refine ⟨rfl, rfl, fun _ => ⟨rfl, rfl, rfl, rfl, rfl⟩, fun other p hp => ?_⟩
  by_cases e : other = tag
  · subst e
    rw [State.order?_updOrder s other f fun o => (hf o).tag] at hp
    obtain ⟨o, ho, rfl⟩ := Option.map_eq_some_iff.mp hp
    exact ⟨o, ho, hf o⟩
  · rw [State.order?_updOrder_ne s f (fun o => (hf o).tag) e] at hp
    exact ⟨p, hp, rfl, rfl, rfl, rfl, rfl⟩

theorem State.updBay_sameCaps (s : State) (b : BayNo) (f : BayRec → BayRec)
    (hf : ∀ r, (f r).state = r.state ∧ (f r).boundOrder = r.boundOrder ∧ (f r).limit = r.limit ∧ (f r).ovr = r.ovr ∧
      (f r).pack = r.pack := by exact fun _ => ⟨rfl, rfl, rfl, rfl, rfl⟩) : SameCaps s (s.updBay b f) := by
  refine ⟨rfl, rfl, fun c => ?_, fun _ p hp => ⟨p, hp, rfl, rfl, rfl, rfl, rfl⟩⟩
  by_cases hc : c = b
  · subst hc
    rw [State.bay_updBay]
    exact hf _
  · rw [State.bay_updBay_ne _ _ hc]
    exact ⟨rfl, rfl, rfl, rfl, rfl⟩

theorem State.setAtRisk_sameCaps (s : State) (now : Nat) (x : BayNo × Nat) : SameCaps s (s.setAtRisk now x) := by
  unfold State.setAtRisk
  split
  · exact .refl s
  · dsimp only
    split
    · exact .refl s
    · refine SameCaps.trans ?_ (State.append_sameCaps _ _ _ _)
      exact s.updOrder_sameCaps _ _

theorem State.handWake_sameCaps (s : State) (b : BayNo) : SameCaps s (s.handWake b) := by
  unfold State.handWake
  refine SameCaps.trans ?_ (State.updBay_sameCaps _ b _)
  exact .of_same rfl rfl rfl rfl

theorem State.wakeDecision_sameCaps (s : State) (now : Nat) (x : BayNo × Nat) : SameCaps s (s.wakeDecision now x) := by
  unfold State.wakeDecision
  split
  · exact .refl s
  · split
    · split
      · split
        · exact .refl s
        · exact (s.updBay_sameCaps _ _).trans (State.append_sameCaps _ _ _ _)
      · split
        · exact .refl s
        · exact s.handWake_sameCaps _
    · exact .refl s

theorem State.setDeferred_sameCaps (s : State) (now : Nat) : SameCaps s (s.setDeferred now) := by
  refine .foldl (fun t x => ?_) _ s
  split
  · exact .refl t
  · exact t.updOrder_sameCaps _ _

/-- R55: two states that agree on a bay and its order give it one cap. -/
theorem SameCaps.capOf {s t : State} (h : SameCaps s t) (b : BayNo) {o p : Order} (hp : SameCapOrder o p) :
    t.capOf b p = s.capOf b o := by
  obtain ⟨-, -, hlimit, hovr, hpack⟩ := h.bay b
  have hcfg : t.cfg = s.cfg := congrArg Store.working h.store
  have hindex : (t.bay b).index = (s.bay b).index := by
    unfold BayRec.index
    rw [hovr, hpack]
  have hcharge : t.chargeCap b = s.chargeCap b := by
    unfold State.chargeCap State.rating
    rw [hcfg, hindex, hovr]
  have hheater : t.heater b p = s.heater b o := by
    unfold State.heater State.packHeater State.cabinHeater Order.owes
    rw [hcfg, hindex, hp.state, hp.conditioning, hp.begun]
  unfold State.capOf State.rating
  rw [hcfg, hlimit, hcharge, hheater]

theorem SameCaps.stored {s t : State} (h : SameCaps s t) (k : CapsStored s) : CapsStored t := by
  intro b p he hp
  obtain ⟨hstate, hbound, -⟩ := h.bay b
  obtain ⟨tag, htag, hpt⟩ := State.orderOf?_eq_some_iff.mp hp
  obtain ⟨o, ho, hsame⟩ := h.order tag p hpt
  have hos : s.orderOf? b = some o := State.orderOf?_eq_some_iff.mpr ⟨tag, hbound.symm.trans htag, ho⟩
  obtain ⟨hb, q, hq, hlive, hrel⟩ := (t.eligible_iff b).mp he
  obtain rfl := Option.some.inj (hp.symm.trans hq)
  have hes : s.eligible b = true :=
    (s.eligible_iff b).mpr ⟨hstate.symm.trans hb, o, hos, hsame.state ▸ hlive, hsame.released ▸ hrel⟩
  rw [h.capOf b hsame, ← k b o hes hos]
  unfold State.cap
  rw [h.caps]

/-- R87: at its ranking a round has the caps of its eligible bays stored, and every stored cap within its rating. -/
theorem State.readied_stored {s : State} (h : ∀ b, s.cap b ≤ s.rating b) (now : Nat) :
    CapsStored (s.readied now) ∧ ∀ b, (s.readied now).cap b ≤ (s.readied now).rating b := by
  have hphases : ∀ t : State, KeepsShares Set.univ t (t.changePhases now) :=
    fun t => .foldl (fun u x => u.changePhase_shares now x) _ t
  have hbefore := (((s.closeMissed_shares now).trans ((s.closeMissed now).dropWindows_shares now)).trans
    (State.clearDormantDeferred_shares ((s.closeMissed now).dropWindows now))).trans (hphases _)
  have hafter : ∀ t : State, SameCaps t (((t.setAtRisks now).wakeDecisions now).setDeferred now) := fun t =>
    ((SameCaps.foldl (fun u x => u.setAtRisk_sameCaps now x) _ t).trans
      (SameCaps.foldl (fun u x => u.wakeDecision_sameCaps now x) _ _)).trans (State.setDeferred_sameCaps _ now)
  unfold State.readied
  generalize (((s.closeMissed now).dropWindows now).clearDormantDeferred).changePhases now = m at hbefore ⊢
  have hm : ∀ b, m.cap b ≤ m.rating b := fun b => by
    have hcap : m.cap b = s.cap b := by unfold State.cap; rw [hbefore.caps]
    exact hcap ▸ (h b).trans (hbefore.rating b)
  have hsame := hafter m.storeCaps
  refine ⟨hsame.stored m.storeCaps_stored, fun b => ?_⟩
  have hcap : (((m.storeCaps.setAtRisks now).wakeDecisions now).setDeferred now).cap b = m.storeCaps.cap b := by
    unfold State.cap
    rw [hsame.caps]
  have hrating : (((m.storeCaps.setAtRisks now).wakeDecisions now).setDeferred now).rating b = m.storeCaps.rating b := by
    unfold State.rating State.cfg
    rw [hsame.store]
  rw [hcap, hrating]
  exact State.storeCaps_rated hm b

/-! ### The grants as targets (R100 to R103) -/

/-- The bays of a walk each once: the grants of all bays are those of the walk. -/
theorem sum_grantOf {grants : List (BayNo × Nat)} (hn : (grants.map (fun g => g.1)).Nodup) :
    ∑ b : BayNo, grantOf grants b = (grants.map (fun g => g.2)).sum := by
  have hzero : ∀ b ∈ Finset.univ, b ∉ (grants.map (fun g => g.1)).toFinset → grantOf grants b = 0 :=
    fun b _ hb => grantOf_of_not_mem fun h => hb (List.mem_toFinset.mpr h)
  rw [← Finset.sum_subset (Finset.subset_univ _) hzero, List.sum_toFinset _ hn, List.map_map]
  exact congrArg List.sum (List.map_congr_left fun g hg => grantOf_of_mem hn hg)

theorem State.grants_nodup (s : State) (now : Nat) : ((s.grants now).map (fun g => g.1)).Nodup := by
  unfold State.grants
  rw [map_bay_grantWalk]
  exact s.ranked_nodup now

theorem State.sum_grants_le (s : State) (now : Nat) : ((s.grants now).map (fun g => g.2)).sum ≤ s.available :=
  sum_grantWalk_le _ _ _ _ _ _

/-- R96, R97, R101: a bay that is granted power is eligible; it is granted no sliver, and no more than its cap. -/
theorem State.grantOf_grants_pos {s : State} {now : Nat} {b : BayNo} (h : 0 < grantOf (s.grants now) b) :
    ∃ o, s.eligible b = true ∧ s.orderOf? b = some o ∧ s.cfg.postMin ≤ grantOf (s.grants now) b ∧
      grantOf (s.grants now) b ≤ s.capOf b o := by
  have hmem := mem_of_grantOf_pos h
  generalize grantOf (s.grants now) b = g at h hmem
  have hbays : (s.grants now).length = (s.ranked now).length := length_grantWalk _ _ _ _ _ _
  obtain ⟨i, hi, hget⟩ := List.mem_iff_getElem.mp hmem
  have hzip : ((s.ranked now)[i], (b, g)) ∈ (s.ranked now).zip (s.grants now) := by
    refine List.mem_iff_getElem.mpr ⟨i, by rw [List.length_zip]; omega, ?_⟩
    rw [List.getElem_zip, hget]
  obtain ⟨hranked, left, met, hgrant⟩ := mem_zip_grantWalk _ _ _ hzip
  dsimp only at hranked hgrant
  generalize (s.ranked now)[i] = e at hranked hgrant
  obtain ⟨c, o, he, ho, rfl⟩ := State.mem_ranked.mp hranked
  obtain ⟨rfl, rfl⟩ := Prod.mk.inj hgrant
  refine ⟨o, he, ho, (grantHere_zero_or_le _ _ _ _ _ _ (roundDemand_zero_or_le _ _ _)).resolve_left h.ne',
    (grantHere_le_demand _ _ _ _ _ _).trans (s.demand_le_capOf b o)⟩

theorem State.grantRound_frame (s : State) (now : Nat) :
    (∀ b, (s.grantRound now).eligible b = s.eligible b) ∧ (s.grantRound now).available = s.available ∧
      (s.grantRound now).cfg = s.cfg := by
  have hmoves := s.grantRound_moves now
  have hround : s.withRound ((s.ranked now).map (fun e => e.bay)) (s.grants now) =
      { s with alloc := (s.withRound ((s.ranked now).map (fun e => e.bay)) (s.grants now)).alloc } := rfl
  generalize (s.withRound ((s.ranked now).map (fun e => e.bay)) (s.grants now)).alloc = a at hround
  rw [hround] at hmoves
  have hstore : (s.grantRound now).store = s.store := by
    rw [hmoves.shares]
    rfl
  exact ⟨fun b => (hmoves.eligible b).trans (s.eligible_alloc a b), hmoves.available.trans (s.available_alloc a),
    congrArg Store.working hstore⟩

theorem State.cap_grantRound (s : State) (now : Nat) (b : BayNo) : (s.grantRound now).cap b = s.cap b := by
  unfold State.cap
  rw [State.grantRound_alloc]
  simp only [State.withRound]

theorem State.ranking_grantRound (s : State) (now : Nat) :
    (s.grantRound now).alloc.ranking = (s.ranked now).map (fun e => e.bay) := by
  rw [State.grantRound_alloc]
  simp only [State.withRound]

/-- R103: the grants of a walk, as targets, meet the laws. -/
theorem State.grantRound_targetsRight {s : State} (hstored : CapsStored s) (hrated : ∀ b, s.cap b ≤ s.rating b)
    (now : Nat) : (s.grantRound now).targetsRight := by
  obtain ⟨heligible, havailable, hcfg⟩ := s.grantRound_frame now
  refine ⟨?_, fun b => ⟨fun he => ?_, ?_, fun hpos => ?_⟩⟩
  · rw [havailable, State.eligibleTargets_eq]
    refine le_trans (Finset.sum_le_sum (g := fun b => grantOf (s.grants now) b) fun b _ => ?_)
      ((sum_grantOf (s.grants_nodup now)).trans_le (s.sum_grants_le now))
    rw [State.target_grantRound]
    split
    · exact le_rfl
    · exact Nat.zero_le _
  · rw [heligible] at he
    rw [State.target_grantRound]
    exact State.grantOf_grants_of_not_eligible he now
  · unfold State.rating
    rw [State.cap_grantRound, hcfg]
    exact hrated b
  · rw [State.target_grantRound] at hpos ⊢
    obtain ⟨o, he, ho, hmin, hmax⟩ := State.grantOf_grants_pos hpos
    rw [hcfg, State.cap_grantRound, State.ranking_grantRound, hstored b o he ho]
    exact ⟨hmin, hmax, State.mem_ranked_bays.mpr he⟩

/-- R87, R103: after a round the laws hold, whatever the targets were before. -/
theorem State.round_targets (s : State) : KeepsTargets s s.round := by
  intro hs
  cases hnow : s.now? with
  | none =>
    unfold State.round
    rw [hnow]
    exact hs
  | some now =>
    rw [State.round_of_now hnow]
    obtain ⟨hstored, hrated⟩ := State.readied_stored (targetsRight_iff.mp hs).1.rated now
    exact State.grantRound_targetsRight hstored hrated now

end Sys2Proof.Machine
end

section
/-! PROOFS. The Input unit, the Settings store and a reset keep the laws of the targets. -/

namespace Sys2Proof.Machine

/-! ### Input unit (R160 to R166) -/

section
variable {X : Set BayNo}

/-- Neither bays, orders, shares, settings nor exposures change, and the effective ceiling does not fall. -/
theorem KeepsShares.of_frame {s t : State} (hbays : t.bays = s.bays) (hroster : t.roster = s.roster)
    (halloc : t.alloc = s.alloc) (hstore : t.store.working = s.store.working)
    (hfeeder : t.feeder.effective = s.feeder.effective) (hline : t.line.bays = s.line.bays) : KeepsShares X s t := by
  have hbay : ∀ b, t.bay b = s.bay b := fun b => by unfold State.bay; rw [hbays]
  have horder : ∀ tag, t.order? tag = s.order? tag := fun tag => by unfold State.order?; rw [hroster]
  have hcfg : t.cfg = s.cfg := hstore
  refine ⟨by rw [halloc], by rw [halloc], by rw [halloc], fun b => ?_, by rw [hcfg], hfeeder.ge, .of_same hline,
    fun b _ => ?_⟩
  · unfold State.rating
    rw [hcfg]
  · exact State.eligible_of_order (by rw [hbay]) (by rw [hbay]) fun tag o _ ho hlive hrel =>
      ⟨o, (horder tag).trans ho, hlive, hrel⟩

/-- R180: settings that lower no rating and do not raise the post minimum. -/
theorem State.withWorking_shares (s : State) (w : Settings) (hr : ∀ b : BayNo, s.rating b ≤ w.rating[b])
    (hp : w.postMin ≤ s.cfg.postMin) : KeepsShares X s (s.withWorking w) :=
  ⟨rfl, rfl, rfl, hr, hp, le_rfl, .of_same rfl, fun _ _ => id⟩

theorem State.withInputCfg_shares (s : State) (y : InputNo) (c : InputCfg) : KeepsShares X s (s.withInputCfg y c) :=
  s.withWorking_shares _ (fun _ => le_rfl) le_rfl

theorem State.updInput_shares (s : State) (y : InputNo) (f : InputState → InputState) :
    KeepsShares X s (s.updInput y f) := .of_frame rfl rfl rfl rfl rfl rfl

theorem State.roleEvent_shares (s : State) (role : InputRole) (y : InputNo) (e : Edge) :
    KeepsShares X s (s.roleEvent role y e) := by
  cases role with
  | event | stop => exact s.append_shares _ _ _
  | derate => exact .refl s

end

theorem State.handRole_targets (s : State) (role : InputRole) : KeepsTargets s (s.handRole role) := by
  cases role with
  | event => exact .refl s
  | stop =>
    change KeepsTargets s s.handStop
    unfold State.handStop
    split
    · exact .refl s
    · exact s.recompute_targets _ rfl
  | derate =>
    change KeepsTargets s s.handDerate
    unfold State.handDerate
    split
    · exact .refl s
    · exact s.recompute_targets _ rfl

theorem State.actRole_targets (s : State) (y : InputNo) (e : Edge) : KeepsTargets s (s.actRole y e) :=
  (s.roleEvent_shares _ y e).keeps.trans (State.handRole_targets _ _)

theorem State.setFiltered_targets (s : State) (y : InputNo) (active : Bool) : KeepsTargets s (s.setFiltered y active) := by
  unfold State.setFiltered
  dsimp only
  split
  · exact (s.updInput_shares y _).keeps
  · split
    · exact KeepsTargets.trans ((s.updInput_shares y _).trans (State.updInput_shares _ y _)).keeps
        (State.actRole_targets _ y _)
    · exact KeepsTargets.trans (s.updInput_shares y _).keeps (State.actRole_targets _ y _)

theorem State.lineLevel_targets (s : State) (y : InputNo) (high : Bool) : KeepsTargets s (s.lineLevel y high) := by
  unfold State.lineLevel
  dsimp only
  split
  · exact .refl s
  · split
    · exact (s.updInput_shares y _).keeps
    · split
      · exact KeepsTargets.trans (s.updInput_shares y _).keeps (State.setFiltered_targets _ y _)
      · exact KeepsShares.keeps ((s.updInput_shares y _).trans (State.updInput_shares _ y _))

theorem State.filterOver_targets (s : State) (y : InputNo) (p : PendingChange) : KeepsTargets s (s.filterOver y p) :=
  KeepsTargets.trans (s.updInput_shares y _).keeps (State.setFiltered_targets _ y _)

theorem State.clearInputLatch_targets (s : State) (y : InputNo) : KeepsTargets s (s.clearInputLatch y) := by
  unfold State.clearInputLatch
  split
  · exact KeepsTargets.trans (s.updInput_shares y _).keeps (State.actRole_targets _ y _)
  · exact .refl s

theorem State.cfgActive_targets (s : State) (y : InputNo) (high : Bool) : KeepsTargets s (s.cfgActive y high) := by
  unfold State.cfgActive
  split
  · exact .refl s
  · exact KeepsTargets.trans ((s.withInputCfg_shares y _).trans (State.updInput_shares _ y _)).keeps
      (State.setFiltered_targets _ y _)

theorem State.cfgLatch_targets (s : State) (y : InputNo) (latch : Bool) : KeepsTargets s (s.cfgLatch y latch) := by
  unfold State.cfgLatch
  dsimp only
  split
  · exact .refl s
  · split
    · exact KeepsShares.keeps ((s.withInputCfg_shares y _).trans (State.updInput_shares _ y _))
    · have hclear := KeepsShares.keeps ((s.withInputCfg_shares y { s.inputCfg y with latch := latch }).trans
        (State.updInput_shares _ y (fun i => { i with latched := false })))
      split
      · exact hclear.trans (State.actRole_targets _ y _)
      · exact hclear

theorem State.cfgRole_targets (s : State) (y : InputNo) (role : InputRole) : KeepsTargets s (s.cfgRole y role) := by
  have hleft : KeepsShares ∅ s (if (s.input y).inForce then s.roleEvent (s.inputCfg y).role y .cleared else s) := by
    split
    · exact s.roleEvent_shares _ y _
    · exact .refl s
  unfold State.cfgRole
  dsimp only
  split
  · exact .refl s
  · generalize (if (s.input y).inForce then s.roleEvent (s.inputCfg y).role y .cleared else s) = left at hleft ⊢
    have hold := KeepsTargets.trans ((hleft.trans (left.withInputCfg_shares y { s.inputCfg y with role := role })).trans
      (State.updInput_shares _ y (fun i => { i with latched := false }))).keeps
      (State.handRole_targets _ (s.inputCfg y).role)
    split
    · exact (hold.trans (State.updInput_shares _ y _).keeps).trans (State.actRole_targets _ y _)
    · exact hold

theorem State.reconfigure_targets (s : State) (y : InputNo) (c : InputCfg) : KeepsTargets s (s.reconfigure y c) :=
  KeepsTargets.trans (((s.withInputCfg_shares y _).keeps.trans (State.cfgActive_targets _ y _)).trans
    (State.cfgLatch_targets _ y _)) (State.cfgRole_targets _ y _)

/-! ### Settings (R108, R180) -/

/-- Other settings and other stored caps, before any target follows them. -/
def State.withRule (s : State) (w : Settings) (caps : Vector Nat 24) : State :=
  { s with alloc := { s.alloc with caps := caps }, store := { s.store with working := w } }

theorem State.eligible_withRule (s : State) (w : Settings) (caps : Vector Nat 24) (b : BayNo) :
    (s.withRule w caps).eligible b = s.eligible b := rfl

theorem State.fits_withRule {s : State} (w : Settings) (caps : Vector Nat 24) (h : s.fits) :
    (s.withRule w caps).fits := h

theorem State.withRule_frame {s t : State} {w : Settings} {caps : Vector Nat 24}
    (m : MovesTargets (s.withRule w caps) t) : (∀ b, t.eligible b = s.eligible b) ∧ (∀ b : BayNo, t.cap b = caps[b]) ∧
      t.cfg = w ∧ t.alloc.ranking = s.alloc.ranking := by
  have hcaps : t.alloc.caps = caps := by
    rw [m.shares]
    rfl
  refine ⟨fun b => (m.eligible b).trans (s.eligible_withRule w caps b), fun b => ?_, ?_, ?_⟩
  · unfold State.cap
    rw [hcaps]
  · unfold State.cfg
    rw [m.shares]
    rfl
  · rw [m.shares]
    rfl

/-- R108: targets are lowered to meet a tightened setting. -/
theorem State.withRule_targets {s t : State} {w : Settings} {caps : Vector Nat 24} (m : MovesTargets (s.withRule w caps) t)
    (hle : ∀ b, t.target b ≤ s.target b) (hrated : s.targetsRight → ∀ b : BayNo, caps[b] ≤ w.rating[b])
    (hleast : s.targetsRight → ∀ b, 0 < t.target b → w.postMin ≤ t.target b)
    (hmost : s.targetsRight → ∀ b : BayNo, t.target b ≤ caps[b]) : KeepsTargets s t := by
  intro hs
  obtain ⟨hshares, hfits⟩ := targetsRight_iff.mp hs
  obtain ⟨heligible, hcap, hcfg, hranking⟩ := State.withRule_frame m
  refine targetsRight_iff.mpr ⟨⟨fun b hb he => ?_, fun b => ?_, fun b hb => ?_, fun b => ?_, fun b hb => ?_⟩, ?_⟩
  · rw [heligible] at he
    exact Nat.le_zero.mp (hshares.idle b hb he ▸ hle b)
  · unfold State.rating
    rw [hcap, hcfg]
    exact hrated hs b
  · rw [hcfg]
    exact hleast hs b hb
  · rw [hcap]
    exact hmost hs b
  · rw [hranking]
    exact hshares.ranked b (hb.trans_le (hle b))
  · exact m.fits hle (State.fits_withRule w caps hfits)

theorem State.dropSmall_moves (n : Nat) (s : State) (b : BayNo) : MovesTargets s (s.dropSmall n b) := by
  unfold State.dropSmall
  split
  · exact (s.withTarget_moves b 0).trans (State.reconcile_moves _ b)
  · exact .refl s

theorem targetUnder_le (n v : Nat) : targetUnder n v ≤ v := by
  unfold targetUnder
  split <;> omega

/-- R108: a raised post minimum takes the targets that lie under it. -/
theorem State.writePostMin_targets (s : State) (n : Nat) :
    KeepsTargets s ((List.finRange 24).foldl (State.dropSmall n) (s.withWorking { s.cfg with postMin := n })) := by
  have htarget : ∀ b, State.target ((List.finRange 24).foldl (State.dropSmall n)
      (s.withWorking { s.cfg with postMin := n })) b = targetUnder n (s.target b) :=
    fun b => (State.target_foldl_dropSmall n b _ _).trans (if_pos (List.mem_finRange b))
  have hmoves : MovesTargets (s.withRule { s.cfg with postMin := n } s.alloc.caps) _ :=
    .foldl (State.dropSmall_moves n) (List.finRange 24) (s.withWorking { s.cfg with postMin := n })
  refine State.withRule_targets hmoves (fun b => ?_) (fun hs => (targetsRight_iff.mp hs).1.rated) (fun _ b hb => ?_)
    (fun hs b => ?_)
  · rw [htarget]
    exact targetUnder_le n _
  · rw [htarget] at hb ⊢
    change n ≤ _
    unfold targetUnder at hb ⊢
    split at hb <;> split <;> omega
  · rw [htarget]
    exact (targetUnder_le n _).trans ((targetsRight_iff.mp hs).1.most b)

/-- R108: what a lowered rating leaves of the target of its bay. -/
def targetCut (postMin n v : Nat) : Nat := if n < v then (if postMin ≤ n then n else 0) else v

theorem targetCut_le (postMin n v : Nat) : targetCut postMin n v ≤ v ∧ targetCut postMin n v ≤ n := by
  unfold targetCut
  split
  · split <;> omega
  · omega

theorem targetCut_zero_or_le (n : Nat) {postMin v : Nat} (hv : 0 < v → postMin ≤ v) :
    targetCut postMin n v = 0 ∨ postMin ≤ targetCut postMin n v := by
  unfold targetCut
  split
  · split <;> omega
  · omega

theorem State.cap_cutCap_ne (s : State) {b c : BayNo} (n : Nat) (h : c ≠ b) : (s.cutCap b n).cap c = s.cap c := by
  unfold State.cutCap
  split
  · exact State.cap_withCap_ne s _ h
  · rfl

theorem State.lowerRating_moves (s : State) (b : BayNo) (n : Nat) :
    MovesTargets (s.cutCap b n) (s.lowerRating b n) := by
  rw [State.lowerRating_eq]
  split
  · exact (State.withTarget_moves _ b _).trans (State.reconcile_moves _ b)
  · exact .refl _

theorem State.target_lowerRating_ne (s : State) {b c : BayNo} (n : Nat) (h : c ≠ b) :
    (s.lowerRating b n).target c = s.target c := by
  rw [State.lowerRating_eq]
  split
  · rw [State.target_reconcile, State.target_withTarget_ne _ _ h, State.target_cutCap]
  · exact State.target_cutCap s b c n

/-- R108: a lowered rating cuts the stored cap of its bay, and the target to the rating or to 0. -/
theorem State.writeRating_targets (s : State) (b : BayNo) (n : Nat) :
    KeepsTargets s ((s.withWorking { s.cfg with rating := s.cfg.rating.set b n }).lowerRating b n) := by
  have hrule : (s.withWorking { s.cfg with rating := s.cfg.rating.set b n }).cutCap b n =
      s.withRule { s.cfg with rating := s.cfg.rating.set b n }
        ((s.withWorking { s.cfg with rating := s.cfg.rating.set b n }).cutCap b n).alloc.caps := by
    unfold State.cutCap
    split <;> rfl
  generalize hu : s.withWorking { s.cfg with rating := s.cfg.rating.set b n } = u at hrule ⊢
  have hmin : u.cfg.postMin = s.cfg.postMin := by rw [← hu]; rfl
  have hcap : ∀ c, u.cap c = s.cap c := fun c => by rw [← hu]; rfl
  have hold : ∀ c, u.target c = s.target c := fun c => by rw [← hu]; rfl
  have hrated : ∀ c : BayNo, (s.cfg.rating.set b n)[c] = if c = b then n else s.rating c := fun c => by
    simp [State.rating, Vector.getElem_set, Fin.ext_iff, eq_comm]
  have hcut : ∀ c : BayNo, (u.cutCap b n).alloc.caps[c] = if c = b then min (s.cap b) n else s.cap c := fun c => by
    change (u.cutCap b n).cap c = _
    split
    next e => rw [e, State.cap_cutCap, hcap]
    next e => rw [State.cap_cutCap_ne u n e, hcap]
  have htarget : ∀ c, (u.lowerRating b n).target c = if c = b then targetCut s.cfg.postMin n (s.target b) else
      s.target c := fun c => by
    split
    next e =>
      rw [e, State.target_lowerRating, hmin, hold]
      rfl
    next e => rw [State.target_lowerRating_ne u n e, hold]
  have hmoves := u.lowerRating_moves b n
  rw [hrule] at hmoves
  obtain ⟨hv, hn⟩ := targetCut_le s.cfg.postMin n (s.target b)
  refine State.withRule_targets hmoves (fun c => ?_) (fun hs c => ?_) (fun hs c => ?_) (fun hs c => ?_)
  · rw [htarget]
    split
    next e => exact e ▸ hv
    next => exact le_rfl
  · have hc := (targetsRight_iff.mp hs).1.rated c
    rw [hcut, hrated]
    split
    · exact Nat.min_le_right _ _
    · exact hc
  · have hleast := (targetsRight_iff.mp hs).1.least
    rw [htarget]
    split
    · exact fun hpos => (targetCut_zero_or_le n (hleast b)).resolve_left hpos.ne'
    · exact hleast c
  · have hmost := (targetsRight_iff.mp hs).1.most
    rw [htarget, hcut]
    split
    · exact le_min (hv.trans (hmost b)) hn
    · exact hmost c

/-- R180: a setting with a value of its shape is written. -/
theorem State.applySetting_targets (s : State) {id : SettingId} {v : SettingValue} (h : v.fits id = true) :
    KeepsTargets s (s.applySetting id v) := by
  have hplain : ∀ w : Settings, w.rating = s.cfg.rating → w.postMin = s.cfg.postMin →
      KeepsTargets s (s.withWorking w) := fun w hr hp =>
    KeepsShares.keeps (s.withWorking_shares w (fun b => by rw [hr]; exact le_rfl) hp.le)
  cases id with
  | input y =>
    cases v <;> cases h
    exact s.reconfigure_targets y _
  | postMin =>
    cases v <;> cases h
    rw [State.applySetting_postMin]
    split
    next n _ => exact s.writePostMin_targets n
    next hn => exact KeepsShares.keeps (s.withWorking_shares _ (fun _ => le_rfl) (Nat.le_of_not_lt hn))
  | rating b =>
    cases v <;> cases h
    rw [State.applySetting_rating]
    split
    next n _ => exact s.writeRating_targets b n
    next n hn =>
      refine KeepsShares.keeps (s.withWorking_shares _ (fun c => ?_) le_rfl)
      by_cases e : c = b
      · subst e
        simpa using Nat.le_of_not_lt hn
      · have hne : (b : Nat) ≠ c := fun e' => e (Fin.ext e'.symm)
        simp [State.rating, hne]
  | safeCeiling | derateCeiling =>
    cases v <;> cases h
    refine (hplain _ ?_ ?_).trans (State.recomputeCeiling_targets _) <;> rfl
  | mask p =>
    cases v <;> cases h
    cases p <;> exact hplain _ rfl rfl
  | _ =>
    cases v <;> cases h
    exact hplain _ rfl rfl

/-! ### Reset (R184) -/

/-- After a reset no bay is eligible, and nothing is allocated. -/
theorem State.resetTo_targetsRight (s : State) (image : Image) (n : Nat) : (s.resetTo image n).targetsRight := by
  have htarget : ∀ b, (s.resetTo image n).target b = 0 := fun b => by simp [State.target, State.resetTo, Alloc.reset]
  have hcap : ∀ b, (s.resetTo image n).cap b = 0 := fun b => by simp [State.cap, State.resetTo, Alloc.reset]
  have hnone : ∀ b, 0 < (s.resetTo image n).target b → False := fun b hb => by
    rw [htarget] at hb
    exact hb.false
  refine targetsRight_iff.mpr ⟨⟨fun b _ _ => htarget b, fun b => ?_, fun b hb => (hnone b hb).elim, fun b => ?_,
    fun b hb => (hnone b hb).elim⟩, ?_⟩
  · rw [hcap]
    exact Nat.zero_le _
  · rw [htarget]
    exact Nat.zero_le _
  · unfold State.fits
    rw [State.eligibleTargets_eq, Finset.sum_eq_zero fun b _ => by rw [htarget, ite_self]]
    exact Nat.zero_le _

theorem State.refreshAttention_shares {X : Set BayNo} (s : State) : KeepsShares X s s.refreshAttention :=
  .of_frame rfl rfl rfl rfl rfl rfl

theorem State.doReset_targets (s : State) : KeepsTargets s s.doReset := by
  intro _
  unfold State.doReset State.endStartUp
  dsimp only
  refine State.settle_targets _ ((State.refreshAttention_shares _).keeps ?_)
  split
  · exact s.resetTo_targetsRight _ _
  · exact (State.append_shares _ _ _ _).keeps (s.resetTo_targetsRight _ _)

end Sys2Proof.Machine
end

section
/-! PROOFS. The requests keep the laws of the targets, port by port. -/

namespace Sys2Proof.Machine

/-! ### Answers, timers and the owners that change no share -/

section
variable {X : Set BayNo}

theorem State.withSlot_shares (s : State) (p : Port) (x : Slot) : KeepsShares X s (s.withSlot p x) := by
  cases p <;> exact .of_frame rfl rfl rfl rfl rfl rfl

theorem State.startRoundTimer_shares (s : State) : KeepsShares X s s.startRoundTimer :=
  .of_records (.of_same rfl rfl rfl rfl rfl rfl) rfl (.of_same rfl) le_rfl

end

/-- R173: a request is served as its owner keeps the laws. -/
theorem State.serve_targets (s : State) (r : Req) (code : Byte) (permits : Port → Bool)
    (owner : List Byte → State → State × Reply) (h : KeepsTargets s (owner r.body s).1) :
    KeepsTargets s (s.serve r code permits owner) := by
  unfold State.serve
  dsimp only
  split
  · exact .refl s
  all_goals
    refine KeepsTargets.trans ?_ (State.withSlot_shares _ _ _).keeps
    split
    · exact h
    · exact .refl s

/-- An owner that only reads. -/
theorem State.serve_targets_of_read (s : State) (r : Req) (code : Byte) (permits : Port → Bool)
    (owner : List Byte → State → State × Reply) (h : (owner r.body s).1 = s) :
    KeepsTargets s (s.serve r code permits owner) :=
  s.serve_targets r code permits owner (by rw [h]; exact .refl s)

theorem takeEventsOwner_targets (body : List Byte) (s : State) : KeepsTargets s (takeEventsOwner body s).1 := by
  unfold takeEventsOwner
  split
  · exact KeepsShares.keeps (.of_frame rfl rfl rfl rfl rfl rfl)
  · exact .refl s

theorem setAttentionOwner_targets (p : Port) (body : List Byte) (s : State) :
    KeepsTargets s (setAttentionOwner p body s).1 := by
  unfold setAttentionOwner
  split
  · split
    · refine KeepsShares.keeps ?_
      cases p <;> exact .of_frame rfl rfl rfl rfl rfl rfl
    · exact .refl s
  · exact .refl s

/-- R85: a round and its timer. -/
theorem State.reallocate_targets (s : State) : KeepsTargets s s.reallocate :=
  s.round_targets.trans (State.startRoundTimer_shares _).keeps

theorem setClockOwner_targets (body : List Byte) (s : State) : KeepsTargets s (setClockOwner body s).1 := by
  unfold setClockOwner State.setClock
  split
  next t3 t2 t1 t0 =>
    have hclock : KeepsShares ∅ s { s with alloc := { s.alloc with clock := some ⟨val32 t3 t2 t1 t0, s.elapsed⟩ } } :=
      .of_records (.of_same rfl rfl rfl rfl rfl rfl) rfl (.of_same rfl) le_rfl
    have hset := KeepsShares.keeps (hclock.trans (State.append_shares _ .clockSet none .raised))
    dsimp only
    split
    · exact (hset.trans (State.reallocate_targets _)).settles
    · exact hset
  · exact .refl s

theorem reallocateOwner_targets (body : List Byte) (s : State) : KeepsTargets s (reallocateOwner body s).1 := by
  unfold reallocateOwner
  split
  · split
    · exact s.reallocate_targets.settles
    · exact .refl s
  · exact .refl s

/-! ### AddOrder and AmendOrder (R7 to R11) -/

theorem find?_insertOrder_ne (o : Order) (l : List Order) {tag : Nat} (h : tag ≠ o.tag) :
    (insertOrder o l).find? (fun x => x.tag == tag) = l.find? (fun x => x.tag == tag) := by
  have hne : (o.tag == tag) = false := by simpa using h.symm
  induction l with
  | nil => simp [insertOrder, hne]
  | cons x xs ih =>
    unfold insertOrder
    split
    · rw [List.find?_cons, List.find?_cons, ih]
    · rw [List.find?_cons, hne]

/-- R8: no bay is bound to a new tag. -/
theorem State.addOrder_shares {X : Set BayNo} {s : State} {o : Order} (h : s.addOrderStatus o = .done) :
    KeepsShares X s (s.addOrder o) := by
  obtain ⟨hnew, -⟩ := State.addOrderStatus_done h
  have henter : KeepsShares X s { s with roster := insertOrder o s.roster } :=
    .of_orders (tag := o.tag) rfl rfl rfl le_rfl (.of_same rfl)
      (fun _ hne => find?_insertOrder_ne o s.roster hne) fun c _ => State.free_of_not_live (fun p hp => by
        rw [hnew] at hp
        cases hp) c
  exact henter.trans (State.bindingCheckOrder_shares _ o.tag)

theorem addOrderOwner_targets (body : List Byte) (s : State) : KeepsTargets s (addOrderOwner body s).1 := by
  unfold addOrderOwner
  split
  · split
    · split
      · split
        next hst => exact (State.addOrder_shares hst).keeps
        · exact .refl s
      · exact .refl s
    · exact .refl s
  · exact .refl s

/-- R9: what an amendment does not name. -/
theorem amended_released {o o' : Order} {set : Byte} {f : OrderFields} (h : amended o set f = some o') :
    o'.released = o.released := by
  unfold amended at h
  split at h
  · simp only [Option.ite_none_right_eq_some, Option.some.injEq] at h
    rw [← h.2]
  · cases h

theorem State.amendFields_frame (s : State) (o o' : Order) (toNone : Bool) :
    (s.amendFields o o' toNone).alloc = s.alloc ∧ (s.amendFields o o' toNone).store = s.store ∧
      (s.amendFields o o' toNone).feeder = s.feeder ∧ (s.amendFields o o' toNone).line = s.line := by
  unfold State.amendFields
  dsimp only
  split <;> split <;> exact ⟨rfl, rfl, rfl, rfl⟩

theorem State.state_amendFields (s : State) (o o' : Order) (toNone : Bool) (b : BayNo) :
    ((s.amendFields o o' toNone).bay b).state = (s.bay b).state := by
  have hbay : ∀ (t : State), t.bays = s.bays → (t.bay b).state = (s.bay b).state :=
    fun t ht => by simp only [State.bay, ht]
  unfold State.amendFields
  dsimp only
  split
  · refine ((State.updBay_records _ _ _ ?_ ?_).state b).trans ?_
    · exact fun _ => rfl
    · exact fun _ => rfl
    · split <;> exact hbay _ rfl
  · split <;> exact hbay _ rfl

/-- R10: an amended order stays live and unreleased where it was. -/
theorem State.amendFields_shares {X : Set BayNo} {s : State} {o o' : Order} (toNone : Bool) (h : RecordsExcept none s)
    (ho : s.order? o.tag = some o) (hs : o.state ≠ .closed) (ht : o'.tag = o.tag) (hst : o'.state = o.state)
    (hbay : o'.boundBay = o.boundBay) (hrel : o'.released = o.released) (hdone : s.amendStatus o o' = .done) :
    KeepsShares X s (s.amendFields o o' toNone) := by
  have hr := State.amendFields_keeps toNone ho hs ht hst hbay hdone h
  obtain ⟨halloc, hstore, hfeeder, hline⟩ := s.amendFields_frame o o' toNone
  have hcfg : (s.amendFields o o' toNone).cfg = s.cfg := congrArg Store.working hstore
  have hfound : ∀ p, p ∈ (s.amendFields o o' toNone).roster → (s.amendFields o o' toNone).order? p.tag = some p :=
    fun p hp => State.order?_of_mem hr.roster hp
  refine ⟨by rw [halloc], by rw [halloc], by rw [halloc], fun b => ?_, by rw [hcfg], by rw [hfeeder],
    .of_same (by rw [hline]), fun c _ => State.eligible_of_order (s.state_amendFields o o' toNone c)
      (s.boundOrder_amendFields o o' toNone c) fun tag p _ hp hlive hprel => ?_⟩
  · unfold State.rating
    rw [hcfg]
  · have hmem := State.mem_amendFields (o' := o') h.roster toNone ho
    by_cases e : tag = o.tag
    · subst e
      obtain rfl := Option.some.inj (ho.symm.trans hp)
      refine ⟨amendedRecord o' toNone, ?_, ?_, ?_⟩
      · rw [← ht]
        exact hfound _ ((hmem _).mpr (.inl rfl))
      · exact (congrArg OrderState.live hst).trans hlive
      · exact hrel.trans hprel
    · have hptag := s.tag_of_order? hp
      refine ⟨p, ?_, hlive, hprel⟩
      rw [← hptag]
      exact hfound p ((hmem p).mpr (.inr ⟨s.mem_of_order? hp, hptag ▸ e⟩))

/-- R11: the bay whose order is unbound leaves eligibility; where the records agree no other bay names the order. -/
theorem State.rebind_targets {s : State} (h : RecordsExcept none s) (tag : Nat) : KeepsTargets s (s.rebind tag) := by
  unfold State.rebind
  split
  · exact .refl s
  next o ho =>
    split
    next b hb =>
      have hfree : ∀ c ∉ ({b} : Set BayNo), (s.bay c).boundOrder = some tag → s.eligible c = false :=
        fun c hc ht => absurd (h.only_bound ho hb (by simp) ht) hc
      exact KeepsTargets.trans ((s.unbindOrder_shares hfree).trans (State.unbindBay_shares _ b)).leaves
        (State.bindingCheckOrder_shares _ tag).keeps
    next => exact (s.bindingCheckOrder_shares tag).keeps

theorem State.amendOrder_targets {s : State} {o o' : Order} (toNone : Bool) (h : RecordsExcept none s)
    (ho : s.order? o.tag = some o) (hs : o.state ≠ .closed) (ht : o'.tag = o.tag) (hst : o'.state = o.state)
    (hbay : o'.boundBay = o.boundBay) (hrel : o'.released = o.released) (hdone : s.amendStatus o o' = .done) :
    KeepsTargets s (s.amendOrder o o' toNone) := by
  have hfields := (State.amendFields_shares toNone h ho hs ht hst hbay hrel hdone).keeps
  unfold State.amendOrder
  dsimp only
  split
  · exact hfields
  · exact hfields.trans (State.rebind_targets (State.amendFields_keeps toNone ho hs ht hst hbay hdone h) o.tag)

theorem amendOrderOwner_targets (body : List Byte) {s : State} (h : RecordsExcept none s) :
    KeepsTargets s (amendOrderOwner body s).1 := by
  unfold amendOrderOwner
  split
  · split
    · split
      · exact .refl s
      next o ho =>
        rw [← s.tag_of_order? ho] at ho
        split
        · exact .refl s
        next hs =>
          split
          · exact .refl s
          next o' ho' =>
            obtain ⟨ht, hst, hbay⟩ := amended_standing ho'
            split
            next hdone =>
              exact (State.amendOrder_targets _ h ho (fun e => hs (.inr e)) ht hst hbay (amended_released ho')
                hdone).settles
            · exact .refl s
    · exact .refl s
  · exact .refl s

/-! ### CancelOrder, ReleaseVan and TakeCompletions (R20, R23, R151) -/

/-- Where the records agree, an order that changes is no matter of the eligibility of a bay other than its own. -/
theorem State.updOrder_shares_at {s : State} (h : RecordsExcept none s) {o : Order} (ho : s.order? o.tag = some o)
    {b : BayNo} (hb : o.boundBay = some b) (f : Order → Order) (ht : ∀ o, (f o).tag = o.tag := by intro _; rfl) :
    KeepsShares {b} s (s.updOrder o.tag f) :=
  s.updOrder_shares_of_free f (fun _ hc hct => absurd (h.only_bound ho hb (by simp) hct) hc) ht

theorem State.cancelBound_targets {s : State} (h : RecordsExcept none s) {o : Order} (ho : s.order? o.tag = some o)
    {b : BayNo} (hb : o.boundBay = some b) : KeepsTargets s (s.cancelBound o.tag b) := by
  unfold State.cancelBound
  dsimp only
  refine KeepsTargets.trans ?_ (State.decreaseDone_shares _ b).keeps
  exact (State.updOrder_shares_at h ho hb _).leaves

theorem State.cancelOrder_targets {s : State} (h : RecordsExcept none s) {o : Order} (ho : s.order? o.tag = some o) :
    KeepsTargets s (s.cancelOrder o) := by
  unfold State.cancelOrder
  split
  next hs =>
    refine KeepsShares.keeps (s.closeOrder_shares _ fun c _ => State.free_of_not_live (fun p hp => ?_) c)
    rw [← Option.some.inj (ho.symm.trans hp), hs]
    rfl
  next hb => exact State.cancelBound_targets h ho hb
  next hb => exact State.cancelBound_targets h ho hb
  next hb => exact State.cancelBound_targets h ho hb
  all_goals exact .refl s

theorem cancelOrderOwner_targets (body : List Byte) {s : State} (h : RecordsExcept none s) :
    KeepsTargets s (cancelOrderOwner body s).1 := by
  unfold cancelOrderOwner
  split
  · split
    · exact .refl s
    next o ho =>
      rw [← s.tag_of_order? ho] at ho
      split
      · exact .refl s
      · exact (State.cancelOrder_targets h ho).settles
  · exact .refl s

theorem State.handUnlock_shares {X : Set BayNo} (s : State) (b : BayNo) : KeepsShares X s (s.handUnlock b) := by
  unfold State.handUnlock
  split
  · exact .refl s
  · refine KeepsShares.trans (s.updLineBay_shares b _) (State.line_shares _ _ ?_)
    rfl

/-- R23: a released order takes its bay out of eligibility. -/
theorem State.releaseVan_targets {s : State} (h : RecordsExcept none s) {o : Order} (ho : s.order? o.tag = some o)
    {b : BayNo} (hb : o.boundBay = some b) : KeepsTargets s (s.releaseVan o.tag b) := by
  unfold State.releaseVan
  dsimp only
  refine KeepsTargets.trans ?_ (State.handUnlock_shares _ b).keeps
  exact (State.updOrder_shares_at h ho hb _).leaves

theorem releaseVanOwner_targets (body : List Byte) {s : State} (h : RecordsExcept none s) :
    KeepsTargets s (releaseVanOwner body s).1 := by
  unfold releaseVanOwner
  split
  · split
    · exact .refl s
    next o ho =>
      rw [← s.tag_of_order? ho] at ho
      split
      · exact .refl s
      · exact .refl s
      · exact .refl s
      next hb _ _ =>
        split
        · exact .refl s
        · split
          · exact (State.releaseVan_targets h ho hb).settles
          · exact .refl s
  · exact .refl s

/-- R151: the orders of the waiting line are Closed, so no eligible bay is bound to them. -/
theorem moveWaiting_shares {X : Set BayNo} (l : List Nat) (s : State)
    (hl : ∀ o ∈ s.roster, o.tag ∈ l → o.state.live = false) : KeepsShares X s (moveWaiting l s) := by
  induction l generalizing s with
  | nil => exact .refl s
  | cons tag rest ih =>
    have hline : KeepsShares X s { s with waitingLine := rest } := .of_frame rfl rfl rfl rfl rfl rfl
    unfold moveWaiting
    split
    · split
      next o ho =>
        have htag := s.tag_of_order? ho
        refine (hline.trans (State.logOrder_shares _ fun p hp => hl p ?_ ?_)).trans (ih _ fun p hp hpt => ?_)
        · exact State.mem_of_order? s hp
        · rw [State.tag_of_order? s hp, htag]
          exact List.mem_cons_self
        · exact hl p (List.mem_of_mem_filter hp) (List.mem_cons_of_mem _ hpt)
      next => exact hline.trans (ih _ fun p hp hpt => hl p hp (List.mem_cons_of_mem _ hpt))
    · exact .refl s

theorem takeCompletionsOwner_targets (body : List Byte) {s : State} (h : RecordsExcept none s) :
    KeepsTargets s (takeCompletionsOwner body s).1 := by
  unfold takeCompletionsOwner State.takeCompletions
  split
  · have hlog : KeepsShares ∅ s { s with log := s.log.drop 4 } := .of_frame rfl rfl rfl rfl rfl rfl
    refine KeepsShares.keeps ((hlog.trans (moveWaiting_shares _ _ fun o ho hot => ?_)).trans
      (State.refreshAttention_shares _))
    obtain ⟨p, hp, hpt, hpc⟩ := h.waiting.2 o.tag hot
    rw [order_eq_of_tag h.roster.2 ho hp hpt.symm, hpc]
    rfl
  · exact .refl s

/-! ### The Site port (R62 to R82) -/

theorem State.setCeiling_targets (s : State) (kw : Nat) : KeepsTargets s (s.setCeiling kw) :=
  s.recompute_targets { s.feeder with site := some kw } rfl

theorem setCeilingOwner_targets (body : List Byte) (s : State) : KeepsTargets s (setCeilingOwner body s).1 := by
  unfold setCeilingOwner
  split
  · split
    · exact (s.setCeiling_targets _).settles
    · exact .refl s
  · exact .refl s

section
variable {X : Set BayNo}

theorem State.flagEvent_shares (s : State) (k : EventKind) (old new : Bool) : KeepsShares X s (s.flagEvent k old new) := by
  unfold State.flagEvent
  split
  · exact .refl s
  · exact s.append_shares _ _ _

theorem State.meterArrives_shares (s : State) (load : Nat) : KeepsShares X s (s.meterArrives load) := by
  have hload : KeepsShares X s { s with
      feeder := { s.feeder with load := load, stale := false, staleTimer := some (s.elapsed + Config.staleTime) } } :=
    s.feeder_shares _ le_rfl
  unfold State.meterArrives
  dsimp only
  split
  · exact hload.trans (State.append_shares _ _ _ _)
  · exact hload

theorem State.evaluateMeter_shares (s : State) (load : Nat) : KeepsShares X s (s.evaluateMeter load) := by
  unfold State.evaluateMeter
  refine KeepsShares.trans ?_ (State.flagEvent_shares _ _ _ _)
  refine KeepsShares.trans ?_ (State.flagEvent_shares _ _ _ _)
  exact s.feeder_shares _ le_rfl

theorem State.recomputeCut_shares (s : State) (load : Nat) : KeepsShares X s (s.recomputeCut load) :=
  s.feeder_shares _ le_rfl

/-- An event that is appended where a test asks for it. -/
theorem KeepsShares.appends {s t : State} (h : KeepsShares X s t) (p : Prop) [Decidable p] (k : EventKind)
    (x : Option Subject) (e : Edge) : KeepsShares X s (if p then t else t.append k x e) := by
  split
  · exact h
  · exact h.trans (t.append_shares _ _ _)

theorem State.clearFeederLatch_shares (s : State) : KeepsShares X s s.clearFeederLatch := by
  unfold State.clearFeederLatch
  refine (KeepsShares.appends ?_ _ _ _ _).appends _ _ _ _
  exact s.feeder_shares _ le_rfl

end

theorem State.reportMeter_targets (s : State) (load : Nat) : KeepsTargets s (s.reportMeter load) :=
  KeepsTargets.trans (((s.meterArrives_shares load).trans (State.evaluateMeter_shares _ load)).trans
    (State.recomputeCut_shares _ load)).keeps (State.recomputeCeiling_targets _)

theorem reportMeterOwner_targets (body : List Byte) (s : State) : KeepsTargets s (reportMeterOwner body s).1 := by
  unfold reportMeterOwner
  split
  · split
    · exact (s.reportMeter_targets _).settles
    · exact .refl s
  · exact .refl s

theorem setTariffOwner_targets (body : List Byte) (s : State) : KeepsTargets s (setTariffOwner body s).1 := by
  unfold setTariffOwner State.setTariff
  split
  · split
    · split
      · split
        · exact KeepsShares.keeps (s.feeder_shares _ le_rfl)
        · exact .refl s
      · exact .refl s
    · exact .refl s
  · exact .refl s

theorem State.holdDepot_targets (s : State) : KeepsTargets s s.holdDepot := by
  unfold State.holdDepot
  split
  · exact ((s.recompute_targets { s.feeder with hold := .draining } rfl).trans (State.heldCheck_shares _).keeps).settles
  · exact .refl s

theorem holdDepotOwner_targets (body : List Byte) (s : State) : KeepsTargets s (holdDepotOwner body s).1 := by
  unfold holdDepotOwner
  split
  · exact s.holdDepot_targets
  · exact .refl s

theorem State.resumeDepot_targets (s : State) : KeepsTargets s s.resumeDepot := by
  have hrun := s.recompute_targets { s.feeder with hold := .running } rfl
  unfold State.resumeDepot
  split
  · exact .refl s
  · refine KeepsTargets.settles ?_
    split
    · exact hrun.trans (State.reallocate_targets _)
    · exact hrun

theorem resumeDepotOwner_targets (body : List Byte) (s : State) : KeepsTargets s (resumeDepotOwner body s).1 := by
  unfold resumeDepotOwner
  split
  · exact s.resumeDepot_targets
  · exact .refl s

/-! ### The Service port -/

theorem clearLatchOwner_targets (body : List Byte) (s : State) : KeepsTargets s (clearLatchOwner body s).1 := by
  unfold clearLatchOwner
  split
  · split
    · exact s.clearFeederLatch_shares.keeps
    · split
      · split
        · exact .refl s
        · exact (s.clearInputLatch_targets _).settles
      · exact .refl s
  · exact .refl s

theorem clearBayOwner_targets (body : List Byte) {s : State} (h : RecordsExcept none s) :
    KeepsTargets s (clearBayOwner body s).1 := by
  unfold clearBayOwner
  split
  · split
    · exact (State.clearBay_targets h _).settles
    · exact .refl s
  · exact .refl s

/-- R44: an Unmatched bay is not eligible. -/
theorem State.retryAdmission_shares {X : Set BayNo} {s : State} {b : BayNo} (hs : (s.bay b).state = .unmatched) :
    KeepsShares X s (s.retryAdmission b) :=
  (s.updBay_shares_at b _).of_not_eligible (State.not_eligible_of_state (by rw [hs]; simp))

theorem retryAdmissionOwner_targets (body : List Byte) (s : State) : KeepsTargets s (retryAdmissionOwner body s).1 := by
  unfold retryAdmissionOwner
  split
  · split
    · split
      next hs => exact (State.retryAdmission_shares hs).keeps
      · exact .refl s
    · exact .refl s
  · exact .refl s

theorem State.setOverride_shares {X : Set BayNo} (s : State) (b : BayNo) (o : Override) :
    KeepsShares X s (s.setOverride b o) := s.updBay_shares b _

theorem setOverrideOwner_targets (body : List Byte) (s : State) : KeepsTargets s (setOverrideOwner body s).1 := by
  unfold setOverrideOwner
  split
  · split
    · exact (s.setOverride_shares _ _).keeps
    · exact .refl s
  · exact .refl s

theorem State.writeTable_shares {X : Set BayNo} (s : State) (rate : Bool) (i : Fin 41) (v : Nat) :
    KeepsShares X s (s.withWorking (s.cfg.writeTable rate i v)) := by
  refine s.withWorking_shares _ (fun b => ?_) ?_ <;> unfold Settings.writeTable <;> split <;> exact le_rfl

theorem writeTableOwner_targets (body : List Byte) (s : State) : KeepsTargets s (writeTableOwner body s).1 := by
  unfold writeTableOwner
  split
  · split
    · split
      · split
        · split
          · exact .refl s
          · exact (s.writeTable_shares _ _ _).keeps
        · exact .refl s
      · exact .refl s
    · exact .refl s
  · exact .refl s

theorem writeSettingOwner_targets (body : List Byte) (s : State) : KeepsTargets s (writeSettingOwner body s).1 := by
  unfold writeSettingOwner
  split
  · split
    · split
      next v hv =>
        obtain ⟨hfits, -⟩ := settingValue?_spec hv
        split
        · exact .refl s
        · exact (s.applySetting_targets hfits).settles
      · exact .refl s
    · exact .refl s
  · exact .refl s

theorem storeSettingsOwner_targets (body : List Byte) (s : State) : KeepsTargets s (storeSettingsOwner body s).1 := by
  unfold storeSettingsOwner
  split
  · split
    · exact .refl s
    · exact KeepsShares.keeps (.of_frame rfl rfl rfl rfl rfl rfl)
  · exact .refl s

end Sys2Proof.Machine
end

section
/-! PROOFS. Every command keeps the laws of the targets, and so does a step; with it O7. -/

namespace Sys2Proof.Machine

/-! ### Timers and ports -/

theorem State.runTo_targets (s : State) (t : Nat) : KeepsTargets s (s.runTo t) := (s.runTo_shares t).keeps

theorem State.meterStale_targets (s : State) : KeepsTargets s s.meterStale := by
  have hstale : KeepsShares ∅ s { s with feeder := { s.feeder with stale := true, staleTimer := none } } :=
    s.feeder_shares _ le_rfl
  exact (hstale.trans (State.append_shares _ _ _ _)).keeps.trans (State.recomputeCeiling_targets _)

theorem State.commitOver_targets (s : State) (c : Commit) (good : Bool) : KeepsTargets s (s.commitOver c good) := by
  unfold State.commitOver
  refine KeepsShares.keeps (KeepsShares.trans ?_ (State.append_shares _ _ _ _))
  exact .of_frame rfl rfl rfl rfl rfl rfl

theorem State.dropFrame_targets (s : State) (p : Port) : KeepsTargets s (s.dropFrame p) := by
  unfold State.dropFrame
  split
  · exact .refl s
  all_goals exact (s.withSlot_shares p _).keeps

theorem State.listenByte_targets (s : State) (p : Port) (b : Byte) : KeepsTargets s (s.listenByte p b) := by
  unfold State.listenByte
  split
  · split
    · exact (s.withSlot_shares p _).keeps
    · exact .refl s
  all_goals exact .refl s

theorem execFrameGap_targets {p : Port} {ending : Option Byte} {s t : State} (h : execFrameGap p ending s = .next t) :
    KeepsTargets s t := by
  unfold execFrameGap at h
  split at h
  · dsimp only at h
    split at h <;> cases h
    · exact (s.withSlot_shares p _).keeps.trans (State.listenByte_targets _ p _)
    · exact (s.withSlot_shares p _).keeps
  all_goals cases h; exact .refl s

theorem execAnswerEnd_targets {p : Port} {s t : State} (h : execAnswerEnd p s = .next t) : KeepsTargets s t := by
  unfold execAnswerEnd at h
  split at h
  · split at h <;> cases h
    · exact s.doReset_targets
    · exact (s.withSlot_shares p _).keeps
  all_goals cases h; exact .refl s

theorem execRoundTimerExpiry_targets {s t : State} (h : execRoundTimerExpiry s = .next t) : KeepsTargets s t := by
  unfold execRoundTimerExpiry at h
  split at h <;> cases h
  · exact ((s.runTo_targets _).trans (State.reallocate_targets _)).settles
  · exact .refl s

theorem execStaleTimerExpiry_targets {s t : State} (h : execStaleTimerExpiry s = .next t) : KeepsTargets s t := by
  unfold execStaleTimerExpiry at h
  split at h <;> cases h
  · exact ((s.runTo_targets _).trans (State.meterStale_targets _)).settles
  · exact .refl s

theorem execAdmissionTimerExpiry_targets {b : BayNo} {s t : State} (h : execAdmissionTimerExpiry b s = .next t) :
    KeepsTargets s t := by
  unfold execAdmissionTimerExpiry at h
  split at h <;> cases h
  next due hs _ => exact (s.runTo_targets due).trans (State.admissionTimeout_shares (s := s.runTo due) hs).keeps
  · exact .refl s

theorem execDormancyExpiry_targets {b : BayNo} {s t : State} (h : execDormancyExpiry b s = .next t) :
    KeepsTargets s t := by
  unfold execDormancyExpiry at h
  split at h <;> cases h
  · exact ((s.runTo_targets _).trans (State.becomeDormant_targets _ b)).settles
  · exact .refl s

theorem execWakeWindowExpiry_targets {b : BayNo} {s t : State} (h : execWakeWindowExpiry b s = .next t) :
    KeepsTargets s t := by
  unfold execWakeWindowExpiry at h
  split at h <;> cases h
  next due hs _ => exact (s.runTo_targets due).trans (State.wakeWindowOver_shares (s := s.runTo due) hs).keeps
  · exact .refl s

theorem execDeferRetryDue_targets {b : BayNo} {s t : State} (h : execDeferRetryDue b s = .next t) :
    KeepsTargets s t := by
  unfold execDeferRetryDue at h
  split at h <;> cases h
  · exact (s.runTo_targets _).settles
  · exact .refl s

theorem execKeepAliveDue_targets {b : BayNo} {s t : State} (h : execKeepAliveDue b s = .next t) : KeepsTargets s t := by
  unfold execKeepAliveDue at h
  split at h <;> cases h
  · exact (s.runTo_targets _).settles
  · exact .refl s

theorem execProbeSpacingEnd_targets {s t : State} (h : execProbeSpacingEnd s = .next t) : KeepsTargets s t := by
  unfold execProbeSpacingEnd at h
  split at h
  · split at h <;> cases h
    · exact (s.runTo_targets _).settles
    · exact s.settle_targets
  · cases h
    exact .refl s

theorem execFilterTimerExpiry_targets {y : InputNo} {s t : State} (h : execFilterTimerExpiry y s = .next t) :
    KeepsTargets s t := by
  unfold execFilterTimerExpiry at h
  split at h <;> cases h
  · exact ((s.runTo_targets _).trans (State.filterOver_targets _ y _)).settles
  · exact .refl s

theorem execCommitEnd_targets {good : Bool} {s t : State} (h : execCommitEnd good s = .next t) : KeepsTargets s t := by
  unfold execCommitEnd at h
  split at h <;> cases h
  · exact s.commitOver_targets _ good
  · exact .refl s

/-! ### Every command -/

/-- The state a meaning answers, when it answers one at once. -/
theorem KeepsTargets.of_next {s t u : State} (h : KeepsTargets s u)
    (e : (Host.Outcome.next u : Host.Outcome State Fault Refusal) = .next t) : KeepsTargets s t := by
  cases e
  exact h

/-- R103: where the records agree, every command keeps the laws of the targets. -/
theorem exec_targets {i : Instr} {s t : State} (h : exec i s = .next t) (hr : RecordsExcept none s) :
    KeepsTargets s t := by
  cases i with
  | readIdentity r => exact .of_next (s.serve_targets_of_read r _ _ _ (readIdentityOwner_state _ _ s)) h
  | readOrder r => exact .of_next (s.serve_targets_of_read r _ _ _ (readOrderOwner_state _ s)) h
  | listRoster r => exact .of_next (s.serve_targets_of_read r _ _ _ (listRosterOwner_state _ s)) h
  | readBay r => exact .of_next (s.serve_targets_of_read r _ _ _ (readBayOwner_state _ s)) h
  | readFeeder r => exact .of_next (s.serve_targets_of_read r _ _ _ (readFeederOwner_state _ s)) h
  | readTable r => exact .of_next (s.serve_targets_of_read r _ _ _ (readTableOwner_state _ s)) h
  | readSetting r => exact .of_next (s.serve_targets_of_read r _ _ _ (readSettingOwner_state _ s)) h
  | peekCompletions r => exact .of_next (s.serve_targets_of_read r _ _ _ (peekCompletionsOwner_state _ s)) h
  | restart r => exact .of_next (s.serve_targets_of_read r _ _ _ (restartOwner_state _ s)) h
  | unknownRequest r kind => exact .of_next (s.serve_targets_of_read r _ _ _ rfl) h
  | takeEvents r => exact .of_next (s.serve_targets r _ _ _ (takeEventsOwner_targets _ s)) h
  | setAttention r => exact .of_next (s.serve_targets r _ _ _ (setAttentionOwner_targets _ _ s)) h
  | setClock r => exact .of_next (s.serve_targets r _ _ _ (setClockOwner_targets _ s)) h
  | addOrder r => exact .of_next (s.serve_targets r _ _ _ (addOrderOwner_targets _ s)) h
  | amendOrder r => exact .of_next (s.serve_targets r _ _ _ (amendOrderOwner_targets _ hr)) h
  | cancelOrder r => exact .of_next (s.serve_targets r _ _ _ (cancelOrderOwner_targets _ hr)) h
  | releaseVan r => exact .of_next (s.serve_targets r _ _ _ (releaseVanOwner_targets _ hr)) h
  | takeCompletions r => exact .of_next (s.serve_targets r _ _ _ (takeCompletionsOwner_targets _ hr)) h
  | reallocate r => exact .of_next (s.serve_targets r _ _ _ (reallocateOwner_targets _ s)) h
  | setCeiling r => exact .of_next (s.serve_targets r _ _ _ (setCeilingOwner_targets _ s)) h
  | reportMeter r => exact .of_next (s.serve_targets r _ _ _ (reportMeterOwner_targets _ s)) h
  | setTariff r => exact .of_next (s.serve_targets r _ _ _ (setTariffOwner_targets _ s)) h
  | holdDepot r => exact .of_next (s.serve_targets r _ _ _ (holdDepotOwner_targets _ s)) h
  | resumeDepot r => exact .of_next (s.serve_targets r _ _ _ (resumeDepotOwner_targets _ s)) h
  | clearLatchFeeder r => exact .of_next (s.serve_targets r _ _ _ (clearLatchOwner_targets _ s)) h
  | clearLatchInput r => exact .of_next (s.serve_targets r _ _ _ (clearLatchOwner_targets _ s)) h
  | clearBay r => exact .of_next (s.serve_targets r _ _ _ (clearBayOwner_targets _ hr)) h
  | retryAdmission r => exact .of_next (s.serve_targets r _ _ _ (retryAdmissionOwner_targets _ s)) h
  | setOverride r => exact .of_next (s.serve_targets r _ _ _ (setOverrideOwner_targets _ s)) h
  | writeTable r => exact .of_next (s.serve_targets r _ _ _ (writeTableOwner_targets _ s)) h
  | writeSetting r => exact .of_next (s.serve_targets r _ _ _ (writeSettingOwner_targets _ s)) h
  | storeSettings r => exact .of_next (s.serve_targets r _ _ _ (storeSettingsOwner_targets _ s)) h
  | frameCheckFail p => exact .of_next (s.dropFrame_targets p) h
  | frameGap p ending => exact execFrameGap_targets h
  | answerEnd p => exact execAnswerEnd_targets h
  | reset cause => exact .of_next s.doReset_targets h
  | roundTimerExpiry => exact execRoundTimerExpiry_targets h
  | staleTimerExpiry => exact execStaleTimerExpiry_targets h
  | admissionTimerExpiry b => exact execAdmissionTimerExpiry_targets h
  | dormancyExpiry b => exact execDormancyExpiry_targets h
  | wakeWindowExpiry b => exact execWakeWindowExpiry_targets h
  | answerWindowExpiry => exact .of_next s.runWindow_targets.settles h
  | deferRetryDue b => exact execDeferRetryDue_targets h
  | keepAliveDue b => exact execKeepAliveDue_targets h
  | probeSpacingEnd => exact execProbeSpacingEnd_targets h
  | filterTimerExpiry y => exact execFilterTimerExpiry_targets h
  | lineChange y high => exact .of_next (s.lineLevel_targets y high).settles h
  | commitEnd good => exact execCommitEnd_targets h
  | postStatus b st => exact .of_next (State.takePostStatus_targets hr b st).settles h
  | grantOutcome b o => exact .of_next (s.takeOutcome_targets b _ o).settles h
  | wakeOutcome b o => exact .of_next (s.takeOutcome_targets b _ o).settles h
  | unlockOutcome b o => exact .of_next (s.takeOutcome_targets b _ o).settles h
  | deferAnswer b => exact .of_next (s.takeDefer_targets b).settles h
  | startByte p => exact .of_next (s.listenByte_targets p _) h
  | badLength p len =>
    refine .of_next (u := if len.toNat < 2 then s.dropFrame p else s) ?_ h
    split
    · exact s.dropFrame_targets p
    · exact .refl s

/-! ### O7 -/

/-- R103: under the laws no bay has a target while nothing is available. -/
theorem State.target_of_unavailable {s : State} (h : s.targetsRight) (ha : s.available = 0) (b : BayNo) :
    s.target b = 0 := by
  obtain ⟨hshares, hfits⟩ := targetsRight_iff.mp h
  cases he : s.eligible b with
  | false => exact hshares.idle b (Set.notMem_empty b) he
  | true =>
    have hsum : s.eligibleTargets ≤ 0 := hfits.trans ha.le
    rw [State.eligibleTargets_eq] at hsum
    have hone := Finset.single_le_sum (f := fun c => if s.eligible c then s.target c else 0) (fun _ _ => Nat.zero_le _)
      (Finset.mem_univ b)
    simp only [he, if_true] at hone
    omega

/-- R103: the targets and the stranded exposure fit, or the stranded exposure alone does not. -/
theorem State.targets_fit {s : State} (h : s.targetsRight) :
    s.eligibleTargets + s.stranded ≤ s.feeder.effective ∨ (s.feeder.effective < s.stranded ∧ ∀ b, s.target b = 0) := by
  have hfits : s.eligibleTargets ≤ s.feeder.effective - s.stranded := (targetsRight_iff.mp h).2
  rcases Nat.lt_or_ge s.feeder.effective s.stranded with hlt | hge
  · exact .inr ⟨hlt, State.target_of_unavailable h (Nat.sub_eq_zero_of_le hlt.le)⟩
  · exact .inl (by omega)

/-- R64: a hold or a Stop composes to an effective ceiling of 0. -/
theorem State.available_of_held {s : State} (hc : s.feeder.effective = ceilingOf s.feeder s.cfg)
    (h : s.feeder.hold ≠ .running ∨ s.feeder.stop = true) : s.available = 0 := by
  have hzero : ceilingOf s.feeder s.cfg = 0 := h.elim (ceilingOf_hold _ _) (ceilingOf_of_stopped _)
  unfold State.available
  rw [hc, hzero, Nat.zero_sub]

/-- Settles O7: where the records agree every command keeps the laws (`exec_targets`) and the records (`exec_keeps`);
the queue, the free count and the time are in neither. -/
theorem stepKeepsTargetLaws : Obligations.StepKeepsTargetLaws := by
  unfold Obligations.StepKeepsTargetLaws
  refine ⟨fun s t h hr hs => ?_, fun s hs => ⟨State.targets_fit hs, fun hc hheld =>
    State.target_of_unavailable hs (State.available_of_held hc hheld)⟩⟩
  have hkept : t.recordsRight ∧ t.targetsRight := by
    refine step_keeps (P := fun u => u.recordsRight ∧ u.targetsRight) (fun i u v he hu => ?_) (fun _ _ => id)
      (fun _ _ => id) (fun _ => id) h ⟨hr, hs⟩
    obtain ⟨hrecords, htargets⟩ := hu
    have hexcept := recordsExcept_none_iff.mpr hrecords
    exact ⟨recordsExcept_none_iff.mp (exec_keeps he hexcept), exec_targets he hexcept htargets⟩
  exact hkept.2

end Sys2Proof.Machine
end

section
/-! PROOFS. The wake decision of a Dormant bay: O37. -/

namespace Sys2Proof.Machine

/-! ### The wake decision (R114 to R116) -/

/-- R114: the tests before the wake permitted test, as the rule states them. -/
theorem State.wakeNeeded_iff {s : State} {b : BayNo} {o : Order} {now : Nat} : s.wakeNeeded b o now = true ↔
    ¬ (o.state = .ready ∧ o.conditioning = .none) ∧ o.wakeFailed = false ∧ (s.bay b).wakePending = false ∧
      (∃ t, (s.bay b).dormantSince = some t ∧ t + 60000 ≤ s.elapsed) ∧
      (∀ t, (s.bay b).retryAt = some t → t ≤ s.elapsed) ∧
      (s.slack b o now ≤ s.cfg.wakeSlack ∨ (o.conditioning ≠ .none ∧ o.departure ≤ now + o.lead * 60 + 300)) := by
  unfold State.wakeNeeded State.wakeTrigger
  simp only [Bool.and_eq_true, and_assoc]
  refine and_congr (by simp [imp_iff_not_or]) (and_congr (by simp) (and_congr (by simp) (and_congr ?_ (and_congr ?_ ?_))))
  · cases (s.bay b).dormantSince with
    | none => simp
    | some t => exact decide_eq_true_iff.trans ⟨fun h => ⟨t, rfl, h⟩, fun ⟨_, rfl, h⟩ => h⟩
  · cases (s.bay b).retryAt with
    | none => simp
    | some t => simp
  · simp only [Bool.or_eq_true, Bool.and_eq_true, decide_eq_true_eq, bne_iff_ne]
    rfl

/-- R116: a Wake handed over in the dormancy period that began at a moment. -/
theorem State.handWake_of_period {s : State} {b : BayNo} {since : Nat} (h : (s.bay b).dormantSince = some since) :
    s.handWake b = { s with
      bays := s.bays.set b { s.bay b with wakePending := true }
      line := { s.line with
        bays := s.line.bays.set b { s.lineBay b with pWake := some ⟨s.cfg.wakePulse, s.line.nextAge, since⟩ }
        nextAge := s.line.nextAge + 1 } } := by
  unfold State.handWake
  rw [h]
  rfl

theorem State.wakeDecision_of_order {s : State} {tag : Nat} {o : Order} (ho : s.order? tag = some o) (now : Nat)
    (b : BayNo) : s.wakeDecision now (b, tag) =
      if s.wakeNeeded b o now then
        if o.wakePermitted = false then
          if (s.bay b).barred then s
          else (s.updBay b (fun r => { r with barred := true })).append .wakeBarred (some (.order tag)) .raised
        else if s.feeder.stop = true ∨ s.feeder.hold ≠ .running then s
        else s.handWake b
      else s := by
  unfold State.wakeDecision
  rw [ho]

/-- Settles O37: the decision's own tests, the first of them as `State.wakeNeeded_iff` states it. -/
theorem wakeDecisionFollowsItsTests : Obligations.WakeDecisionFollowsItsTests := by
  unfold Obligations.WakeDecisionFollowsItsTests
  intro now tag b o s ho
  rw [State.wakeDecision_of_order ho, ← State.wakeNeeded_iff]
  refine ⟨fun hn => if_neg hn, fun hn hp hb => ?_, fun hn hp hb => ?_, fun hn hp hbar => ?_,
    fun hn hp hstop hhold since hs => ?_⟩
  · rw [if_pos hn, if_pos hp, if_pos hb]
  · rw [if_pos hn, if_pos hp, if_neg (by simp [hb])]
  · rw [if_pos hn, if_neg (by simp [hp]), if_pos hbar]
  · rw [if_pos hn, if_neg (by simp [hp]), if_neg (by simp [hstop, hhold]), State.handWake_of_period hs]

end Sys2Proof.Machine
end

section
/-! PROOFS. What the exchanges of the service order rest on, and the pending Wakes and Unlocks in their order (R134 to
R140): the first layer of O59. -/

namespace Sys2Proof.Machine

/-! ### The line through the notices of an exposure (R132) -/

@[simp] theorem State.append_line (s : State) (k : EventKind) (x : Option Subject) (e : Edge) :
    (s.append k x e).line = s.line := by
  unfold State.append
  split <;> rfl

@[simp] theorem State.heldCheck_line (s : State) : s.heldCheck.line = s.line := by
  unfold State.heldCheck
  split
  · exact State.append_line _ _ _ _
  · rfl
  · rfl

/-- R105: a trim leaves what the line carries. -/
theorem MovesTargets.carrying {s t : State} (h : MovesTargets s t) : t.line.carrying = s.line.carrying := by
  have hsame := congrArg (fun u => u.line.carrying) h.shares
  exact hsame

theorem State.noteExposure_carrying (s : State) (b : BayNo) (before : Nat) :
    (s.noteExposure b before).line.carrying = s.line.carrying := by
  unfold State.noteExposure
  dsimp only
  split
  · rfl
  · split
    · rw [s.heldCheck.trimCheck_moves.carrying, State.heldCheck_line]
    · rw [State.heldCheck_line]

/-- R126: an exchange that is started is on the line. -/
theorem State.start_carrying (s : State) (b : BayNo) (x : Exchange) :
    (s.start b x).line.carrying = some ⟨b, x, s.elapsed + 50, false, false⟩ :=
  State.noteExposure_carrying _ _ _

theorem State.start_busy (s : State) (b : BayNo) (x : Exchange) : (s.start b x).line.carrying ≠ none := by
  rw [State.start_carrying]
  exact Option.some_ne_none _

/-! ### The least of the bays that pass a test (entry 15) -/

/-- The first of the least elements of an ascending list. -/
theorem minBy_of_first {key : BayNo → Nat} {l : List BayNo} (hl : l.Pairwise (fun b c => b < c)) {b : BayNo}
    (hb : b ∈ l) (hleast : ∀ c ∈ l, c ≠ b → key b < key c ∨ (key b = key c ∧ b < c)) : minBy key l = some b := by
  induction l with
  | nil => cases hb
  | cons c cs ih =>
    obtain ⟨hc, hcs⟩ := List.pairwise_cons.mp hl
    unfold minBy
    rcases List.mem_cons.mp hb with rfl | hb
    · split
      next => rfl
      next d hd =>
        have hbd : b < d := hc d (minBy_mem hd)
        have hle := hleast d (List.mem_cons_of_mem b (minBy_mem hd)) (ne_of_gt hbd)
        rw [if_neg (by omega)]
    · have hcb : c < b := hc b hb
      rw [ih hcs hb fun d hd => hleast d (List.mem_cons_of_mem c hd)]
      have hlt := (hleast c List.mem_cons_self (ne_of_lt hcb)).resolve_right fun h => lt_asymm h.2 hcb
      exact if_pos hlt

theorem minBy_filter_of_first {key : BayNo → Nat} {p : BayNo → Bool} {b : BayNo} (hb : p b = true)
    (hleast : ∀ c, c ≠ b → p c = true → key b < key c ∨ (key b = key c ∧ b < c)) :
    minBy key (allBays.filter p) = some b := by
  refine minBy_of_first ((List.pairwise_lt_finRange 24).filter p) ?_ fun c hc hne => ?_
  · exact List.mem_filter.mpr ⟨List.mem_finRange b, hb⟩
  · exact hleast c hne (List.mem_filter.mp hc).2

theorem minBy_filter_of_none {key : BayNo → Nat} {p : BayNo → Bool} (h : ∀ b, p b = false) :
    minBy key (allBays.filter p) = none := by
  have hempty : allBays.filter p = [] := List.filter_eq_nil_iff.mpr fun b _ => by simp [h b]
  rw [hempty]
  rfl

theorem baysFrom_find?_none {p : BayNo → Bool} (start : BayNo) (h : ∀ b, p b = false) :
    (baysFrom start).find? p = none :=
  List.find?_eq_none.mpr fun b _ => by simp [h b]

/-! ### What each exchange may start on (R116, R129, R135 to R140) -/

theorem LineBay.free_iff {l : LineBay} : l.free = true ↔ l.opn = none := Option.isNone_iff_eq_none

theorem LineBay.grantOpen_eq_false_iff {l : LineBay} :
    l.grantOpen = false ↔ ∀ v t n m, l.opn ≠ some ⟨.grant v, t, n, m⟩ := by
  unfold LineBay.grantOpen
  split
  next v t n m h => simp [h]
  next h => exact ⟨fun _ v t n m e => h v t n m e, fun _ => rfl⟩

theorem State.onLineService_iff {s : State} {b : BayNo} :
    s.onLineService b = true ↔ (s.bay b).state ≠ .off ∧ (s.bay b).state ≠ .faulted := by
  simp [State.onLineService]

theorem State.retryIsDue_iff {s : State} {b : BayNo} : s.retryIsDue b = true ↔
    ∃ x t n m, (s.lineBay b).opn = some ⟨x, some t, n, m⟩ ∧ t ≤ s.elapsed := by
  unfold State.retryIsDue
  split
  next x t n m h => simp [h]
  next h => exact ⟨fun e => absurd e Bool.false_ne_true, fun ⟨x, t, n, m, e, _⟩ => absurd e (h x t n m)⟩

theorem State.retryKey_of_deferred {s : State} {b : BayNo} {x : Exchange} {t n m : Nat}
    (h : (s.lineBay b).opn = some ⟨x, some t, n, m⟩) : s.retryKey b = t := by
  unfold State.retryKey
  rw [h]
  rfl

theorem State.decreaseReady_iff {s : State} {b : BayNo} : s.decreaseReady b = true ↔
    ∃ p, (s.lineBay b).opn = none ∧ (s.lineBay b).pGrant = some p ∧ p.value < (s.lineBay b).held := by
  unfold State.decreaseReady
  cases (s.lineBay b).pGrant <;> simp [LineBay.free_iff]

theorem State.grantAge_of_pending {s : State} {b : BayNo} {p : PendingGrant} (h : (s.lineBay b).pGrant = some p) :
    s.grantAge b = p.age := by
  unfold State.grantAge
  rw [h]

theorem State.increaseReady_iff {s : State} {b : BayNo} : s.increaseReady b = true ↔
    ∃ p, (s.lineBay b).opn = none ∧ (s.lineBay b).pGrant = some p ∧ (s.lineBay b).held < p.value ∧
      s.exposureSum - s.exposure b + p.value ≤ s.feeder.effective := by
  unfold State.increaseReady
  cases (s.lineBay b).pGrant <;> simp [LineBay.free_iff, and_assoc]

theorem State.wakeMayStart_iff {s : State} {b : BayNo} : s.wakeMayStart b = true ↔
    (s.bay b).state = .dormant ∧ s.feeder.stop = false ∧ s.feeder.hold = .running ∧
      ∃ o, s.orderOf? b = some o ∧ o.state.live = true ∧ o.released = false ∧ o.wakePermitted = true := by
  unfold State.wakeMayStart State.liveOrder?
  cases s.orderOf? b with
  | none => simp
  | some o =>
    by_cases hlive : o.state.live = true ∧ o.released = false
    · simp [Option.filter_some, hlive, and_assoc]
    · simp only [Option.filter_some, Bool.and_eq_true, Bool.not_eq_true', if_neg hlive, Option.some.injEq]
      simp only [Bool.false_eq_true, and_false, false_iff]
      rintro ⟨-, -, -, o', rfl, hl, hr, -⟩
      exact hlive ⟨hl, hr⟩

theorem State.unlockMayStart_iff {s : State} {b : BayNo} : s.unlockMayStart b = true ↔
    (s.lineBay b).held = 0 ∧ (∀ v t n m, (s.lineBay b).opn ≠ some ⟨.grant v, t, n, m⟩) ∧
      (∀ p, (s.lineBay b).pGrant = some p → (s.lineBay b).held ≤ p.value) ∧ s.feeder.stop = false ∧
      (s.bay b).state ≠ .faulted := by
  rw [← LineBay.grantOpen_eq_false_iff]
  unfold State.unlockMayStart
  cases (s.lineBay b).pGrant <;> simp [and_assoc]

theorem State.keepAliveReady_iff {s : State} {b : BayNo} : s.keepAliveReady b = true ↔
    0 < (s.lineBay b).held ∧ (s.lineBay b).opn = none ∧ (s.bay b).state ≠ .off ∧ (s.bay b).state ≠ .faulted ∧
      (∃ due, (s.lineBay b).keepDue = some due ∧ due ≤ s.elapsed) ∧
      ∀ p, (s.lineBay b).pGrant = some p → (s.lineBay b).held < p.value := by
  unfold State.keepAliveReady
  dsimp only
  cases (s.lineBay b).keepDue <;> cases (s.lineBay b).pGrant <;>
    simp [LineBay.free_iff, State.onLineService_iff, and_assoc]

theorem State.spacingOver_iff {s : State} :
    s.spacingOver = true ↔ ∀ t, s.line.lastProbe = some t → t + 5000 ≤ s.elapsed := by
  unfold State.spacingOver
  cases s.line.lastProbe with
  | none => simp
  | some t => exact decide_eq_true_iff.trans ⟨fun h _ e => Option.some.inj e ▸ h, fun h => h t rfl⟩

theorem State.probeable_iff {s : State} {b : BayNo} : s.probeable b = true ↔ (s.lineBay b).opn = none ∧
    ((s.bay b).state = .off ∧ s.enabled b = true ∨ (s.bay b).state = .faulted) := by
  simp [State.probeable, LineBay.free_iff]

theorem State.pollable_iff {s : State} {b : BayNo} : s.pollable b = true ↔
    (s.lineBay b).opn = none ∧ (s.bay b).state ≠ .off ∧ (s.bay b).state ≠ .faulted := by
  simp [State.pollable, LineBay.free_iff, State.onLineService_iff]

/-! ### The pending Wakes and Unlocks, oldest first (R136) -/

/-- An element enters a list sorted by a key at its place. -/
theorem insertBy_key_sorted {α : Type} {key : α → Nat} (x : α) {l : List α}
    (hl : l.Pairwise (fun y z => key y ≤ key z)) :
    (insertBy (fun y z => decide (key y < key z)) x l).Pairwise (fun y z => key y ≤ key z) := by
  induction l with
  | nil => exact List.pairwise_singleton _ _
  | cons y ys ih =>
    obtain ⟨hy, hys⟩ := List.pairwise_cons.mp hl
    unfold insertBy
    split
    next hyx =>
      refine List.pairwise_cons.mpr ⟨fun z hz => ?_, ih hys⟩
      rcases List.mem_cons.mp ((insertBy_perm _ x ys).mem_iff.mp hz) with rfl | hz
      · exact (of_decide_eq_true hyx).le
      · exact hy z hz
    next hyx =>
      have hxy : key x ≤ key y := Nat.le_of_not_lt fun h => hyx (decide_eq_true h)
      refine List.pairwise_cons.mpr ⟨fun z hz => ?_, hl⟩
      rcases List.mem_cons.mp hz with rfl | hz
      · exact hxy
      · exact hxy.trans (hy z hz)

theorem sortBy_key_sorted {α : Type} (key : α → Nat) (l : List α) :
    (sortBy (fun y z => decide (key y < key z)) l).Pairwise (fun y z => key y ≤ key z) := by
  induction l with
  | nil => exact List.Pairwise.nil
  | cons x xs ih => exact insertBy_key_sorted x ih

/-- The exchange of an item of class 3 is pending, and its bay has no open exchange (R134). -/
def State.itemPending (s : State) (i : ServiceItem) : Prop :=
  (s.lineBay i.bay).opn = none ∧
    if i.wake then ∃ w, (s.lineBay i.bay).pWake = some w ∧ w.age = i.age else (s.lineBay i.bay).pUnlock = some i.age

theorem State.itemPending_wake {s : State} {b : BayNo} {age : Nat} : s.itemPending ⟨b, true, age⟩ ↔
    (s.lineBay b).opn = none ∧ ∃ w, (s.lineBay b).pWake = some w ∧ w.age = age := by
  simp [State.itemPending]

theorem State.itemPending_unlock {s : State} {b : BayNo} {age : Nat} : s.itemPending ⟨b, false, age⟩ ↔
    (s.lineBay b).opn = none ∧ (s.lineBay b).pUnlock = some age := by
  simp [State.itemPending]

theorem State.mem_serviceItems {s : State} {i : ServiceItem} : i ∈ s.serviceItems ↔ s.itemPending i := by
  obtain ⟨b, wake, age⟩ := i
  unfold State.serviceItems
  dsimp only
  rw [(sortBy_perm _ _).mem_iff]
  cases wake <;>
    simp [State.itemPending_wake, State.itemPending_unlock, LineBay.free_iff, allBays]

theorem State.serviceItems_sorted (s : State) : s.serviceItems.Pairwise (fun x y => x.age ≤ y.age) :=
  sortBy_key_sorted ServiceItem.age _

/-- A list of at most one item for each bay of a list. -/
theorem nodup_filterMap_bay {l : List BayNo} (hl : l.Nodup) {f : BayNo → Option ServiceItem}
    (hf : ∀ b i, f b = some i → i.bay = b) : (l.filterMap f).Nodup :=
  hl.filterMap fun b c i hb hc => (hf b i hb).symm.trans (hf c i hc)

theorem State.serviceItems_nodup (s : State) : s.serviceItems.Nodup := by
  have hfree : (allBays.filter fun b => (s.lineBay b).free).Nodup := (List.nodup_finRange 24).filter _
  unfold State.serviceItems
  dsimp only
  rw [(sortBy_perm _ _).nodup_iff, List.nodup_append]
  refine ⟨nodup_filterMap_bay hfree fun b i h => ?_, nodup_filterMap_bay hfree fun b i h => ?_, fun i hi j hj => ?_⟩
  · obtain ⟨_, -, rfl⟩ := Option.map_eq_some_iff.mp h
    rfl
  · obtain ⟨_, -, rfl⟩ := Option.map_eq_some_iff.mp h
    rfl
  · obtain ⟨b, -, hb⟩ := List.mem_filterMap.mp hi
    obtain ⟨c, -, hc⟩ := List.mem_filterMap.mp hj
    obtain ⟨_, -, rfl⟩ := Option.map_eq_some_iff.mp hb
    obtain ⟨_, -, rfl⟩ := Option.map_eq_some_iff.mp hc
    simp

end Sys2Proof.Machine
end

section
/-! PROOFS. A pass over the pending Wakes and Unlocks: each that may not start is withdrawn or passed over, and the first
that may is started (R116, R136). -/

namespace Sys2Proof.Machine

/-! ### One item that may not start, and one that may -/

/-- R116, R136: whether the exchange of an item may start. -/
def State.itemMayStart (s : State) (i : ServiceItem) : Bool :=
  if i.wake then s.wakeMayStart i.bay else s.unlockMayStart i.bay

theorem State.itemMayStart_iff {s : State} {i : ServiceItem} : s.itemMayStart i = true ↔
    if i.wake then s.wakeMayStart i.bay = true else s.unlockMayStart i.bay = true := by
  unfold State.itemMayStart
  cases i.wake <;> exact Iff.rfl

/-- R116, R136: what an item that may not start leaves: a Wake is withdrawn, an Unlock passed over. -/
def State.passItem (s : State) (i : ServiceItem) : State :=
  if i.wake then
    (s.updLineBay i.bay (fun l => { l with pWake := none })).updBay i.bay (fun r => { r with wakePending := false })
  else s

theorem State.serveItem_of_busy {s : State} (h : s.line.carrying ≠ none) (i : ServiceItem) : s.serveItem i = s := by
  unfold State.serveItem
  rw [if_pos (Option.isSome_iff_ne_none.mpr h)]

theorem State.serveItem_of_barred {s : State} {i : ServiceItem} (hfree : s.line.carrying = none)
    (hp : s.itemPending i) (hm : s.itemMayStart i = false) : s.serveItem i = s.passItem i := by
  obtain ⟨b, wake, age⟩ := i
  unfold State.serveItem State.passItem
  rw [hfree]
  cases wake with
  | true =>
    obtain ⟨hopn, w, hw, -⟩ := State.itemPending_wake.mp hp
    have hmay : s.wakeMayStart b = false := hm
    simp [hw, hmay, State.withdrawWake, LineBay.wakeOpen, hopn]
  | false =>
    obtain ⟨-, hu⟩ := State.itemPending_unlock.mp hp
    have hmay : s.unlockMayStart b = false := hm
    simp [hu, hmay]

theorem State.serveItem_of_wake {s : State} {b : BayNo} {w : PendingWake} {age : Nat} (hfree : s.line.carrying = none)
    (hw : (s.lineBay b).pWake = some w) (hm : s.itemMayStart ⟨b, true, age⟩ = true) :
    s.serveItem ⟨b, true, age⟩ =
      (s.updLineBay b (fun l => { l with pWake := none })).start b (.wake w.pulse w.period) := by
  have hmay : s.wakeMayStart b = true := hm
  unfold State.serveItem
  simp [hfree, hw, hmay]

theorem State.serveItem_of_unlock {s : State} {b : BayNo} {age : Nat} (hfree : s.line.carrying = none)
    (hu : (s.lineBay b).pUnlock = some age) (hm : s.itemMayStart ⟨b, false, age⟩ = true) :
    s.serveItem ⟨b, false, age⟩ =
      (s.updLineBay b (fun l => { l with pUnlock := none })).start b (.unlock age) := by
  have hmay : s.unlockMayStart b = true := hm
  unfold State.serveItem
  simp [hfree, hu, hmay]

/-! ### What a pass leaves alone -/

/-- Pending Wakes and the wake pending of their bays are all that differs, as far as the service order reads the state. -/
structure PassesWakes (s t : State) : Prop where
  lineBay : ∀ b, t.lineBay b = { s.lineBay b with pWake := (t.lineBay b).pWake }
  pWake : ∀ b w, (t.lineBay b).pWake = some w → (s.lineBay b).pWake = some w
  carrying : t.line.carrying = s.line.carrying
  elapsed : t.elapsed = s.elapsed
  feeder : t.feeder = s.feeder
  records : SameRecords s t

theorem PassesWakes.refl (s : State) : PassesWakes s s := ⟨fun _ => rfl, fun _ _ => id, rfl, rfl, rfl, .refl s⟩

theorem PassesWakes.trans {s t u : State} (h : PassesWakes s t) (k : PassesWakes t u) : PassesWakes s u := by
  have hline := fun b => congrArg (fun l => { l with pWake := (u.lineBay b).pWake }) (h.lineBay b)
  exact ⟨fun b => (k.lineBay b).trans (hline b), fun b w e => h.pWake b w (k.pWake b w e), k.carrying.trans h.carrying, k.elapsed.trans h.elapsed,
    k.feeder.trans h.feeder, h.records.trans k.records⟩

theorem State.passItem_passes (s : State) (i : ServiceItem) : PassesWakes s (s.passItem i) := by
  unfold State.passItem
  split
  · refine ⟨fun b => ?_, fun b w hw => ?_, rfl, rfl, rfl,
      (s.updLineBay_records i.bay _).trans (State.updBay_records _ i.bay _ (fun _ => rfl) (fun _ => rfl))⟩
    · rw [State.updBay_lineBay]
      by_cases hb : b = i.bay
      · rw [hb, State.lineBay_updLineBay]
      · rw [State.lineBay_updLineBay_ne s _ hb]
    · rw [State.updBay_lineBay] at hw
      by_cases hb : b = i.bay
      · rw [hb, State.lineBay_updLineBay] at hw
        cases hw
      · rwa [State.lineBay_updLineBay_ne s _ hb] at hw
  · exact .refl s

theorem State.passItems_passes (items : List ServiceItem) (s : State) :
    PassesWakes s (items.foldl State.passItem s) := by
  induction items generalizing s with
  | nil => exact .refl s
  | cons i is ih => exact (s.passItem_passes i).trans (ih _)

theorem PassesWakes.opn {s t : State} (h : PassesWakes s t) (b : BayNo) : (t.lineBay b).opn = (s.lineBay b).opn := by
  rw [h.lineBay b]

theorem PassesWakes.pUnlock {s t : State} (h : PassesWakes s t) (b : BayNo) :
    (t.lineBay b).pUnlock = (s.lineBay b).pUnlock := by
  rw [h.lineBay b]

/-- R134, R135: classes 1 and 2 read no pending Wake. -/
theorem PassesWakes.retryIsDue {s t : State} (h : PassesWakes s t) (b : BayNo) : t.retryIsDue b = s.retryIsDue b := by
  unfold State.retryIsDue
  rw [h.opn b, h.elapsed]

theorem PassesWakes.decreaseReady {s t : State} (h : PassesWakes s t) (b : BayNo) :
    t.decreaseReady b = s.decreaseReady b := by
  unfold State.decreaseReady
  rw [h.lineBay b]
  rfl

/-- R116, R136: what may start rests on no pending Wake. -/
theorem PassesWakes.itemMayStart {s t : State} (h : PassesWakes s t) (i : ServiceItem) :
    t.itemMayStart i = s.itemMayStart i := by
  have hwake : t.wakeMayStart i.bay = s.wakeMayStart i.bay := by
    unfold State.wakeMayStart State.liveOrder?
    rw [h.records.state, h.records.orderOf?, h.feeder]
  have hunlock : t.unlockMayStart i.bay = s.unlockMayStart i.bay := by
    unfold State.unlockMayStart
    rw [h.records.state, h.lineBay, h.feeder]
    rfl
  unfold State.itemMayStart
  rw [hwake, hunlock]

/-! ### What is pending after a pass -/

/-- Two pending Wakes of one bay are one. -/
theorem State.wake_eq_of_pending {s : State} {i k : ServiceItem} (hi : s.itemPending i) (hk : s.itemPending k)
    (hiw : i.wake = true) (hkw : k.wake = true) (hb : i.bay = k.bay) : i = k := by
  obtain ⟨b, _, age⟩ := i
  obtain ⟨c, _, age'⟩ := k
  obtain rfl : b = c := hb
  subst hiw hkw
  obtain ⟨-, w, hw, rfl⟩ := State.itemPending_wake.mp hi
  obtain ⟨-, w', hw', rfl⟩ := State.itemPending_wake.mp hk
  rw [Option.some.inj (hw.symm.trans hw')]

/-- Another item that is pending stays so. -/
theorem State.itemPending_passItem {s : State} {i k : ServiceItem} (hi : s.itemPending i) (hk : s.itemPending k)
    (hne : i ≠ k) : (s.passItem k).itemPending i := by
  have hpass := s.passItem_passes k
  have hwake : i.wake = true → ((s.passItem k).lineBay i.bay).pWake = (s.lineBay i.bay).pWake := by
    intro hiw
    unfold State.passItem
    split
    next hkw =>
      have hb : i.bay ≠ k.bay := fun hb => hne (State.wake_eq_of_pending hi hk hiw hkw hb)
      rw [State.updBay_lineBay, State.lineBay_updLineBay_ne s _ hb]
    next => rfl
  obtain ⟨hopn, hi⟩ := hi
  refine ⟨(hpass.opn i.bay).trans hopn, ?_⟩
  split
  next hiw =>
    rw [if_pos hiw] at hi
    rwa [hwake hiw]
  next hiw =>
    rw [if_neg hiw] at hi
    rwa [hpass.pUnlock]

/-- What is pending after a pass was pending before. -/
theorem PassesWakes.itemPending {s t : State} (h : PassesWakes s t) {i : ServiceItem} (hi : t.itemPending i) :
    s.itemPending i := by
  obtain ⟨b, wake, age⟩ := i
  cases wake with
  | true =>
    obtain ⟨hopn, w, hw, hage⟩ := State.itemPending_wake.mp hi
    exact State.itemPending_wake.mpr ⟨(h.opn b).symm.trans hopn, w, h.pWake b w hw, hage⟩
  | false =>
    obtain ⟨hopn, hu⟩ := State.itemPending_unlock.mp hi
    exact State.itemPending_unlock.mpr ⟨(h.opn b).symm.trans hopn, (h.pUnlock b).symm.trans hu⟩

/-- A Wake that was passed is pending no more. -/
theorem State.wake_eq_false_of_passed {s : State} {i : ServiceItem} (h : (s.passItem i).itemPending i) :
    i.wake = false := by
  obtain ⟨b, wake, age⟩ := i
  cases wake with
  | true =>
    obtain ⟨-, w, hw, -⟩ := State.itemPending_wake.mp h
    rw [State.passItem, if_pos rfl, State.updBay_lineBay, State.lineBay_updLineBay] at hw
    cases hw
  | false => rfl

theorem State.wake_eq_false_of_passedItems {items : List ServiceItem} {s : State} {i : ServiceItem}
    (h : (items.foldl State.passItem s).itemPending i) (hi : i ∈ items) : i.wake = false := by
  induction items generalizing s with
  | nil => cases hi
  | cons k ks ih =>
    rcases List.mem_cons.mp hi with rfl | hi
    · exact State.wake_eq_false_of_passed ((State.passItems_passes ks _).itemPending h)
    · exact ih h hi

theorem State.passItems_of_unlocks {items : List ServiceItem} (h : ∀ i ∈ items, i.wake = false) (s : State) :
    items.foldl State.passItem s = s := by
  induction items with
  | nil => rfl
  | cons i is ih =>
    obtain ⟨hi, his⟩ := List.forall_mem_cons.mp h
    rw [List.foldl_cons, State.passItem, hi]
    exact ih his

/-! ### A pass -/

theorem State.serveItems_of_busy {s : State} (h : s.line.carrying ≠ none) (items : List ServiceItem) :
    items.foldl State.serveItem s = s := by
  induction items with
  | nil => rfl
  | cons i is ih => rw [List.foldl_cons, State.serveItem_of_busy h, ih]

/-- R116, R136: items that may not start are passed, and an item that is pending behind them stays so. -/
theorem State.serveItems_of_barred {items : List ServiceItem} {s : State} (hfree : s.line.carrying = none)
    (hnodup : items.Nodup) (hp : ∀ i ∈ items, s.itemPending i) (hm : ∀ i ∈ items, s.itemMayStart i = false) :
    items.foldl State.serveItem s = items.foldl State.passItem s ∧
      ∀ k, k ∉ items → s.itemPending k → (items.foldl State.passItem s).itemPending k := by
  induction items generalizing s with
  | nil => exact ⟨rfl, fun _ _ hk => hk⟩
  | cons i is ih =>
    obtain ⟨hi, his⟩ := List.nodup_cons.mp hnodup
    obtain ⟨hpi, hpis⟩ := List.forall_mem_cons.mp hp
    obtain ⟨hmi, hmis⟩ := List.forall_mem_cons.mp hm
    have hpass := s.passItem_passes i
    obtain ⟨hserve, hrest⟩ := ih (hpass.carrying.trans hfree) his
      (fun k hk => State.itemPending_passItem (hpis k hk) hpi fun e => hi (e ▸ hk))
      (fun k hk => (hpass.itemMayStart k).trans (hmis k hk))
    refine ⟨?_, fun k hk hpk => ?_⟩
    · rw [List.foldl_cons, List.foldl_cons, State.serveItem_of_barred hfree hpi hmi, hserve]
    · obtain ⟨hki, hkis⟩ := not_or.mp (mt List.mem_cons.mpr hk)
      exact hrest k hkis (State.itemPending_passItem hpk hpi hki)

/-- R136: the pass over the items of a free line none of which may start. -/
theorem State.serveItems_of_none {s : State} (hfree : s.line.carrying = none)
    (hm : ∀ i ∈ s.serviceItems, s.itemMayStart i = false) :
    s.serveItems = s.serviceItems.foldl State.passItem s :=
  (State.serveItems_of_barred hfree s.serviceItems_nodup (fun _ => State.mem_serviceItems.mp) hm).1

/-- R136: after a pass that started nothing a second pass finds only Unlocks to pass over. -/
theorem State.serveItems_of_passed {s : State} (hfree : s.line.carrying = none)
    (hm : ∀ i ∈ s.serviceItems, s.itemMayStart i = false) :
    (s.serviceItems.foldl State.passItem s).serveItems = s.serviceItems.foldl State.passItem s := by
  have hpass := State.passItems_passes s.serviceItems s
  have hbefore : ∀ i ∈ (s.serviceItems.foldl State.passItem s).serviceItems,
      i ∈ s.serviceItems ∧ i.wake = false := fun i hi => by
    have hpending := State.mem_serviceItems.mp hi
    have hmem := State.mem_serviceItems.mpr (hpass.itemPending hpending)
    exact ⟨hmem, State.wake_eq_false_of_passedItems hpending hmem⟩
  rw [State.serveItems_of_none (hpass.carrying.trans hfree)
    fun i hi => (hpass.itemMayStart i).trans (hm i (hbefore i hi).1)]
  exact State.passItems_of_unlocks (fun i hi => (hbefore i hi).2) _

/-- R136: the first item that may start is served after those before it have been passed. -/
theorem State.serveItems_of_first {s : State} (hfree : s.line.carrying = none) {front back : List ServiceItem}
    {i : ServiceItem} (hitems : s.serviceItems = front ++ i :: back)
    (hfront : ∀ k ∈ front, s.itemMayStart k = false) :
    (front.foldl State.passItem s).itemPending i ∧
      s.serveItems = back.foldl State.serveItem ((front.foldl State.passItem s).serveItem i) := by
  have hpending : ∀ k ∈ front ++ i :: back, s.itemPending k := fun k hk => State.mem_serviceItems.mp (hitems ▸ hk)
  have hnodup : (front ++ i :: back).Nodup := hitems ▸ s.serviceItems_nodup
  have hi : i ∉ front := fun h => (List.nodup_append.mp hnodup).2.2 i h i List.mem_cons_self rfl
  obtain ⟨hserve, hstays⟩ := State.serveItems_of_barred hfree hnodup.of_append_left
    (fun k hk => hpending k (List.mem_append_left _ hk)) hfront
  refine ⟨hstays i hi (hpending i (List.mem_append_right _ List.mem_cons_self)), ?_⟩
  rw [State.serveItems, hitems, List.foldl_append, List.foldl_cons, hserve]

/-- R116, R136: the first item that may start is a Wake. -/
theorem State.serveItems_of_wake {s : State} (hfree : s.line.carrying = none) {front back : List ServiceItem}
    {i : ServiceItem} (hitems : s.serviceItems = front ++ i :: back) (hm : s.itemMayStart i = true)
    (hfront : ∀ k ∈ front, s.itemMayStart k = false) {w : PendingWake} (hwake : i.wake = true)
    (hw : (s.lineBay i.bay).pWake = some w) :
    s.serveItems = ((front.foldl State.passItem s).updLineBay i.bay (fun l => { l with pWake := none })).start i.bay
      (.wake w.pulse w.period) := by
  have hpass := State.passItems_passes front s
  obtain ⟨hp, hserve⟩ := State.serveItems_of_first hfree hitems hfront
  obtain ⟨b, _, age⟩ := i
  subst hwake
  obtain ⟨-, v, hv, -⟩ := State.itemPending_wake.mp hp
  obtain rfl : v = w := Option.some.inj ((hpass.pWake b v hv).symm.trans hw)
  rw [hserve, State.serveItem_of_wake (hpass.carrying.trans hfree) hv ((hpass.itemMayStart _).trans hm),
    State.serveItems_of_busy (State.start_busy _ _ _)]

/-- R136: the first item that may start is an Unlock. -/
theorem State.serveItems_of_unlock {s : State} (hfree : s.line.carrying = none) {front back : List ServiceItem}
    {i : ServiceItem} (hitems : s.serviceItems = front ++ i :: back) (hm : s.itemMayStart i = true)
    (hfront : ∀ k ∈ front, s.itemMayStart k = false) (hunlock : i.wake = false) :
    s.serveItems = ((front.foldl State.passItem s).updLineBay i.bay (fun l => { l with pUnlock := none })).start i.bay
      (.unlock i.age) := by
  have hpass := State.passItems_passes front s
  obtain ⟨hp, hserve⟩ := State.serveItems_of_first hfree hitems hfront
  obtain ⟨b, _, age⟩ := i
  subst hunlock
  obtain ⟨-, hu⟩ := State.itemPending_unlock.mp hp
  rw [hserve, State.serveItem_of_unlock (hpass.carrying.trans hfree) hu ((hpass.itemMayStart _).trans hm),
    State.serveItems_of_busy (State.start_busy _ _ _)]

end Sys2Proof.Machine
end

section
/-! PROOFS. The classes of the service order, each where it holds an exchange that may be started and where it holds none,
and the selection made of them: O59. -/

namespace Sys2Proof.Machine

/-! ### Each class (R134 to R140) -/

theorem State.serveRetry_of_none {s : State} (h : ∀ b, s.retryIsDue b = false) : s.serveRetry = s := by
  unfold State.serveRetry
  rw [minBy_filter_of_none h]

theorem State.serveRetry_of_first {s : State} {b : BayNo} {o : OpenX} (ho : (s.lineBay b).opn = some o)
    (hb : s.retryIsDue b = true) (hleast : ∀ c, c ≠ b → s.retryIsDue c = true →
      s.retryKey b < s.retryKey c ∨ (s.retryKey b = s.retryKey c ∧ b < c)) : s.serveRetry = s.resend b o := by
  unfold State.serveRetry
  rw [minBy_filter_of_first hb hleast]
  dsimp only
  rw [ho]

theorem State.serveDecrease_of_none {s : State} (h : ∀ b, s.decreaseReady b = false) : s.serveDecrease = s := by
  unfold State.serveDecrease
  rw [minBy_filter_of_none h]

theorem State.serveDecrease_of_first {s : State} {b : BayNo} {p : PendingGrant} (hp : (s.lineBay b).pGrant = some p)
    (hb : s.decreaseReady b = true) (hleast : ∀ c, c ≠ b → s.decreaseReady c = true →
      s.grantAge b < s.grantAge c ∨ (s.grantAge b = s.grantAge c ∧ b < c)) :
    s.serveDecrease = s.startPending b p.value := by
  unfold State.serveDecrease
  rw [minBy_filter_of_first hb hleast]
  dsimp only
  rw [hp]

theorem State.serveIncrease_of_none {s : State} (h : ∀ b, s.increaseReady b = false) : s.serveIncrease = s := by
  have hnone : s.increaseOrder.find? s.increaseReady = none := List.find?_eq_none.mpr fun b _ => by simp [h b]
  unfold State.serveIncrease
  rw [hnone]

theorem State.serveIncrease_of_first {s : State} {b : BayNo} {p : PendingGrant} {front back : List BayNo}
    (horder : s.increaseOrder = front ++ b :: back) (hp : (s.lineBay b).pGrant = some p)
    (hb : s.increaseReady b = true) (hfront : ∀ c ∈ front, s.increaseReady c = false) :
    s.serveIncrease = s.startPending b p.value := by
  have hfirst : s.increaseOrder.find? s.increaseReady = some b :=
    List.find?_eq_some_iff_append.mpr ⟨hb, front, back, horder, fun c hc => by simp [hfront c hc]⟩
  unfold State.serveIncrease
  rw [hfirst]
  dsimp only
  rw [hp]

theorem State.serveKeepAlive_of_none {s : State} (h : ∀ b, s.keepAliveReady b = false) : s.serveKeepAlive = s := by
  unfold State.serveKeepAlive
  rw [minBy_filter_of_none h]

theorem State.serveKeepAlive_of_first {s : State} {b : BayNo} (hb : s.keepAliveReady b = true)
    (hleast : ∀ c, c ≠ b → s.keepAliveReady c = true → (s.lineBay b).keepDue.getD 0 < (s.lineBay c).keepDue.getD 0 ∨
      ((s.lineBay b).keepDue.getD 0 = (s.lineBay c).keepDue.getD 0 ∧ b < c)) :
    s.serveKeepAlive = s.start b (.grant (s.lineBay b).held) := by
  unfold State.serveKeepAlive
  rw [minBy_filter_of_first hb hleast]

theorem State.serveProbe_of_none {s : State}
    (h : s.line.probeOwed = false ∨ s.spacingOver = false ∨ ∀ b, s.probeable b = false) : s.serveProbe = s := by
  unfold State.serveProbe
  rcases h with h | h | h
  · simp [h]
  · simp [h]
  · rw [baysFrom_find?_none _ h, ite_self]

theorem State.serveProbe_of_first {s : State} {b : BayNo} (ho : s.line.probeOwed = true) (hs : s.spacingOver = true)
    (hb : (baysFrom s.line.probePos).find? s.probeable = some b) : s.serveProbe = State.start { s with
      line := { s.line with probePos := b + 1, probeOwed := false, lastProbe := some s.elapsed } } b .poll := by
  unfold State.serveProbe
  rw [ho, hs, hb]
  rfl

theorem State.servePoll_of_none {s : State} (h : ∀ b, s.pollable b = false) :
    s.servePoll = State.serveProbe { s with line := { s.line with probeOwed := true } } := by
  unfold State.servePoll
  rw [baysFrom_find?_none _ h]

theorem State.servePoll_of_first {s : State} {b : BayNo} (hb : (baysFrom s.line.pollPos).find? s.pollable = some b) :
    s.servePoll = State.start { s with line := { s.line with
      pollPos := b + 1
      probeOwed := s.line.probeOwed || decide (b < s.line.pollPos) || b == 23 } } b .poll := by
  unfold State.servePoll
  rw [hb, Bool.or_assoc]
  rfl

/-! ### One class after another (R134) -/

theorem State.ifFree_of_free {s : State} (h : s.line.carrying = none) (serve : State → State) :
    s.ifFree serve = serve s := by
  unfold State.ifFree
  rw [h]
  rfl

theorem State.ifFree_of_busy {s : State} (h : s.line.carrying ≠ none) (serve : State → State) : s.ifFree serve = s :=
  if_pos (Option.isSome_iff_ne_none.mpr h)

/-- Classes tried one after another, each while the line is free. -/
def State.serveClasses (s : State) (classes : List (State → State)) : State := classes.foldl State.ifFree s

theorem State.serveClasses_of_busy {s : State} (h : s.line.carrying ≠ none) (classes : List (State → State)) :
    s.serveClasses classes = s := by
  unfold State.serveClasses
  induction classes with
  | nil => rfl
  | cons f fs ih => rw [List.foldl_cons, State.ifFree_of_busy h, ih]

/-- A free line passes the classes that hold nothing, and tries the next. -/
theorem State.serveClasses_of_front {s : State} (hfree : s.line.carrying = none) {front : List (State → State)}
    (hfront : ∀ f ∈ front, f s = s) (f : State → State) (back : List (State → State)) :
    s.serveClasses (front ++ f :: back) = (f s).serveClasses back := by
  unfold State.serveClasses
  induction front with
  | nil => rw [List.nil_append, List.foldl_cons, State.ifFree_of_free hfree]
  | cons g gs ih =>
    obtain ⟨hg, hgs⟩ := List.forall_mem_cons.mp hfront
    rw [List.cons_append, List.foldl_cons, State.ifFree_of_free hfree, hg]
    exact ih hgs

/-- R134: the seven classes in the service order. -/
def serviceOrder : List (State → State) :=
  [State.serveRetry, State.serveDecrease, State.serveItems, State.serveIncrease, State.serveKeepAlive,
    State.serveProbe, State.servePoll]

theorem State.settle_of_busy {s : State} (h : s.line.carrying ≠ none) : s.settle = s := State.ifFree_of_busy h _

theorem State.settle_of_free {s : State} (h : s.line.carrying = none) : s.settle = s.serveClasses serviceOrder :=
  State.ifFree_of_free h _

/-- R134: the classes before one hold nothing that may be started. -/
theorem State.settle_of_front {s : State} (hfree : s.line.carrying = none) {front back : List (State → State)}
    {f : State → State} (horder : serviceOrder = front ++ f :: back) (hfront : ∀ g ∈ front, g s = s) :
    s.settle = (f s).serveClasses back := by
  rw [State.settle_of_free hfree, horder, State.serveClasses_of_front hfree hfront]

/-- R134: the first class that holds an exchange that may be started sends it. -/
theorem State.settle_of_class {s t : State} (hfree : s.line.carrying = none) {front back : List (State → State)}
    {f : State → State} (horder : serviceOrder = front ++ f :: back) (hfront : ∀ g ∈ front, g s = s) (hf : f s = t)
    (ht : t.line.carrying ≠ none) : s.settle = t := by
  rw [State.settle_of_front hfree horder hfront, hf, State.serveClasses_of_busy ht]

/-! ### The selection of a free line -/

/-- No retry is due and no decrease pending: classes 1 and 2 hold nothing. -/
structure State.Calm (s : State) : Prop where
  free : s.line.carrying = none
  retry : ∀ b, s.retryIsDue b = false
  decrease : ∀ b, s.decreaseReady b = false

/-- Nor is a Wake pending, or an Unlock that may start: class 3 holds nothing either. -/
structure State.Quiet (s : State) : Prop extends s.Calm where
  items : ∀ i ∈ s.serviceItems, i.wake = false ∧ s.itemMayStart i = false

theorem State.Calm.front {s : State} (h : s.Calm) : ∀ f ∈ [State.serveRetry, State.serveDecrease], f s = s := by
  simp [State.serveRetry_of_none h.retry, State.serveDecrease_of_none h.decrease]

theorem State.Quiet.front {s : State} (h : s.Quiet) :
    ∀ f ∈ [State.serveRetry, State.serveDecrease, State.serveItems], f s = s := by
  have hitems : s.serveItems = s := by
    rw [State.serveItems_of_none h.free fun i hi => (h.items i hi).2,
      State.passItems_of_unlocks fun i hi => (h.items i hi).1]
  simp [State.serveRetry_of_none h.retry, State.serveDecrease_of_none h.decrease, hitems]

/-- A pass over the pending Wakes and Unlocks leaves classes 1 and 2 without an exchange. -/
theorem PassesWakes.calm {s t : State} (h : PassesWakes s t) (hs : s.Calm) : t.Calm :=
  ⟨h.carrying.trans hs.free, fun b => (h.retryIsDue b).trans (hs.retry b),
    fun b => (h.decreaseReady b).trans (hs.decrease b)⟩

/-- R116, R136: where no Wake and no Unlock may start, the selection is that of the state after the pass. -/
theorem State.settle_of_passed {s : State} (hs : s.Calm) (hm : ∀ i ∈ s.serviceItems, s.itemMayStart i = false) :
    s.settle = (s.serviceItems.foldl State.passItem s).settle := by
  have ht := (State.passItems_passes s.serviceItems s).calm hs
  rw [State.settle_of_front hs.free rfl hs.front, State.settle_of_front ht.free rfl ht.front,
    State.serveItems_of_none hs.free hm, State.serveItems_of_passed hs.free hm]

/-- A free line on which no retry is due and no decrease pending, as the rules state it. -/
theorem State.calm_of_idle {s : State} (hfree : s.line.carrying = none)
    (hretry : ∀ b, ¬ ∃ x t n m, (s.lineBay b).opn = some ⟨x, some t, n, m⟩ ∧ t ≤ s.elapsed)
    (hdecrease : ∀ b p, ¬ ((s.lineBay b).opn = none ∧ (s.lineBay b).pGrant = some p ∧ p.value < (s.lineBay b).held)) :
    s.Calm :=
  ⟨hfree, fun b => Bool.eq_false_iff.mpr fun e => hretry b (State.retryIsDue_iff.mp e),
    fun b => Bool.eq_false_iff.mpr fun e => not_exists.mpr (hdecrease b) (State.decreaseReady_iff.mp e)⟩

/-- Nor holds class 3 an exchange, as the rules state it. -/
theorem State.Calm.quiet {s : State} (hs : s.Calm) (h : ∀ b, (s.lineBay b).opn = none →
    (s.lineBay b).pWake = none ∧ ((s.lineBay b).pUnlock = none ∨ s.unlockMayStart b = false)) : s.Quiet := by
  refine ⟨hs, fun i hi => ?_⟩
  obtain ⟨b, wake, age⟩ := i
  have hp := State.mem_serviceItems.mp hi
  cases wake with
  | true =>
    obtain ⟨hopn, w, hw, -⟩ := State.itemPending_wake.mp hp
    exact absurd ((h b hopn).1.symm.trans hw) (Option.some_ne_none w).symm
  | false =>
    obtain ⟨hopn, hu⟩ := State.itemPending_unlock.mp hp
    exact ⟨rfl, (h b hopn).2.resolve_left fun e => absurd (e.symm.trans hu) (Option.some_ne_none age).symm⟩

theorem State.itemMayStart_eq_false_iff {s : State} {i : ServiceItem} : s.itemMayStart i = false ↔
    ¬ if i.wake then s.wakeMayStart i.bay = true else s.unlockMayStart i.bay = true := by
  rw [← State.itemMayStart_iff, Bool.not_eq_true]

/-- Class 1 (R129): the due retry with the earliest time is sent again. -/
theorem State.settle_of_retry {s : State} (hfree : s.line.carrying = none) {b : BayNo} {x : Exchange} {t n m : Nat}
    (ho : (s.lineBay b).opn = some ⟨x, some t, n, m⟩) (ht : t ≤ s.elapsed)
    (hleast : ∀ c, c ≠ b → s.retryIsDue c = true → s.retryKey c > t ∨ (s.retryKey c = t ∧ b < c)) :
    s.settle = s.resend b ⟨x, some t, n, m⟩ := by
  refine State.settle_of_class hfree (front := []) rfl (fun _ h => nomatch h) (State.serveRetry_of_first ho
    (State.retryIsDue_iff.mpr ⟨x, t, n, m, ho, ht⟩) fun c hc hdue => ?_) (Option.some_ne_none _)
  rw [State.retryKey_of_deferred ho]
  exact (hleast c hc hdue).imp_right fun ⟨he, hbc⟩ => ⟨he.symm, hbc⟩

/-- Class 2 (R135): the oldest pending decrease is started. -/
theorem State.settle_of_decrease {s : State} (hfree : s.line.carrying = none) (hretry : ∀ b, s.retryIsDue b = false)
    {b : BayNo} {p : PendingGrant} (hp : (s.lineBay b).pGrant = some p) (hb : s.decreaseReady b = true)
    (hleast : ∀ c, c ≠ b → s.decreaseReady c = true → p.age < s.grantAge c ∨ (p.age = s.grantAge c ∧ b < c)) :
    s.settle = s.startPending b p.value :=
  State.settle_of_class hfree (front := [State.serveRetry]) rfl (by simp [State.serveRetry_of_none hretry])
    (State.serveDecrease_of_first hp hb (by rwa [State.grantAge_of_pending hp])) (State.start_busy _ _ _)

/-- Class 3 (R116): the first item that may start is a Wake. -/
theorem State.settle_of_wake {s : State} (hs : s.Calm) {front back : List ServiceItem} {i : ServiceItem}
    (hitems : s.serviceItems = front ++ i :: back) (hm : s.itemMayStart i = true)
    (hfront : ∀ k ∈ front, s.itemMayStart k = false) {w : PendingWake} (hwake : i.wake = true)
    (hw : (s.lineBay i.bay).pWake = some w) :
    s.settle = ((front.foldl State.passItem s).updLineBay i.bay (fun l => { l with pWake := none })).start i.bay
      (.wake w.pulse w.period) :=
  State.settle_of_class hs.free rfl hs.front (State.serveItems_of_wake hs.free hitems hm hfront hwake hw)
    (State.start_busy _ _ _)

/-- Class 3 (R136): the first item that may start is an Unlock. -/
theorem State.settle_of_unlock {s : State} (hs : s.Calm) {front back : List ServiceItem} {i : ServiceItem}
    (hitems : s.serviceItems = front ++ i :: back) (hm : s.itemMayStart i = true)
    (hfront : ∀ k ∈ front, s.itemMayStart k = false) (hunlock : i.wake = false) :
    s.settle = ((front.foldl State.passItem s).updLineBay i.bay (fun l => { l with pUnlock := none })).start i.bay
      (.unlock i.age) :=
  State.settle_of_class hs.free rfl hs.front (State.serveItems_of_unlock hs.free hitems hm hfront hunlock)
    (State.start_busy _ _ _)

/-- Class 4 (R137): the first increase that passes the guard is started. -/
theorem State.settle_of_increase {s : State} (hs : s.Quiet) {b : BayNo} {p : PendingGrant} {front back : List BayNo}
    (horder : s.increaseOrder = front ++ b :: back) (hp : (s.lineBay b).pGrant = some p)
    (hb : s.increaseReady b = true) (hfront : ∀ c ∈ front, s.increaseReady c = false) :
    s.settle = s.startPending b p.value :=
  State.settle_of_class hs.free rfl hs.front (State.serveIncrease_of_first horder hp hb hfront) (State.start_busy _ _ _)

/-- Class 4 holds nothing either. -/
structure State.Steady (s : State) : Prop extends s.Quiet where
  increase : ∀ b, s.increaseReady b = false

theorem State.Steady.front {s : State} (h : s.Steady) :
    ∀ f ∈ [State.serveRetry, State.serveDecrease, State.serveItems, State.serveIncrease], f s = s := by
  simpa [State.serveIncrease_of_none h.increase] using h.toQuiet.front

/-- Class 5 (R138): the keep-alive with the earliest time is started. -/
theorem State.settle_of_keepAlive {s : State} (hs : s.Steady) {b : BayNo} (hb : s.keepAliveReady b = true)
    (hleast : ∀ c, c ≠ b → s.keepAliveReady c = true → (s.lineBay b).keepDue.getD 0 < (s.lineBay c).keepDue.getD 0 ∨
      ((s.lineBay b).keepDue.getD 0 = (s.lineBay c).keepDue.getD 0 ∧ b < c)) :
    s.settle = s.start b (.grant (s.lineBay b).held) :=
  State.settle_of_class hs.free rfl hs.front (State.serveKeepAlive_of_first hb hleast) (State.start_busy _ _ _)

/-- Nor is a keep-alive due: what is left are the owed probe and the polls. -/
structure State.Silent (s : State) : Prop extends s.Steady where
  keepAlive : ∀ b, s.keepAliveReady b = false

theorem State.Silent.front {s : State} (h : s.Silent) : ∀ f ∈ [State.serveRetry, State.serveDecrease,
    State.serveItems, State.serveIncrease, State.serveKeepAlive], f s = s := by
  simpa [State.serveKeepAlive_of_none h.keepAlive] using h.toSteady.front

/-- R140: the owed probe is sent. -/
theorem State.settle_of_probe {s : State} (hs : s.Silent) {b : BayNo} (ho : s.line.probeOwed = true)
    (hspacing : s.spacingOver = true) (hb : (baysFrom s.line.probePos).find? s.probeable = some b) :
    s.settle = State.start { s with
      line := { s.line with probePos := b + 1, probeOwed := false, lastProbe := some s.elapsed } } b .poll :=
  State.settle_of_class hs.free rfl hs.front (State.serveProbe_of_first ho hspacing hb) (State.start_busy _ _ _)

/-- R139: with no probe to send the selection is that of the polls. -/
theorem State.settle_of_noProbe {s : State} (hs : s.Silent)
    (hprobe : s.line.probeOwed = false ∨ s.spacingOver = false ∨ ∀ b, s.probeable b = false) : s.settle = s.servePoll :=
  State.settle_of_front hs.free (front := [State.serveRetry, State.serveDecrease, State.serveItems, State.serveIncrease,
    State.serveKeepAlive, State.serveProbe]) rfl (by simpa [State.serveProbe_of_none hprobe] using hs.front)

/-! ### What a sending leaves (R126, R129, R132, R137, R138) -/

theorem State.start_eq (s : State) (b : BayNo) (x : Exchange) : s.start b x = State.noteExposure
    { s with line := { s.line with
      carrying := some ⟨b, x, s.elapsed + 50, false, false⟩
      bays := s.line.bays.set b { s.lineBay b with
        opn := some ⟨x, none, 0, s.elapsed⟩
        keepDue := match x with
          | .grant _ => some (s.elapsed + 8000)
          | _ => (s.lineBay b).keepDue
        increase := match x with
          | .grant v => decide ((s.lineBay b).held < v)
          | _ => (s.lineBay b).increase } } } b (s.exposure b) := by
  cases x <;> rfl

theorem State.resend_eq (s : State) (b : BayNo) (x : Exchange) (retry : Option Nat) (defers sentAt : Nat) :
    s.resend b ⟨x, retry, defers, sentAt⟩ = { s with line := { s.line with
      carrying := some ⟨b, x, s.elapsed + 50, false, false⟩
      bays := s.line.bays.set b { s.lineBay b with
        opn := some ⟨x, none, defers, s.elapsed⟩
        keepDue := match x with
          | .grant _ => some (s.elapsed + 8000)
          | _ => (s.lineBay b).keepDue } } } := by
  cases x <;> rfl

theorem State.increaseOrder_eq (s : State) :
    s.increaseOrder = s.alloc.ranking ++ (List.finRange 24).filter (fun c => c ∉ s.alloc.ranking) :=
  congrArg (s.alloc.ranking ++ ·) (List.filter_congr fun c _ => by simp)

/-! ### O59 -/

/-- Settles O59: what a sending leaves, what each exchange rests on, the items of class 3, then the selection class by
class. -/
theorem selectionFollowsTheServiceOrder : Obligations.SelectionFollowsTheServiceOrder := by
  unfold Obligations.SelectionFollowsTheServiceOrder
  refine ⟨fun s => State.settle_of_busy, fun b x s => ⟨?_, fun v => rfl, fun retry defers sentAt => ?_⟩, fun b s =>
    ⟨State.wakeMayStart_iff, State.unlockMayStart_iff, State.keepAliveReady_iff, State.spacingOver_iff,
      fun x t n m => State.retryKey_of_deferred, s.increaseOrder_eq, rfl, State.probeable_iff, State.pollable_iff⟩,
    fun s => ⟨s.serviceItems_sorted, s.serviceItems_nodup, fun b age =>
      ⟨State.mem_serviceItems.trans State.itemPending_wake, State.mem_serviceItems.trans State.itemPending_unlock⟩⟩,
    fun s hfree => ?_⟩
  · cases x <;> exact s.start_eq b _
  · cases x <;> exact s.resend_eq b _ retry defers sentAt
  intro due decrease increase calm quiet mayStart passed
  have hcalm : calm → s.Calm := fun h => State.calm_of_idle hfree h.1 h.2
  have hquiet : quiet → s.Quiet := fun h => (hcalm h.1).quiet h.2
  have hincrease : ∀ {b}, (∀ q, ¬ increase b q) → s.increaseReady b = false := fun {b} h =>
    Bool.eq_false_iff.mpr fun e => not_exists.mpr h (State.increaseReady_iff.mp e)
  have hbarred : ∀ {i}, ¬ mayStart i → s.itemMayStart i = false := State.itemMayStart_eq_false_iff.mpr
  refine ⟨fun b x t n m ho ht hleast => ?_, fun hdue b p hd hleast => ?_, fun hc front i back hitems hm hfront =>
    ⟨fun w hwake hw => ?_, fun hunlock => ?_⟩, fun hc hm => ?_, fun hq b p front back horder hi hfront => ?_,
    fun hq hno => ?_⟩
  · exact State.settle_of_retry hfree ho ht fun c hc hd => hleast c hc (State.retryIsDue_iff.mp hd)
  · refine State.settle_of_decrease hfree (fun c => Bool.eq_false_iff.mpr fun e => hdue c (State.retryIsDue_iff.mp e))
      hd.2.1 (State.decreaseReady_iff.mpr ⟨p, hd⟩) fun c hc hd => ?_
    obtain ⟨q, hq⟩ := State.decreaseReady_iff.mp hd
    rw [State.grantAge_of_pending hq.2.1]
    exact hleast c q hc hq
  · exact State.settle_of_wake (hcalm hc) hitems (State.itemMayStart_iff.mpr hm) (fun k hk => hbarred (hfront k hk))
      hwake hw
  · exact State.settle_of_unlock (hcalm hc) hitems (State.itemMayStart_iff.mpr hm) (fun k hk => hbarred (hfront k hk))
      hunlock
  · exact State.settle_of_passed (hcalm hc) fun i hi => hbarred (hm i hi)
  · exact State.settle_of_increase (hquiet hq) horder hi.2.1 (State.increaseReady_iff.mpr ⟨p, hi⟩)
      fun c hc => hincrease (hfront c hc)
  have hsteady : s.Steady := ⟨hquiet hq, fun b => hincrease (hno b)⟩
  refine ⟨fun b hb hleast => State.settle_of_keepAlive hsteady hb hleast, fun hkeep => ?_⟩
  have hsilent : s.Silent := ⟨hsteady, hkeep⟩
  refine ⟨fun b => State.settle_of_probe hsilent, fun hprobe => ?_⟩
  rw [State.settle_of_noProbe hsilent hprobe]
  refine ⟨fun b => State.servePoll_of_first, fun hpoll => ?_⟩
  rw [State.servePoll_of_none hpoll]
  exact ⟨fun h => State.serveProbe_of_none (.inr h), fun hspacing b =>
    State.serveProbe_of_first (s := { s with line := { s.line with probeOwed := true } }) rfl hspacing⟩

end Sys2Proof.Machine
end

section
/-! PROOFS. The final outcomes of a Wake, an Unlock and a Poll, a failed wake try, and the fault limit: O56. -/

namespace Sys2Proof.Machine

/-! ### The counts of an outcome (R130) -/

@[simp] theorem State.count_bays (s : State) (b : BayNo) (o : PostOutcome) : (s.count b o).bays = s.bays := by
  unfold State.count
  split <;> rfl

@[simp] theorem State.bay_count_endExchange (s : State) (b c : BayNo) (o : PostOutcome) :
    ((s.endExchange b).count b o).bay c = s.bay c := by
  unfold State.bay
  rw [State.count_bays]
  rfl

/-- R126, R130: the exchange that has ended, with the counts of its outcome. -/
theorem State.count_endExchange (s : State) (b : BayNo) (o : PostOutcome) : (s.endExchange b).count b o =
    { s with line := { s.line with
      carrying := none
      bays := s.line.bays.set b { s.lineBay b with
        opn := none
        silent := if (s.bay b).state ≠ .off ∧ (s.bay b).state ≠ .faulted then
            (if o = .silent then (s.lineBay b).silent + 1 else 0) else (s.lineBay b).silent
        refuse := if (s.bay b).state ≠ .off ∧ (s.bay b).state ≠ .faulted then
            (if o = .refuse then (s.lineBay b).refuse + 1 else 0) else (s.lineBay b).refuse } } } := by
  have hserved : (s.endExchange b).onLineService b = true ↔ (s.bay b).state ≠ .off ∧ (s.bay b).state ≠ .faulted :=
    State.onLineService_iff
  unfold State.count
  by_cases h : (s.bay b).state ≠ .off ∧ (s.bay b).state ≠ .faulted
  · simp only [if_pos (hserved.mpr h), if_pos h]
    cases o <;> simp [State.updLineBay, State.endExchange, State.freeLine, LineBay.count, State.lineBay]
  · simp only [if_neg (mt hserved.mp h), if_neg h]
    rfl

/-- R130: an outcome that takes a count to the fault limit: the third Refuse or Silent in a row of a bay that counts. -/
theorem State.atFaultLimit_count {s : State} {b : BayNo} {o : PostOutcome} :
    ((s.endExchange b).count b o).atFaultLimit b = true ↔
      ((s.bay b).state ≠ .off ∧ (s.bay b).state ≠ .faulted) ∧
        (o = .refuse ∧ 2 ≤ (s.lineBay b).refuse ∨ o = .silent ∧ 2 ≤ (s.lineBay b).silent) := by
  have hserved : ((s.endExchange b).count b o).onLineService b = s.onLineService b := by
    unfold State.onLineService
    rw [State.bay_count_endExchange]
  unfold State.atFaultLimit
  rw [Bool.and_eq_true, hserved, State.onLineService_iff]
  refine and_congr_right fun h => ?_
  have hend : (s.endExchange b).onLineService b = true := State.onLineService_iff.mpr h
  have hline : ((s.endExchange b).count b o).lineBay b = ({ s.lineBay b with opn := none } : LineBay).count o := by
    unfold State.count
    rw [if_pos hend, State.lineBay_updLineBay, State.endExchange, State.freeLine_lineBay,
      State.lineBay_updLineBay]
  rw [hline]
  cases o <;> simp [LineBay.count, Config.faultLimit]

/-- R130: an accepted exchange faults no bay. -/
theorem State.atFaultLimit_accept (s : State) (b : BayNo) :
    ((s.endExchange b).count b .accept).atFaultLimit b = false := by
  refine Bool.eq_false_iff.mpr fun h => ?_
  obtain ⟨-, ⟨h, -⟩ | ⟨h, -⟩⟩ := State.atFaultLimit_count.mp h <;> cases h

/-! ### The final outcome by the kind of the exchange (R117, R118, R139, R143) -/

theorem State.finish_of_wake {s : State} {b : BayNo} {pulse period n m : Nat} {t : Option Nat}
    (h : (s.lineBay b).opn = some ⟨.wake pulse period, t, n, m⟩) (o : PostOutcome) :
    s.finish b o = s.finishWake b period o := by
  unfold State.finish
  rw [h]

theorem State.finish_of_unlock {s : State} {b : BayNo} {age n m : Nat} {t : Option Nat}
    (h : (s.lineBay b).opn = some ⟨.unlock age, t, n, m⟩) (o : PostOutcome) :
    s.finish b o = s.finishUnlock b age o := by
  unfold State.finish
  rw [h]

theorem State.finish_of_poll {s : State} {b : BayNo} {n m : Nat} {t : Option Nat}
    (h : (s.lineBay b).opn = some ⟨.poll, t, n, m⟩) (o : PostOutcome) : s.finish b o = s.finishPoll b o := by
  unfold State.finish
  rw [h]

/-- R117: the record of a bay whose Wake has been accepted. -/
theorem State.wakeAccepted_eq (s : State) (b : BayNo) (period : Nat) :
    s.wakeAccepted b period = s.updBay b (fun r => { r with
      wakePending := false
      state := if (s.bay b).state = .dormant ∧ (s.bay b).dormantSince = some period then .waking else r.state
      wakeWindow := if (s.bay b).state = .dormant ∧ (s.bay b).dormantSince = some period then some (s.elapsed + 90000)
        else r.wakeWindow }) := by
  unfold State.wakeAccepted
  dsimp only
  split
  next => rw [State.updBay_updBay]; rfl
  next => rfl

theorem State.finishWake_accept (s : State) (b : BayNo) (period : Nat) :
    s.finishWake b period .accept = ((s.endExchange b).count b .accept).updBay b (fun r => { r with
      wakePending := false
      state := if (s.bay b).state = .dormant ∧ (s.bay b).dormantSince = some period then .waking else r.state
      wakeWindow := if (s.bay b).state = .dormant ∧ (s.bay b).dormantSince = some period then some (s.elapsed + 90000)
        else r.wakeWindow }) := by
  have helapsed : ((s.endExchange b).count b .accept).elapsed = s.elapsed := by
    rw [State.count_endExchange]
  unfold State.finishWake
  dsimp only
  rw [if_neg (by rw [State.atFaultLimit_accept]; exact Bool.false_ne_true), State.wakeAccepted_eq,
    State.bay_count_endExchange, helapsed]

/-- R118, R130: a Wake refused or silent faults its bay, or is a failed try of the same dormancy period. -/
theorem State.finishWake_of_ne_accept (s : State) (b : BayNo) (period : Nat) {o : PostOutcome} (ho : o ≠ .accept) :
    let t := ((s.endExchange b).count b o).updBay b (fun r => { r with wakePending := false })
    s.finishWake b period o = if ((s.endExchange b).count b o).atFaultLimit b then t.faultLimit b
      else if (s.bay b).state = .dormant ∧ (s.bay b).dormantSince = some period then t.wakeTryFailed b else t := by
  unfold State.finishWake State.wakeNotAccepted
  dsimp only
  rw [State.bay_count_endExchange]
  cases o with
  | accept => exact absurd rfl ho
  | refuse => rfl
  | silent => rfl

theorem State.finishUnlock_accept (s : State) (b : BayNo) (age : Nat) :
    s.finishUnlock b age .accept = (s.endExchange b).count b .accept := by
  unfold State.finishUnlock
  dsimp only
  rw [if_pos rfl, if_neg (by rw [State.atFaultLimit_accept]; exact Bool.false_ne_true)]

/-- R143: an Unlock refused or silent is pending again with its age, and faults its bay at the limit. -/
theorem State.finishUnlock_of_ne_accept (s : State) (b : BayNo) (age : Nat) {o : PostOutcome} (ho : o ≠ .accept) :
    let t := ((s.endExchange b).count b o).updLineBay b (fun l => { l with pUnlock := some age })
    s.finishUnlock b age o = if ((s.endExchange b).count b o).atFaultLimit b then t.faultLimit b else t := by
  have hlimit : (((s.endExchange b).count b o).updLineBay b (fun l => { l with pUnlock := some age })).atFaultLimit b =
      ((s.endExchange b).count b o).atFaultLimit b := by
    unfold State.atFaultLimit
    rw [State.lineBay_updLineBay]
    rfl
  unfold State.finishUnlock
  dsimp only
  rw [if_neg ho, hlimit]

/-! ### The answer to what the line carries (R127) -/

/-- An Accept or a Refuse is taken within the window and discarded after it. -/
theorem State.takeOutcome_of_answer {s : State} {b : BayNo} {c : OnLine} {kind : Exchange → Bool} {o : PostOutcome}
    (hc : s.line.carrying = some c) (hb : c.bay = b) (ha : c.abandoned = false) (hk : kind c.what = true)
    (ho : o ≠ .silent) : s.takeOutcome b kind o = if s.elapsed ≤ c.windowDue then s.finish b o else s := by
  have hcarries : s.carries b kind = true := by simp [State.carries, hc, hb, hk]
  have hanswer : s.answer (fun t => t.finish b o) = if s.elapsed ≤ c.windowDue then s.finish b o else s := by
    simp [State.answer, State.inWindow, State.carriesAbandoned, hc, ha]
  unfold State.takeOutcome
  rw [if_pos hcarries]
  cases o with
  | silent => exact absurd rfl ho
  | accept => exact hanswer
  | refuse => exact hanswer

/-- R126, R127: with the selection that follows. -/
theorem State.next_settle_takeOutcome {s : State} {b : BayNo} {c : OnLine} {kind : Exchange → Bool} {o : PostOutcome}
    (hc : s.line.carrying = some c) (hb : c.bay = b) (ha : c.abandoned = false) (hk : kind c.what = true)
    (ho : o ≠ .silent) :
    (s.elapsed ≤ c.windowDue → (Host.Outcome.next (s.takeOutcome b kind o).settle : Host.Outcome State Fault Refusal) =
      .next (s.finish b o).settle) ∧
    (c.windowDue < s.elapsed → (Host.Outcome.next (s.takeOutcome b kind o).settle : Host.Outcome State Fault Refusal) =
      .next s) := by
  rw [State.takeOutcome_of_answer hc hb ha hk ho]
  refine ⟨fun h => by rw [if_pos h], fun h => ?_⟩
  rw [if_neg (Nat.not_le.mpr h), State.settle_of_busy (hc ▸ Option.some_ne_none c)]

/-! ### What a trim leaves of a bay that is not served (R133) -/

theorem MovesTargets.bays {s t : State} (h : MovesTargets s t) : t.bays = s.bays := by
  have hsame := congrArg (fun u => u.bays) h.shares
  exact hsame

theorem MovesTargets.onLineService {s t : State} (h : MovesTargets s t) (b : BayNo) :
    t.onLineService b = s.onLineService b := by
  unfold State.onLineService State.bay
  rw [h.bays]

theorem State.leaveEligibility_moves (s : State) (was : Bool) (b : BayNo) :
    MovesTargets s (s.leaveEligibility was b) := by
  unfold State.leaveEligibility
  split
  · exact (s.setTarget_moves b 0).trans (State.trimCheck_moves _)
  · exact .refl s

/-- R133: reconciling a bay changes the line record of no other bay, nor that of a bay that is Off or Faulted. -/
theorem State.lineBay_reconcile {s : State} {b : BayNo} (h : s.onLineService b = false) (c : BayNo) :
    (s.reconcile c).lineBay b = s.lineBay b := by
  unfold State.reconcile
  split
  next hc =>
    have hne : b ≠ c := by
      rintro rfl
      exact Bool.false_ne_true (h.symm.trans hc)
    dsimp only
    split
    · exact State.lineBay_updLineBay_ne s _ hne
    · split
      · exact State.lineBay_updLineBay_ne s _ hne
      · exact State.lineBay_updLineBay_ne s (fun l => { l with pGrant := some ⟨s.target c, s.line.nextAge⟩ }) hne
  next => rfl

theorem State.lineBay_setTarget {s : State} {b : BayNo} (h : s.onLineService b = false) (c : BayNo) (v : Nat) :
    (s.setTarget c v).lineBay b = s.lineBay b := by
  unfold State.setTarget
  split
  · rfl
  · exact State.lineBay_reconcile (s := s.withTarget c v) h c

theorem State.lineBay_trimCheck {s : State} {b : BayNo} (h : s.onLineService b = false) :
    s.trimCheck.lineBay b = s.lineBay b := by
  unfold State.trimCheck
  generalize s.alloc.ranking.reverse = l
  induction l generalizing s with
  | nil => rfl
  | cons c cs ih =>
    have hbay : (s.trimBay c).lineBay b = s.lineBay b := by
      unfold State.trimBay
      split
      · rfl
      · exact State.lineBay_setTarget h c _
    rw [List.foldl_cons, ih (((s.trimBay_moves c).onLineService b).trans h), hbay]

theorem State.lineBay_leaveEligibility {s : State} {b : BayNo} (h : s.onLineService b = false) (was : Bool)
    (c : BayNo) : (s.leaveEligibility was c).lineBay b = s.lineBay b := by
  unfold State.leaveEligibility
  split
  · exact (State.lineBay_trimCheck (((s.setTarget_moves c 0).onLineService b).trans h)).trans
      (State.lineBay_setTarget h c 0)
  · rfl

@[simp] theorem State.append_alloc (s : State) (k : EventKind) (x : Option Subject) (e : Edge) :
    (s.append k x e).alloc = s.alloc := by
  unfold State.append
  split <;> rfl

@[simp] theorem State.target_heldCheck (s : State) (b : BayNo) : s.heldCheck.target b = s.target b := by
  unfold State.heldCheck
  split
  · unfold State.target
    rw [State.append_alloc]
  · rfl
  · rfl

theorem State.closeOrder_line (s : State) (tag : Nat) (out : CloseOutcome) : (s.closeOrder tag out).line = s.line := by
  have henter : ∀ (t : State) (o : Order), (t.enterLog o).line = t.line := fun t o => by
    unfold State.enterLog
    split <;> rfl
  unfold State.closeOrder
  split
  · rfl
  · rw [henter, State.append_line, State.updOrder_line]

/-! ### The fault limit (R43, R130) -/

/-- R130, R43: BayFaulted is reported, the pending exchanges are dropped and the bay is Faulted. -/
def State.markedFaulted (s : State) (b : BayNo) : State :=
  ((s.append .bayFaulted (some (.bay b)) .raised).updLineBay b (fun l =>
    { l with pGrant := none, pWake := none, pUnlock := none, keepDue := none })).updBay b BayRec.toFaulted

/-- R43: a Closing order of the Faulted bay is closed Cancelled and the binding cleared. -/
def State.closedFaulted (s : State) (b : BayNo) : State :=
  match s.orderOf? b with
  | some o => if o.state = .closing then ((s.markedFaulted b).closeOrder o.tag .cancelled).updBay b BayRec.clearBinding
      else s.markedFaulted b
  | none => s.markedFaulted b

theorem State.markedFaulted_eq (s : State) (b : BayNo) : s.markedFaulted b =
    { s.append .bayFaulted (some (.bay b)) .raised with
      bays := s.bays.set b { s.bay b with
        state := .faulted, step := none, admTimer := none, dormTimer := none, dormantSince := none, retryAt := none,
        barred := false, wakeWindow := none, wakePending := false }
      line := { s.line with bays := s.line.bays.set b { s.lineBay b with
        pGrant := none, pWake := none, pUnlock := none, keepDue := none } } } := by
  simp only [State.markedFaulted, State.updBay, State.updLineBay, State.append_bays, State.append_line]
  rfl

theorem State.bay_markedFaulted (s : State) (b : BayNo) : (s.markedFaulted b).bay b = (s.bay b).toFaulted := by
  unfold State.markedFaulted
  rw [State.bay_updBay, State.updLineBay_bay]
  unfold State.bay
  rw [State.append_bays]

theorem State.lineBay_markedFaulted (s : State) (b : BayNo) : (s.markedFaulted b).lineBay b =
    { s.lineBay b with pGrant := none, pWake := none, pUnlock := none, keepDue := none } := by
  unfold State.markedFaulted
  rw [State.updBay_lineBay, State.lineBay_updLineBay]
  unfold State.lineBay
  rw [State.append_line]

theorem State.orderOf?_markedFaulted (s : State) (b : BayNo) : (s.markedFaulted b).orderOf? b = s.orderOf? b :=
  (State.orderOf?_updBay rfl).trans (((s.append_records _ _ _).trans (State.updLineBay_records _ b _)).orderOf? b)

/-- R43: the closure leaves the line, and of the bay's record all but the binding. -/
theorem State.closedFaulted_line (s : State) (b : BayNo) : (s.closedFaulted b).line = (s.markedFaulted b).line := by
  unfold State.closedFaulted
  split
  · split
    · rw [State.updBay_line, State.closeOrder_line]
    · rfl
  · rfl

theorem State.bay_closedFaulted (s : State) (b : BayNo) : (s.closedFaulted b).bay b = (s.bay b).toFaulted ∨
    (s.closedFaulted b).bay b = (s.bay b).toFaulted.clearBinding := by
  unfold State.closedFaulted
  split
  · split
    · refine .inr ?_
      rw [State.bay_updBay, ((s.markedFaulted b).closeOrder_leaves b _ _).bay, State.bay_markedFaulted]
    · exact .inl (s.bay_markedFaulted b)
  · exact .inl (s.bay_markedFaulted b)

theorem State.closedFaulted_unserved (s : State) (b : BayNo) : (s.closedFaulted b).onLineService b = false := by
  have hstate : ((s.closedFaulted b).bay b).state = .faulted := by
    rcases s.bay_closedFaulted b with h | h <;> rw [h] <;> rfl
  simp [State.onLineService, hstate]

/-- R130, R43, R76: the fault limit of a bay that counts, step by step. -/
theorem State.faultLimit_eq {s : State} {b : BayNo} (ho : (s.bay b).state ≠ .off) (hf : (s.bay b).state ≠ .faulted) :
    s.faultLimit b = ((s.closedFaulted b).leaveEligibility (s.eligible b) b).heldCheck := by
  have hrecords : SameRecords s ((s.append .bayFaulted (some (.bay b)) .raised).updLineBay b (fun l =>
      { l with pGrant := none, pWake := none, pUnlock := none, keepDue := none })) :=
    (s.append_records _ _ _).trans (State.updLineBay_records _ b _)
  have horder := s.orderOf?_markedFaulted b
  unfold State.markedFaulted at horder
  unfold State.faultLimit State.faultReport
  dsimp only
  rw [hrecords.state, if_neg (not_or.mpr ⟨ho, hf⟩), hrecords.eligible, horder]
  rfl

theorem State.lineBay_faultLimit {s : State} {b : BayNo} (ho : (s.bay b).state ≠ .off)
    (hf : (s.bay b).state ≠ .faulted) : (s.faultLimit b).lineBay b =
      { s.lineBay b with pGrant := none, pWake := none, pUnlock := none, keepDue := none } := by
  have hclosed : (s.closedFaulted b).lineBay b = (s.markedFaulted b).lineBay b := by
    unfold State.lineBay
    rw [State.closedFaulted_line]
  rw [State.faultLimit_eq ho hf, (State.heldCheck_leaves _ b).lineBay,
    State.lineBay_leaveEligibility (s.closedFaulted_unserved b), hclosed, State.lineBay_markedFaulted]

theorem State.bay_faultLimit {s : State} {b : BayNo} (ho : (s.bay b).state ≠ .off)
    (hf : (s.bay b).state ≠ .faulted) :
    (s.faultLimit b).bay b = (s.bay b).toFaulted ∨ (s.faultLimit b).bay b = (s.bay b).toFaulted.clearBinding := by
  have hbay : (s.faultLimit b).bay b = (s.closedFaulted b).bay b := by
    rw [State.faultLimit_eq ho hf, (State.heldCheck_leaves _ b).bay]
    unfold State.bay
    rw [(State.leaveEligibility_moves _ _ b).bays]
  rw [hbay]
  exact s.bay_closedFaulted b

theorem State.target_faultLimit {s : State} {b : BayNo} (ho : (s.bay b).state ≠ .off)
    (hf : (s.bay b).state ≠ .faulted) (he : s.eligible b = true) : (s.faultLimit b).target b = 0 := by
  rw [State.faultLimit_eq ho hf, he, State.target_heldCheck, State.target_leaveEligibility]

theorem State.faultLimit_carrying {s : State} {b : BayNo} (ho : (s.bay b).state ≠ .off)
    (hf : (s.bay b).state ≠ .faulted) : (s.faultLimit b).line.carrying = s.line.carrying := by
  rw [State.faultLimit_eq ho hf, State.heldCheck_line, (State.leaveEligibility_moves _ _ b).carrying,
    State.closedFaulted_line, State.markedFaulted_eq]

/-! ### O56 -/

/-- Settles O56: the outcomes by the kind of the exchange, a failed try by its count, the fault limit step by step. -/
theorem wakeAndUnlockOutcomesAreTaken : Obligations.WakeAndUnlockOutcomesAreTaken := by
  unfold Obligations.WakeAndUnlockOutcomesAreTaken
  refine ⟨fun b c defers sentAt s hc hb ha hopn => ?_, fun b s => ⟨fun ho => ?_, fun o ho => ?_⟩,
    fun b s hoff hfaulted => ⟨?_, State.lineBay_faultLimit hoff hfaulted, ?_, State.target_faultLimit hoff hfaulted,
      State.faultLimit_carrying hoff hfaulted⟩⟩
  · intro counts limit ended
    have hended : ∀ o, (s.endExchange b).count b o = ended o := s.count_endExchange b
    have hlimit : ∀ {o}, ((s.endExchange b).count b o).atFaultLimit b = true ↔ limit o := State.atFaultLimit_count
    refine ⟨fun pulse period hw => ?_, fun age hu => ?_, fun hp o ho => ?_⟩
    · rw [hw] at hopn
      refine ⟨?_, fun o ho => ⟨fun hl => ?_, fun hl hsame => ?_, fun hl hsame => ?_⟩, fun o ho => ?_⟩
      · rw [State.finish_of_wake hopn, State.finishWake_accept, hended]
      · rw [State.finish_of_wake hopn, State.finishWake_of_ne_accept s b period ho, if_pos (hlimit.mpr hl), hended]
      · rw [State.finish_of_wake hopn, State.finishWake_of_ne_accept s b period ho, if_neg (mt hlimit.mp hl),
          if_pos hsame, hended]
      · rw [State.finish_of_wake hopn, State.finishWake_of_ne_accept s b period ho, if_neg (mt hlimit.mp hl),
          if_neg hsame, hended]
      · exact State.next_settle_takeOutcome hc hb ha (kind := Exchange.isWake) (by rw [hw]; rfl) ho
    · rw [hu] at hopn
      refine ⟨?_, fun o ho => ⟨fun hl => ?_, fun hl => ?_⟩, fun o ho => ?_⟩
      · rw [State.finish_of_unlock hopn, State.finishUnlock_accept, hended]
      · rw [State.finish_of_unlock hopn, State.finishUnlock_of_ne_accept s b age ho, if_pos (hlimit.mpr hl), hended]
      · rw [State.finish_of_unlock hopn, State.finishUnlock_of_ne_accept s b age ho, if_neg (mt hlimit.mp hl), hended]
      · exact State.next_settle_takeOutcome hc hb ha (kind := Exchange.isUnlock) (by rw [hu]; rfl) ho
    · rw [hp] at hopn
      rw [State.finish_of_poll hopn, State.finishPoll, hended]
      exact ⟨fun hl => if_pos (hended o ▸ hlimit.mpr hl), fun hl => if_neg (hended o ▸ mt hlimit.mp hl)⟩
  · unfold State.wakeTryFailed
    rw [ho]
  · exact State.wakeTryFailed_of_some ho
  · rw [State.faultLimit_eq hoff hfaulted]
    unfold State.closedFaulted
    rw [State.markedFaulted_eq]
    cases s.orderOf? b <;> rfl
  · rcases State.bay_faultLimit hoff hfaulted with h | h <;> rw [h] <;> exact ⟨rfl, rfl, rfl, rfl, rfl, rfl, rfl⟩

end Sys2Proof.Machine
end

section
/-! PROOFS. No command but a post status carries the sum of the exposures over the effective ceiling, or further over it
(R137): O60. -/

namespace Sys2Proof.Machine

/-! ### Timers and ports -/

/-- Entry 2: time that runs to a due moment raises nothing, nor does what the expiry does. -/
theorem State.expiry_guarded (s : State) (due : Nat) {f : State → State} (h : ∀ t, NoRise t (f t)) :
    Guarded s (f (s.runTo due)).settle := ((s.runTo_norise due).trans (h _)).settles

theorem execRoundTimerExpiry_guarded {s t : State} (h : execRoundTimerExpiry s = .next t) : Guarded s t := by
  unfold execRoundTimerExpiry at h
  split at h <;> cases h
  · exact s.expiry_guarded _ fun u => u.round_norise.trans (State.startRoundTimer_norise _)
  · exact .refl s

theorem execStaleTimerExpiry_guarded {s t : State} (h : execStaleTimerExpiry s = .next t) : Guarded s t := by
  unfold execStaleTimerExpiry at h
  split at h <;> cases h
  · exact s.expiry_guarded _ State.meterStale_norise
  · exact .refl s

theorem execAdmissionTimerExpiry_guarded {b : BayNo} {s t : State} (h : execAdmissionTimerExpiry b s = .next t) :
    Guarded s t := by
  unfold execAdmissionTimerExpiry at h
  split at h <;> cases h
  · exact ((s.runTo_norise _).trans (State.admissionTimeout_norise _ b)).guarded
  · exact .refl s

theorem execDormancyExpiry_guarded {b : BayNo} {s t : State} (h : execDormancyExpiry b s = .next t) : Guarded s t := by
  unfold execDormancyExpiry at h
  split at h <;> cases h
  · exact s.expiry_guarded _ fun u => u.becomeDormant_norise b
  · exact .refl s

theorem execWakeWindowExpiry_guarded {b : BayNo} {s t : State} (h : execWakeWindowExpiry b s = .next t) :
    Guarded s t := by
  unfold execWakeWindowExpiry at h
  split at h <;> cases h
  · exact ((s.runTo_norise _).trans (State.wakeWindowOver_norise _ b)).guarded
  · exact .refl s

theorem execDeferRetryDue_guarded {b : BayNo} {s t : State} (h : execDeferRetryDue b s = .next t) : Guarded s t := by
  unfold execDeferRetryDue at h
  split at h <;> cases h
  · exact s.expiry_guarded _ NoRise.refl
  · exact .refl s

theorem execKeepAliveDue_guarded {b : BayNo} {s t : State} (h : execKeepAliveDue b s = .next t) : Guarded s t := by
  unfold execKeepAliveDue at h
  split at h <;> cases h
  · exact s.expiry_guarded _ NoRise.refl
  · exact .refl s

theorem execProbeSpacingEnd_guarded {s t : State} (h : execProbeSpacingEnd s = .next t) : Guarded s t := by
  unfold execProbeSpacingEnd at h
  split at h
  · split at h <;> cases h
    · exact s.expiry_guarded _ NoRise.refl
    · exact (NoRise.refl s).settles
  · cases h
    exact .refl s

theorem execFilterTimerExpiry_guarded {y : InputNo} {s t : State} (h : execFilterTimerExpiry y s = .next t) :
    Guarded s t := by
  unfold execFilterTimerExpiry at h
  split at h <;> cases h
  · exact s.expiry_guarded _ fun u => u.filterOver_norise y _
  · exact .refl s

theorem execCommitEnd_guarded {good : Bool} {s t : State} (h : execCommitEnd good s = .next t) : Guarded s t := by
  unfold execCommitEnd at h
  split at h <;> cases h
  · exact (s.commitOver_norise _ good).guarded
  · exact .refl s

theorem execFrameGap_guarded {p : Port} {ending : Option Byte} {s t : State} (h : execFrameGap p ending s = .next t) :
    Guarded s t := by
  unfold execFrameGap at h
  split at h
  · dsimp only at h
    split at h <;> cases h
    · exact ((s.withSlot_norise p _).trans (State.listenByte_norise _ p _)).guarded
    · exact (s.withSlot_norise p _).guarded
  all_goals cases h; exact .refl s

theorem execAnswerEnd_guarded {p : Port} {s t : State} (h : execAnswerEnd p s = .next t) : Guarded s t := by
  unfold execAnswerEnd at h
  split at h
  · split at h <;> cases h
    · exact s.doReset_guarded
    · exact (s.withSlot_norise p _).guarded
  all_goals cases h; exact .refl s

/-! ### Every command -/

/-- The state a meaning answers, when it answers one at once. -/
theorem Guarded.of_next {s t u : State} (h : Guarded s u)
    (e : (Host.Outcome.next u : Host.Outcome State Fault Refusal) = .next t) : Guarded s t := by
  cases e
  exact h

/-- R137: the guard, over every command but a post status. -/
theorem exec_guarded {i : Instr} {s t : State} (hi : ∀ b st, i ≠ .postStatus b st) (h : exec i s = .next t) :
    Guarded s t := by
  cases i with
  | readIdentity r => exact .of_next (s.serve_guarded_same r _ _ _ (readIdentityOwner_state _ _ s)) h
  | readOrder r => exact .of_next (s.serve_guarded_same r _ _ _ (readOrderOwner_state _ s)) h
  | listRoster r => exact .of_next (s.serve_guarded_same r _ _ _ (listRosterOwner_state _ s)) h
  | readBay r => exact .of_next (s.serve_guarded_same r _ _ _ (readBayOwner_state _ s)) h
  | readFeeder r => exact .of_next (s.serve_guarded_same r _ _ _ (readFeederOwner_state _ s)) h
  | readTable r => exact .of_next (s.serve_guarded_same r _ _ _ (readTableOwner_state _ s)) h
  | readSetting r => exact .of_next (s.serve_guarded_same r _ _ _ (readSettingOwner_state _ s)) h
  | peekCompletions r => exact .of_next (s.serve_guarded_same r _ _ _ (peekCompletionsOwner_state _ s)) h
  | restart r => exact .of_next (s.serve_guarded_same r _ _ _ (restartOwner_state _ s)) h
  | unknownRequest r kind => exact .of_next (s.serve_guarded_same r _ _ _ rfl) h
  | takeEvents r => exact .of_next (s.serve_guarded r _ _ _ (takeEventsOwner_norise _ s).guarded) h
  | setAttention r => exact .of_next (s.serve_guarded r _ _ _ (setAttentionOwner_norise _ _ s).guarded) h
  | setClock r => exact .of_next (s.serve_guarded r _ _ _ (setClockOwner_guarded _ s)) h
  | addOrder r => exact .of_next (s.serve_guarded r _ _ _ (addOrderOwner_norise _ s).guarded) h
  | amendOrder r => exact .of_next (s.serve_guarded r _ _ _ (amendOrderOwner_guarded _ s)) h
  | cancelOrder r => exact .of_next (s.serve_guarded r _ _ _ (cancelOrderOwner_guarded _ s)) h
  | releaseVan r => exact .of_next (s.serve_guarded r _ _ _ (releaseVanOwner_guarded _ s)) h
  | takeCompletions r => exact .of_next (s.serve_guarded r _ _ _ (takeCompletionsOwner_norise _ s).guarded) h
  | reallocate r => exact .of_next (s.serve_guarded r _ _ _ (reallocateOwner_guarded _ s)) h
  | setCeiling r => exact .of_next (s.serve_guarded r _ _ _ (setCeilingOwner_guarded _ s)) h
  | reportMeter r => exact .of_next (s.serve_guarded r _ _ _ (reportMeterOwner_guarded _ s)) h
  | setTariff r => exact .of_next (s.serve_guarded r _ _ _ (setTariffOwner_norise _ s).guarded) h
  | holdDepot r => exact .of_next (s.serve_guarded r _ _ _ (holdDepotOwner_guarded _ s)) h
  | resumeDepot r => exact .of_next (s.serve_guarded r _ _ _ (resumeDepotOwner_guarded _ s)) h
  | clearLatchFeeder r => exact .of_next (s.serve_guarded r _ _ _ (clearLatchOwner_guarded _ s)) h
  | clearLatchInput r => exact .of_next (s.serve_guarded r _ _ _ (clearLatchOwner_guarded _ s)) h
  | clearBay r => exact .of_next (s.serve_guarded r _ _ _ (clearBayOwner_guarded _ s)) h
  | retryAdmission r => exact .of_next (s.serve_guarded r _ _ _ (retryAdmissionOwner_norise _ s).guarded) h
  | setOverride r => exact .of_next (s.serve_guarded r _ _ _ (setOverrideOwner_norise _ s).guarded) h
  | writeTable r => exact .of_next (s.serve_guarded r _ _ _ (writeTableOwner_norise _ s).guarded) h
  | writeSetting r => exact .of_next (s.serve_guarded r _ _ _ (writeSettingOwner_guarded _ s)) h
  | storeSettings r => exact .of_next (s.serve_guarded r _ _ _ (storeSettingsOwner_norise _ s).guarded) h
  | frameCheckFail p => exact .of_next (s.dropFrame_norise p).guarded h
  | frameGap p ending => exact execFrameGap_guarded h
  | answerEnd p => exact execAnswerEnd_guarded h
  | reset cause => exact .of_next s.doReset_guarded h
  | roundTimerExpiry => exact execRoundTimerExpiry_guarded h
  | staleTimerExpiry => exact execStaleTimerExpiry_guarded h
  | admissionTimerExpiry b => exact execAdmissionTimerExpiry_guarded h
  | dormancyExpiry b => exact execDormancyExpiry_guarded h
  | wakeWindowExpiry b => exact execWakeWindowExpiry_guarded h
  | answerWindowExpiry => exact .of_next s.runWindow_norise.settles h
  | deferRetryDue b => exact execDeferRetryDue_guarded h
  | keepAliveDue b => exact execKeepAliveDue_guarded h
  | probeSpacingEnd => exact execProbeSpacingEnd_guarded h
  | filterTimerExpiry y => exact execFilterTimerExpiry_guarded h
  | lineChange y high => exact .of_next (s.lineLevel_norise y high).settles h
  | commitEnd good => exact execCommitEnd_guarded h
  | postStatus b st => exact absurd rfl (hi b st)
  | grantOutcome b o => exact .of_next (s.takeOutcome_norise b _ o).settles h
  | wakeOutcome b o => exact .of_next (s.takeOutcome_norise b _ o).settles h
  | unlockOutcome b o => exact .of_next (s.takeOutcome_norise b _ o).settles h
  | deferAnswer b => exact .of_next (s.takeDefer_norise b).settles h
  | startByte p => exact .of_next (s.listenByte_norise p _).guarded h
  | badLength p len =>
    refine .of_next (u := if len.toNat < 2 then s.dropFrame p else s) (NoRise.guarded ?_) h
    split
    · exact s.dropFrame_norise p
    · exact .refl s

/-! ### O60 -/

/-- Settles O60: what every other command does is guarded; a status raises the sum by its output at most, and the
selection that follows no higher than the ceiling. -/
theorem guardKeepsExposuresUnderTheCeiling : Obligations.GuardKeepsExposuresUnderTheCeiling := by
  unfold Obligations.GuardKeepsExposuresUnderTheCeiling
  refine ⟨fun i s t hi h => (exec_guarded hi h).le, fun b st s t h => ?_⟩
  obtain rfl : (s.takePostStatus b st).settle = t := Host.Outcome.next.inj h
  obtain ⟨hceiling, hsum⟩ := (s.takePostStatus b st).settle_safe
  rw [hceiling]
  exact hsum.trans (max_le_max_right _ (s.takePostStatus_sum b st))

end Sys2Proof.Machine
end

section
/-! PROOFS. The pending Grant of a bay and its target: O58. -/

namespace Sys2Proof.Machine

/-! ### What the target is compared with (R133) -/

theorem LineBay.openGrant_of_grant {l : LineBay} {v n m : Nat} {t : Option Nat}
    (h : l.opn = some ⟨.grant v, t, n, m⟩) : l.openGrant = v := by
  unfold LineBay.openGrant
  rw [h]

theorem LineBay.openGrant_of_closed {l : LineBay} (h : l.grantOpen = false) : l.openGrant = 0 := by
  unfold LineBay.openGrant
  split
  next v t n m e => exact absurd e (LineBay.grantOpen_eq_false_iff.mp h v t n m)
  next => rfl

theorem LineBay.reference_of_grant {l : LineBay} {v n m : Nat} {t : Option Nat}
    (h : l.opn = some ⟨.grant v, t, n, m⟩) : l.reference = v := by
  have hopen : l.grantOpen = true := by
    unfold LineBay.grantOpen
    rw [h]
  unfold LineBay.reference
  rw [hopen, LineBay.openGrant_of_grant h]
  rfl

theorem LineBay.reference_of_closed {l : LineBay} (h : l.grantOpen = false) : l.reference = l.held := by
  unfold LineBay.reference
  rw [h]
  rfl

/-! ### Reconciling (R133) -/

theorem State.reconcile_of_unserved {s : State} {b : BayNo} (h : s.onLineService b = false) : s.reconcile b = s := by
  unfold State.reconcile
  rw [h]
  rfl

theorem State.reconcile_of_eq {s : State} {b : BayNo} (hs : s.onLineService b = true)
    (h : s.target b = (s.lineBay b).reference) :
    s.reconcile b = s.updLineBay b (fun l => { l with pGrant := none }) := by
  unfold State.reconcile
  rw [if_pos hs]
  exact if_pos h

theorem State.reconcile_of_pending {s : State} {b : BayNo} {p : PendingGrant} (hs : s.onLineService b = true)
    (h : s.target b ≠ (s.lineBay b).reference) (hp : (s.lineBay b).pGrant = some p) :
    s.reconcile b = s.updLineBay b (fun l => { l with pGrant := some ⟨s.target b, p.age⟩ }) := by
  unfold State.reconcile
  rw [if_pos hs]
  dsimp only
  rw [if_neg h, hp]

theorem State.reconcile_of_none {s : State} {b : BayNo} (hs : s.onLineService b = true)
    (h : s.target b ≠ (s.lineBay b).reference) (hp : (s.lineBay b).pGrant = none) :
    s.reconcile b = { s with line := { s.line with
      bays := s.line.bays.set b { s.lineBay b with pGrant := some ⟨s.target b, s.line.nextAge⟩ }
      nextAge := s.line.nextAge + 1 } } := by
  unfold State.reconcile
  rw [if_pos hs]
  dsimp only
  rw [if_neg h, hp]
  rfl

/-- Settles O58: by whether the line serves the bay, then by the reference and the pending Grant. -/
theorem reconcilingKeepsThePendingGrant : Obligations.ReconcilingKeepsThePendingGrant := by
  unfold Obligations.ReconcilingKeepsThePendingGrant
  intro b s reference
  have href : reference = (s.lineBay b).reference := by
    unfold reference
    split
    next v t n m h => exact (LineBay.reference_of_grant h).symm
    next h => exact (LineBay.reference_of_closed (LineBay.grantOpen_eq_false_iff.mpr h)).symm
  rw [href]
  refine ⟨fun h => State.reconcile_of_unserved ?_, fun hoff hfaulted => ?_⟩
  · rcases h with h | h <;> simp [State.onLineService, h]
  · have hserved := State.onLineService_iff.mpr ⟨hoff, hfaulted⟩
    exact ⟨State.reconcile_of_eq hserved, fun p => State.reconcile_of_pending hserved, State.reconcile_of_none hserved⟩

end Sys2Proof.Machine
end

section
/-! PROOFS. Answers, Defers, the answer window and the moments that make an exchange due: O57. -/

namespace Sys2Proof.Machine

/-! ### An answer to what the line carries (R127, R144) -/

theorem State.carries_of_carrying {s : State} {b : BayNo} {c : OnLine} {kind : Exchange → Bool}
    (hc : s.line.carrying = some c) (hb : c.bay = b) (hk : kind c.what = true) : s.carries b kind = true := by
  simp [State.carries, hc, hb, hk]

/-- Entry 3: the line carries nothing for a bay that it does not serve. -/
theorem State.carries_of_other {s : State} {b : BayNo} (h : ∀ c, s.line.carrying = some c → c.bay ≠ b)
    (kind : Exchange → Bool) : s.carries b kind = false := by
  unfold State.carries
  split
  next c hc => simp [h c hc]
  next => rfl

theorem State.answer_of_open {s : State} {c : OnLine} (hc : s.line.carrying = some c) (ha : c.abandoned = false)
    (take : State → State) : s.answer take = if s.elapsed ≤ c.windowDue then take s else s := by
  simp [State.answer, State.inWindow, State.carriesAbandoned, hc, ha]

theorem State.answer_of_abandoned {s : State} {c : OnLine} (hc : s.line.carrying = some c) (ha : c.abandoned = true)
    (take : State → State) : s.answer take = if s.elapsed ≤ c.windowDue then s.freeLine else s := by
  simp [State.answer, State.inWindow, State.carriesAbandoned, hc, ha]

/-- R127: what comes after the window is discarded, and the busy line selects nothing. -/
theorem State.next_settle_late {s : State} {c : OnLine} (hc : s.line.carrying = some c) (t : State) :
    (Host.Outcome.next (if s.elapsed ≤ c.windowDue then t else s).settle : Host.Outcome State Fault Refusal) =
      if s.elapsed ≤ c.windowDue then .next t.settle else .next s := by
  split
  · rfl
  · rw [State.settle_of_busy (hc ▸ Option.some_ne_none c)]

/-- R126: a command that leaves the state as it is ends in a selection. -/
theorem next_settle_of_eq {s t : State} (h : t = s) :
    (Host.Outcome.next t.settle : Host.Outcome State Fault Refusal) = .next s.settle := by
  rw [h]

/-! ### Defers (R129) -/

theorem State.deferOpen_of_open {s : State} {b : BayNo} {o : OpenX} (h : (s.lineBay b).opn = some o) :
    s.deferOpen b = s.defer b o := by
  unfold State.deferOpen
  rw [h]

/-- R129: the exchange leaves the line, deferred; entry 18 on the Silent count. -/
theorem State.defer_of_few {s : State} {b : BayNo} {o : OpenX} (h : o.defers < 5) : s.defer b o =
    { s with line := { s.line with
      carrying := none
      bays := s.line.bays.set b { s.lineBay b with
        opn := some { o with defers := o.defers + 1, retryDue := some (s.elapsed + 250) }
        silent := if (s.bay b).state = .off ∨ (s.bay b).state = .faulted then (s.lineBay b).silent else 0 } } } := by
  have hcounts : s.onLineService b = true ↔ ¬ ((s.bay b).state = .off ∨ (s.bay b).state = .faulted) :=
    State.onLineService_iff.trans not_or.symm
  have hsilent : (if s.onLineService b then 0 else (s.lineBay b).silent) =
      if (s.bay b).state = .off ∨ (s.bay b).state = .faulted then (s.lineBay b).silent else 0 :=
    (if_congr hcounts rfl rfl).trans (ite_not _ _ _)
  unfold State.defer
  rw [if_neg (show ¬ Config.maxDefers ≤ o.defers from Nat.not_le.mpr h), ← hsilent]
  rfl

theorem State.defer_of_many {s : State} {b : BayNo} {o : OpenX} (h : 5 ≤ o.defers) :
    s.defer b o = s.finish b .refuse := by
  unfold State.defer
  exact if_pos h

theorem deferAnswer_of_open {s : State} {b : BayNo} {c : OnLine} {o : OpenX} (hc : s.line.carrying = some c)
    (hb : c.bay = b) (ha : c.abandoned = false) (ho : (s.lineBay b).opn = some o) : exec (.deferAnswer b) s =
      if s.elapsed ≤ c.windowDue then .next (s.defer b o).settle else .next s := by
  change Host.Outcome.next (s.takeDefer b).settle = _
  unfold State.takeDefer
  rw [if_pos (State.carries_of_carrying hc hb rfl), State.answer_of_open hc ha, State.deferOpen_of_open ho,
    State.next_settle_late hc]

theorem deferAnswer_of_abandoned {s : State} {b : BayNo} {c : OnLine} (hc : s.line.carrying = some c)
    (hb : c.bay = b) (ha : c.abandoned = true) : exec (.deferAnswer b) s =
      if s.elapsed ≤ c.windowDue then .next s.freeLine.settle else .next s := by
  change Host.Outcome.next (s.takeDefer b).settle = _
  unfold State.takeDefer
  rw [if_pos (State.carries_of_carrying hc hb rfl), State.answer_of_abandoned hc ha, State.next_settle_late hc]

/-! ### The end of an answer window (R128) -/

theorem State.runWindow_of_free {s : State} (h : s.line.carrying = none) : s.runWindow = s := by
  unfold State.runWindow
  rw [h]

theorem State.runWindow_of_carrying {s : State} {c : OnLine} (h : s.line.carrying = some c) :
    s.runWindow = if c.abandoned then (s.runTo c.windowDue).freeLine
      else if c.repeated then (s.runTo c.windowDue).finish c.bay .silent
      else (s.runTo c.windowDue).repeatSending c.bay c.what := by
  unfold State.runWindow State.windowOver
  rw [h]
  dsimp only
  rw [State.runTo_line, h]

theorem State.runWindow_of_abandoned {s : State} {c : OnLine} (h : s.line.carrying = some c)
    (ha : c.abandoned = true) : s.runWindow = (s.runTo c.windowDue).freeLine := by
  rw [State.runWindow_of_carrying h, if_pos ha]

theorem State.runWindow_of_repeated {s : State} {c : OnLine} (h : s.line.carrying = some c)
    (ha : c.abandoned = false) (hr : c.repeated = true) :
    s.runWindow = (s.runTo c.windowDue).finish c.bay .silent := by
  rw [State.runWindow_of_carrying h, if_neg (by simp [ha]), if_pos hr]

theorem State.runWindow_of_first {s : State} {c : OnLine} (h : s.line.carrying = some c)
    (ha : c.abandoned = false) (hr : c.repeated = false) :
    s.runWindow = (s.runTo c.windowDue).repeatSending c.bay c.what := by
  rw [State.runWindow_of_carrying h, if_neg (by simp [ha]), if_neg (by simp [hr])]

/-- R128: a repeated sending leaves the line busy. -/
theorem State.settle_runWindow_of_first {s : State} {c : OnLine} (h : s.line.carrying = some c)
    (ha : c.abandoned = false) (hr : c.repeated = false) : s.runWindow.settle = s.runWindow := by
  rw [State.runWindow_of_first h ha hr]
  exact State.settle_of_busy (Option.some_ne_none _)

/-- Two updates of a line record that agree on it agree. -/
theorem State.updLineBay_congr {s : State} {b : BayNo} {f g : LineBay → LineBay}
    (h : f (s.lineBay b) = g (s.lineBay b)) : s.updLineBay b f = s.updLineBay b g := by
  unfold State.lineBay at h
  unfold State.updLineBay
  rw [h]

/-- R128, R131, R138: the second sending of an open exchange. -/
theorem State.repeatSending_eq {s : State} {b : BayNo} {o : OpenX} (ho : (s.lineBay b).opn = some o) (x : Exchange) :
    s.repeatSending b x = { s with line := { s.line with
      carrying := some ⟨b, x, s.elapsed + 50, true, false⟩
      bays := s.line.bays.set b { s.lineBay b with
        opn := some { o with sentAt := s.elapsed }
        keepDue := match x with
          | .grant _ => some (s.elapsed + 8000)
          | _ => (s.lineBay b).keepDue } } } := by
  have hsent := State.updLineBay_congr (s := s) (b := b)
    (f := fun l => { l.sent x s.elapsed with opn := l.opn.map (fun o => { o with sentAt := s.elapsed }) })
    (g := fun l => { l.sent x s.elapsed with opn := some { o with sentAt := s.elapsed } }) (by simp [ho])
  unfold State.repeatSending
  rw [hsent]
  cases x <;> rfl

/-! ### An outcome Silent (entry 26) -/

theorem State.silence_of_last {s : State} {c : OnLine} (h : s.line.carrying = some c)
    (hlast : (c.repeated || c.abandoned) = true) : s.silence = s.runWindow := by
  unfold State.silence
  rw [h]
  exact if_pos hlast

theorem State.silence_of_first {s : State} {c : OnLine} (h : s.line.carrying = some c)
    (hfirst : (c.repeated || c.abandoned) = false) : s.silence = s.runWindow.runWindow := by
  unfold State.silence
  rw [h]
  exact if_neg (by rw [hfirst]; exact Bool.false_ne_true)

theorem State.takeOutcome_silent {s : State} {b : BayNo} {c : OnLine} {kind : Exchange → Bool}
    (hc : s.line.carrying = some c) (hb : c.bay = b) (hk : kind c.what = true) :
    s.takeOutcome b kind .silent = s.silence := by
  unfold State.takeOutcome
  rw [if_pos (State.carries_of_carrying hc hb hk)]

theorem State.takeOutcome_of_abandoned {s : State} {b : BayNo} {c : OnLine} {kind : Exchange → Bool} {o : PostOutcome}
    (hc : s.line.carrying = some c) (hb : c.bay = b) (ha : c.abandoned = true) (hk : kind c.what = true)
    (ho : o ≠ .silent) : s.takeOutcome b kind o = if s.elapsed ≤ c.windowDue then s.freeLine else s := by
  unfold State.takeOutcome
  rw [if_pos (State.carries_of_carrying hc hb hk)]
  cases o with
  | silent => exact absurd rfl ho
  | accept => exact State.answer_of_abandoned hc ha _
  | refuse => exact State.answer_of_abandoned hc ha _

theorem State.takeOutcome_of_other {s : State} {b : BayNo} (h : ∀ c, s.line.carrying = some c → c.bay ≠ b)
    (kind : Exchange → Bool) (o : PostOutcome) : s.takeOutcome b kind o = s := by
  unfold State.takeOutcome
  rw [State.carries_of_other h]
  rfl

/-- A command is the outcome, for the kind of exchange the line carries, of a Grant, a Wake or an Unlock of a bay. -/
def OutcomeCommand (b : BayNo) (x : Exchange) (o : PostOutcome) (k : Instr) : Prop :=
  (∃ v, x = .grant v ∧ k = .grantOutcome b o) ∨ (∃ pulse period, x = .wake pulse period ∧ k = .wakeOutcome b o) ∨
    ∃ age, x = .unlock age ∧ k = .unlockOutcome b o

/-- A command that stands for the silence of a post. -/
def SilenceCommand (k : Instr) : Prop :=
  (∃ b, k = .grantOutcome b .silent) ∨ (∃ b, k = .wakeOutcome b .silent) ∨ ∃ b, k = .unlockOutcome b .silent

theorem OutcomeCommand.silence_iff {b : BayNo} {x : Exchange} {o : PostOutcome} {k : Instr}
    (h : OutcomeCommand b x o k) : SilenceCommand k ↔ o = .silent := by
  obtain ⟨_, -, rfl⟩ | ⟨_, _, -, rfl⟩ | ⟨_, -, rfl⟩ := h <;> simp [SilenceCommand]

theorem OutcomeCommand.exec_eq {b : BayNo} {x : Exchange} {o : PostOutcome} {k : Instr} (h : OutcomeCommand b x o k)
    (s : State) : ∃ kind : Exchange → Bool, kind x = true ∧ exec k s = .next (s.takeOutcome b kind o).settle := by
  obtain ⟨v, rfl, rfl⟩ | ⟨pulse, period, rfl, rfl⟩ | ⟨age, rfl, rfl⟩ := h
  · exact ⟨Exchange.isGrant, rfl, rfl⟩
  · exact ⟨Exchange.isWake, rfl, rfl⟩
  · exact ⟨Exchange.isUnlock, rfl, rfl⟩

/-- R128: a silence runs the windows that remain. -/
theorem OutcomeCommand.exec_silent {b : BayNo} {c : OnLine} {k : Instr} {s : State}
    (h : OutcomeCommand b c.what .silent k) (hc : s.line.carrying = some c) (hb : c.bay = b) :
    exec k s = .next s.silence.settle := by
  obtain ⟨kind, hk, hexec⟩ := h.exec_eq s
  rw [hexec, State.takeOutcome_silent hc hb hk]

/-- R144: an Accept or a Refuse for an abandoned exchange frees the line, within the window. -/
theorem OutcomeCommand.exec_of_abandoned {b : BayNo} {c : OnLine} {o : PostOutcome} {k : Instr} {s : State}
    (h : OutcomeCommand b c.what o k) (ho : o ≠ .silent) (hc : s.line.carrying = some c) (hb : c.bay = b)
    (ha : c.abandoned = true) :
    exec k s = if s.elapsed ≤ c.windowDue then .next s.freeLine.settle else .next s := by
  obtain ⟨kind, hk, hexec⟩ := h.exec_eq s
  rw [hexec, State.takeOutcome_of_abandoned hc hb ha hk ho, State.next_settle_late hc]

/-! ### The due moments (R126, R129, R138, R140; entry 2) -/

theorem deferRetryDue_of_deferred {s : State} {b : BayNo} {x : Exchange} {due defers sentAt : Nat}
    (h : (s.lineBay b).opn = some ⟨x, some due, defers, sentAt⟩) :
    exec (.deferRetryDue b) s = .next (s.runTo due).settle := by
  change execDeferRetryDue b s = _
  unfold execDeferRetryDue
  rw [h]

theorem deferRetryDue_of_none {s : State} {b : BayNo}
    (h : ∀ x t defers sentAt, (s.lineBay b).opn ≠ some ⟨x, some t, defers, sentAt⟩) :
    exec (.deferRetryDue b) s = .next s := by
  change execDeferRetryDue b s = _
  unfold execDeferRetryDue
  split
  next x t n m e => exact absurd e (h x t n m)
  next => rfl

theorem keepAliveDue_of_some {s : State} {b : BayNo} {due : Nat} (h : (s.lineBay b).keepDue = some due) :
    exec (.keepAliveDue b) s = .next (s.runTo due).settle := by
  change execKeepAliveDue b s = _
  unfold execKeepAliveDue
  rw [h]

theorem keepAliveDue_of_none {s : State} {b : BayNo} (h : (s.lineBay b).keepDue = none) :
    exec (.keepAliveDue b) s = .next s := by
  change execKeepAliveDue b s = _
  unfold execKeepAliveDue
  rw [h]

theorem probeSpacingEnd_of_owed {s : State} {t : Nat} (ho : s.line.probeOwed = true) (ht : s.line.lastProbe = some t) :
    exec .probeSpacingEnd s = .next (s.runTo (t + 5000)).settle := by
  change execProbeSpacingEnd s = _
  unfold execProbeSpacingEnd
  rw [if_pos ho, ht]
  rfl

theorem probeSpacingEnd_of_none {s : State} (h : s.line.probeOwed = false) : exec .probeSpacingEnd s = .next s := by
  change execProbeSpacingEnd s = _
  unfold execProbeSpacingEnd
  exact if_neg (by rw [h]; exact Bool.false_ne_true)

/-! ### O57 -/

/-- Settles O57: Defers by their number, abandoned exchanges, the two windows, the silences, answers for another bay, and
each due moment. -/
theorem windowsDefersAndDueTimesAct : Obligations.WindowsDefersAndDueTimesAct := by
  unfold Obligations.WindowsDefersAndDueTimesAct
  refine ⟨fun b c o s hc hb ha ho => ?_, fun b c s hc hb ha k hk => ?_, fun c s hc ha => ?_,
    fun c o s hc ho => ⟨fun ha hr => ?_, fun ha hr => ?_⟩, fun b c o s hc hb ha _ k hk => ?_, fun b s h => ?_,
    fun s h => ?_, fun b due s => ⟨fun x n m => deferRetryDue_of_deferred, keepAliveDue_of_some,
      probeSpacingEnd_of_owed, deferRetryDue_of_none, keepAliveDue_of_none, probeSpacingEnd_of_none⟩⟩
  · rw [deferAnswer_of_open hc hb ha ho]
    refine ⟨fun hlate => if_neg (Nat.not_le.mpr hlate), fun hin hfew => ?_, fun hin hmany => ?_⟩
    · rw [if_pos hin, State.defer_of_few hfew]
    · rw [if_pos hin, State.defer_of_many hmany]
  · rcases hk with rfl | ⟨o, ho⟩
    · exact ⟨fun h => by simp at h, fun _ => deferAnswer_of_abandoned hc hb ha⟩
    · have hout : OutcomeCommand b c.what o k := ho
      refine ⟨fun h => ?_, fun h => hout.exec_of_abandoned (mt hout.silence_iff.mpr h) hc hb ha⟩
      obtain rfl := hout.silence_iff.mp h
      rw [hout.exec_silent hc hb, State.silence_of_last hc (by simp [ha])]
      rfl
  · change Host.Outcome.next s.runWindow.settle = _
    rw [State.runWindow_of_abandoned hc ha]
    rfl
  · change Host.Outcome.next s.runWindow.settle = _
    rw [State.settle_runWindow_of_first hc ha hr, State.runWindow_of_first hc ha hr,
      State.repeatSending_eq (s := s.runTo c.windowDue) ho]
    cases c.what <;> rfl
  · change Host.Outcome.next s.runWindow.settle = _
    rw [State.runWindow_of_repeated hc ha hr]
    rfl
  · have hout : OutcomeCommand b c.what .silent k := hk
    rw [hout.exec_silent hc hb]
    refine ⟨fun hr => ?_, fun hr => ⟨s.runWindow, ?_, ?_⟩⟩
    · rw [State.silence_of_last hc (by simp [hr])]
      rfl
    · exact congrArg Host.Outcome.next (State.settle_runWindow_of_first hc ha hr)
    · rw [State.silence_of_first hc (by simp [hr, ha])]
      rfl
  · have hout : ∀ kind o, s.takeOutcome b kind o = s := State.takeOutcome_of_other h
    have hdefer : s.takeDefer b = s := if_neg (by simp [State.carries_of_other h])
    have hstatus : ∀ st, s.takePostStatus b st = s := fun st => if_neg (by simp [State.carries_of_other h])
    exact ⟨fun o => ⟨next_settle_of_eq (hout _ o), next_settle_of_eq (hout _ o), next_settle_of_eq (hout _ o)⟩,
      next_settle_of_eq hdefer, fun st => next_settle_of_eq (hstatus st)⟩
  · exact next_settle_of_eq (State.runWindow_of_free h)

end Sys2Proof.Machine
end

section
/-! PROOFS. What the steps after an outcome leave of the line's records, and the final outcome of a Grant: O55. -/

namespace Sys2Proof.Machine

/-! ### The notices of an exposure (R132) -/

/-- R76, R132: the test of the Held condition, and the trim where the exposure of an ineligible bay has risen. -/
theorem State.noteExposure_eq (s : State) (b : BayNo) (before : Nat) : s.noteExposure b before =
    if s.exposure b = before then s
    else if before < s.exposure b ∧ s.eligible b = false then s.heldCheck.trimCheck else s.heldCheck := by
  unfold State.noteExposure
  dsimp only
  rw [State.exposure_heldCheck, s.heldCheck_records.eligible]

@[simp] theorem State.lineBay_heldCheck (s : State) (b : BayNo) : s.heldCheck.lineBay b = s.lineBay b :=
  (s.heldCheck_leaves b).lineBay

/-- R132: an exposure that has not risen is told to the Feeder unit alone. -/
theorem State.lineBay_noteExposure_of_le {s : State} {b : BayNo} {before : Nat} (h : s.exposure b ≤ before)
    (c : BayNo) : (s.noteExposure b before).lineBay c = s.lineBay c := by
  rw [State.noteExposure_eq]
  split
  · rfl
  · rw [if_neg (fun e => absurd e.1 (Nat.not_lt.mpr h)), State.lineBay_heldCheck]

/-- R105, R132: of the line's records the notices move pending Grants alone. -/
theorem State.lineBay_noteExposure (s : State) (b : BayNo) (before : Nat) (c : BayNo) :
    (s.noteExposure b before).lineBay c =
      { s.lineBay c with pGrant := ((s.noteExposure b before).lineBay c).pGrant } := by
  rw [State.noteExposure_eq]
  split
  · rfl
  · split
    · have htrim := s.heldCheck.trimCheck_moves.lineBay c
      rwa [State.lineBay_heldCheck] at htrim
    · rw [State.lineBay_heldCheck]

/-- R133: and no pending Grant of a bay that the line does not serve. -/
theorem State.lineBay_noteExposure_of_unserved {s : State} {c : BayNo} (h : s.onLineService c = false) (b : BayNo)
    (before : Nat) : (s.noteExposure b before).lineBay c = s.lineBay c := by
  have hserved : s.heldCheck.onLineService c = s.onLineService c := by
    unfold State.onLineService
    rw [s.heldCheck_records.state]
  rw [State.noteExposure_eq]
  split
  · rfl
  · split
    · rw [State.lineBay_trimCheck (hserved.trans h), State.lineBay_heldCheck]
    · rw [State.lineBay_heldCheck]

/-! ### A refused increase (R107) -/

theorem State.refusedIncrease_of_above {s : State} {b : BayNo} (h : (s.lineBay b).held < s.target b) :
    s.refusedIncrease b = ((s.withLimit b (some (s.lineBay b).held)).withTarget b
      (if s.cfg.postMin ≤ (s.lineBay b).held then (s.lineBay b).held else 0)).reconcile b := by
  have hne : (s.withLimit b (some (s.lineBay b).held)).target b ≠
      if s.cfg.postMin ≤ (s.lineBay b).held then (s.lineBay b).held else 0 := by
    have hsame : (s.withLimit b (some (s.lineBay b).held)).target b = s.target b := rfl
    rw [hsame]
    split <;> omega
  unfold State.refusedIncrease
  exact (if_pos h).trans (State.setTarget_of_ne hne)

theorem State.refusedIncrease_of_within {s : State} {b : BayNo} (h : ¬ (s.lineBay b).held < s.target b) :
    s.refusedIncrease b = s.withLimit b (some (s.lineBay b).held) := by
  unfold State.refusedIncrease
  exact if_neg h

theorem State.limit_refusedIncrease (s : State) (b : BayNo) :
    (s.refusedIncrease b).alloc.limits[b] = some (s.lineBay b).held := by
  by_cases h : (s.lineBay b).held < s.target b
  · rw [State.refusedIncrease_of_above h, State.reconcile_alloc]
    simp [State.withTarget, State.withLimit]
  · rw [State.refusedIncrease_of_within h]
    simp [State.withLimit]

theorem State.target_refusedIncrease_le (s : State) (b : BayNo) :
    (s.refusedIncrease b).target b ≤ (s.lineBay b).held := by
  by_cases h : (s.lineBay b).held < s.target b
  · rw [State.refusedIncrease_of_above h, State.target_reconcile, State.target_withTarget]
    split <;> omega
  · rw [State.refusedIncrease_of_within h]
    exact Nat.le_of_not_lt h

theorem State.lineBay_refusedIncrease_of_unserved {s : State} {b : BayNo} (h : s.onLineService b = false) :
    (s.refusedIncrease b).lineBay b = s.lineBay b := by
  by_cases habove : (s.lineBay b).held < s.target b
  · rw [State.refusedIncrease_of_above habove, State.reconcile_of_unserved]
    · rfl
    · exact h
  · rw [State.refusedIncrease_of_within habove]
    rfl

/-! ### What the steps after an outcome leave of the line (R131) -/

/-- Of the line's records, what is pending and the keep-alive times are all that differs. -/
structure MovesPending (s t : State) : Prop where
  lineBay : ∀ c, t.lineBay c = { s.lineBay c with
    pGrant := (t.lineBay c).pGrant, pWake := (t.lineBay c).pWake, pUnlock := (t.lineBay c).pUnlock,
    keepDue := (t.lineBay c).keepDue }
  carrying : t.line.carrying = s.line.carrying

theorem MovesPending.refl (s : State) : MovesPending s s := ⟨fun _ => rfl, rfl⟩

theorem MovesPending.trans {s t u : State} (h : MovesPending s t) (k : MovesPending t u) : MovesPending s u := by
  refine ⟨fun c => ?_, k.carrying.trans h.carrying⟩
  have hline := congrArg (fun l : LineBay => { l with
    pGrant := (u.lineBay c).pGrant, pWake := (u.lineBay c).pWake, pUnlock := (u.lineBay c).pUnlock,
    keepDue := (u.lineBay c).keepDue }) (h.lineBay c)
  exact (k.lineBay c).trans hline

theorem MovesPending.of_line {s t : State} (h : t.line = s.line) : MovesPending s t := by
  refine ⟨fun c => ?_, by rw [h]⟩
  unfold State.lineBay
  rw [h]

theorem MovesPending.held {s t : State} (h : MovesPending s t) (c : BayNo) :
    (t.lineBay c).held = (s.lineBay c).held := by
  rw [h.lineBay c]

theorem MovesPending.opn {s t : State} (h : MovesPending s t) (c : BayNo) : (t.lineBay c).opn = (s.lineBay c).opn := by
  rw [h.lineBay c]

theorem MovesTargets.pending {s t : State} (h : MovesTargets s t) : MovesPending s t := by
  refine ⟨fun c => ?_, h.carrying⟩
  rw [h.lineBay c]

theorem State.updLineBay_pending_moves (s : State) (b : BayNo) {f : LineBay → LineBay}
    (h : ∀ l, f l = { l with
      pGrant := (f l).pGrant, pWake := (f l).pWake, pUnlock := (f l).pUnlock, keepDue := (f l).keepDue }) :
    MovesPending s (s.updLineBay b f) := by
  refine ⟨fun c => ?_, rfl⟩
  by_cases hc : c = b
  · subst hc
    rw [State.lineBay_updLineBay]
    exact h _
  · rw [State.lineBay_updLineBay_ne s f hc]

theorem State.noteExposure_pending_moves (s : State) (b : BayNo) (before : Nat) :
    MovesPending s (s.noteExposure b before) := by
  refine ⟨fun c => ?_, s.noteExposure_carrying b before⟩
  rw [State.lineBay_noteExposure]

theorem State.refusedIncrease_pending_moves (s : State) (b : BayNo) : MovesPending s (s.refusedIncrease b) := by
  by_cases h : (s.lineBay b).held < s.target b
  · rw [State.refusedIncrease_of_above h]
    refine MovesPending.trans ?_ (State.reconcile_moves _ b).pending
    exact .of_line rfl
  · rw [State.refusedIncrease_of_within h]
    exact .of_line rfl

theorem State.unbindBay_pending_moves (s : State) (b : BayNo) : MovesPending s (s.unbindBay b) := by
  by_cases h : (s.bay b).state = .faulted
  · rw [State.unbindBay_of_faulted h]
    exact .of_line rfl
  · rw [State.unbindBay_of_not_faulted h]
    exact (MovesPending.of_line rfl).trans
      ((State.updLineBay_pending_moves _ b (f := fun l => { l with pWake := none }) fun _ => rfl).trans (.of_line rfl))

theorem State.decreaseDone_pending_moves (s : State) (b : BayNo) : MovesPending s (s.decreaseDone b) := by
  unfold State.decreaseDone
  split
  · exact .refl s
  · split
    · exact (MovesPending.of_line (s.closeOrder_line _ _)).trans (State.unbindBay_pending_moves _ b)
    · exact .refl s

theorem State.faultLimit_pending_moves {s : State} {b : BayNo} (h : s.onLineService b = true) :
    MovesPending s (s.faultLimit b) := by
  obtain ⟨hoff, hfaulted⟩ := State.onLineService_iff.mp h
  have hmarked : MovesPending s (s.markedFaulted b) := MovesPending.trans (.of_line (s.append_line _ _ _))
    ((State.updLineBay_pending_moves _ b
      (f := fun l => { l with pGrant := none, pWake := none, pUnlock := none, keepDue := none }) fun _ => rfl).trans
      (.of_line rfl))
  rw [State.faultLimit_eq hoff hfaulted]
  exact hmarked.trans ((MovesPending.of_line (s.closedFaulted_line b)).trans
    ((State.leaveEligibility_moves _ _ b).pending.trans (.of_line (State.heldCheck_line _))))

/-! ### The decrease-done test (R21) -/

theorem State.lineBay_unbindBay (s : State) (b : BayNo) :
    (s.unbindBay b).lineBay b = { s.lineBay b with pWake := ((s.unbindBay b).lineBay b).pWake } := by
  by_cases h : (s.bay b).state = .faulted
  · rw [State.unbindBay_of_faulted h]
    rfl
  · rw [State.unbindBay_of_not_faulted h, State.lineBay_withdrawWake]
    rfl

/-- R21: of the line record of its bay the test withdraws a pending Wake alone. -/
theorem State.lineBay_decreaseDone (s : State) (b : BayNo) :
    (s.decreaseDone b).lineBay b = { s.lineBay b with pWake := ((s.decreaseDone b).lineBay b).pWake } := by
  unfold State.decreaseDone
  split
  · rfl
  · split
    · have hclosed : ∀ tag out, (s.closeOrder tag out).lineBay b = s.lineBay b := fun tag out =>
        (s.closeOrder_leaves b tag out).lineBay
      rw [← hclosed, ← State.lineBay_unbindBay]
    · rfl

theorem State.unbindBay_alloc (s : State) (b : BayNo) : (s.unbindBay b).alloc = s.alloc := by
  unfold State.unbindBay
  split <;> rfl

theorem State.closeOrder_alloc (s : State) (tag : Nat) (out : CloseOutcome) :
    (s.closeOrder tag out).alloc = s.alloc := by
  have henter : ∀ (t : State) (o : Order), (t.enterLog o).alloc = t.alloc := fun t o => by
    unfold State.enterLog
    split <;> rfl
  unfold State.closeOrder
  split
  · rfl
  · rw [henter, State.append_alloc, State.updOrder_alloc]

theorem State.decreaseDone_alloc (s : State) (b : BayNo) : (s.decreaseDone b).alloc = s.alloc := by
  unfold State.decreaseDone
  split
  · rfl
  · split
    · rw [State.unbindBay_alloc, State.closeOrder_alloc]
    · rfl

/-- R42: a bay that is unbound is Unmatched, and the line goes on serving it. -/
theorem State.decreaseDone_served {s : State} {b : BayNo} (h : s.onLineService b = true) :
    (s.decreaseDone b).onLineService b = true := by
  have hfaulted : ∀ tag out, ((s.closeOrder tag out).bay b).state ≠ .faulted := fun tag out => by
    rw [(s.closeOrder_leaves b tag out).bay]
    exact (State.onLineService_iff.mp h).2
  unfold State.decreaseDone
  split
  · exact h
  · split
    · rw [State.unbindBay_of_not_faulted (hfaulted _ _)]
      unfold State.onLineService
      rw [State.bay_withdrawWake, State.bay_updBay]
      rfl
    · exact h

/-! ### Reconciling after an outcome (R131, R133) -/

/-- R133: with no Grant open the pending Grant is made of what the target differs from the held grant by. -/
theorem State.pGrant_reconcile {s : State} {b : BayNo} (hs : s.onLineService b = true)
    (hclosed : (s.lineBay b).grantOpen = false) :
    ((s.reconcile b).lineBay b).pGrant.map (fun p => p.value) =
      if s.target b = (s.lineBay b).held then none else some (s.target b) := by
  have href := LineBay.reference_of_closed hclosed
  by_cases h : s.target b = (s.lineBay b).held
  · rw [State.reconcile_of_eq hs (h.trans href.symm), State.lineBay_updLineBay, if_pos h]
    rfl
  · have hne : s.target b ≠ (s.lineBay b).reference := fun e => h (e.trans href)
    rw [if_neg h]
    cases hp : (s.lineBay b).pGrant with
    | some p =>
      rw [State.reconcile_of_pending hs hne hp, State.lineBay_updLineBay]
      rfl
    | none =>
      rw [State.reconcile_of_none hs hne hp]
      simp [State.lineBay]

/-! ### The steps of a Grant's outcome (R131) -/

/-- R131 step 1, R130: the held grant and the counts. -/
def State.grantTaken (s : State) (b : BayNo) (v : Nat) (o : PostOutcome) : State :=
  (s.updLineBay b (fun l => { l with held := if o = .accept then v else l.held })).count b o

/-- R131 step 2: the Grant is no longer open, and the line is free. -/
def State.grantEnded (s : State) (b : BayNo) : State :=
  (s.updLineBay b (fun l => { l with increase := false })).endExchange b

/-- R132, R107: the notices of the exposure, and the report of a refused increase. -/
def State.grantTold (s : State) (b : BayNo) (before : Nat) (refusedUp : Bool) : State :=
  if refusedUp then (s.noteExposure b before).refusedIncrease b else s.noteExposure b before

/-- R131 steps 3 and 4: keep-alive due, the decrease-done test and the reconciling. -/
def State.grantFollowed (s : State) (b : BayNo) (sentAt : Nat) : State :=
  ((s.updLineBay b (fun l => l.afterGrant sentAt)).decreaseDone b).reconcile b

theorem State.finishGrant_of_fault {s : State} {b : BayNo} {v : Nat} {o : PostOutcome}
    (h : (s.grantTaken b v o).atFaultLimit b = true) (sentAt : Nat) : s.finishGrant b v sentAt o =
      ((((s.grantTaken b v o).faultLimit b).grantEnded b).grantTold b (s.exposure b)
        ((s.lineBay b).increase && o == .refuse)) := by
  unfold State.grantTaken at h
  unfold State.finishGrant
  dsimp only
  rw [if_pos h, if_pos h]
  rfl

theorem State.finishGrant_of_no_fault {s : State} {b : BayNo} {v : Nat} {o : PostOutcome}
    (h : (s.grantTaken b v o).atFaultLimit b = false) (sentAt : Nat) : s.finishGrant b v sentAt o =
      (((s.grantTaken b v o).grantEnded b).grantTold b (s.exposure b)
        ((s.lineBay b).increase && o == .refuse)).grantFollowed b sentAt := by
  have hno : ¬ (s.grantTaken b v o).atFaultLimit b = true := by simp [h]
  unfold State.grantTaken at hno
  unfold State.finishGrant
  dsimp only
  rw [if_neg hno, if_neg hno]
  rfl

theorem State.grantTaken_eq (s : State) (b : BayNo) (v : Nat) (o : PostOutcome) : s.grantTaken b v o =
    { s with line := { s.line with bays := s.line.bays.set b { s.lineBay b with
      held := if o = .accept then v else (s.lineBay b).held
      silent := if (s.bay b).state ≠ .off ∧ (s.bay b).state ≠ .faulted then
          (if o = .silent then (s.lineBay b).silent + 1 else 0) else (s.lineBay b).silent
      refuse := if (s.bay b).state ≠ .off ∧ (s.bay b).state ≠ .faulted then
          (if o = .refuse then (s.lineBay b).refuse + 1 else 0) else (s.lineBay b).refuse } } } := by
  have hserved : (s.updLineBay b (fun l => { l with held := if o = .accept then v else l.held })).onLineService b =
      true ↔ (s.bay b).state ≠ .off ∧ (s.bay b).state ≠ .faulted := State.onLineService_iff
  unfold State.grantTaken State.count
  by_cases h : (s.bay b).state ≠ .off ∧ (s.bay b).state ≠ .faulted
  · simp only [if_pos (hserved.mpr h), if_pos h]
    cases o <;> simp [State.updLineBay, LineBay.count, State.lineBay]
  · simp only [if_neg (mt hserved.mp h), if_neg h]
    rfl

theorem State.lineBay_grantTaken (s : State) (b : BayNo) (v : Nat) (o : PostOutcome) :
    (s.grantTaken b v o).lineBay b = { s.lineBay b with
      held := if o = .accept then v else (s.lineBay b).held
      silent := if (s.bay b).state ≠ .off ∧ (s.bay b).state ≠ .faulted then
          (if o = .silent then (s.lineBay b).silent + 1 else 0) else (s.lineBay b).silent
      refuse := if (s.bay b).state ≠ .off ∧ (s.bay b).state ≠ .faulted then
          (if o = .refuse then (s.lineBay b).refuse + 1 else 0) else (s.lineBay b).refuse } := by
  rw [State.grantTaken_eq]
  simp [State.lineBay]

theorem State.lineBay_grantTaken_ne (s : State) {b c : BayNo} (h : c ≠ b) (v : Nat) (o : PostOutcome) :
    (s.grantTaken b v o).lineBay c = s.lineBay c := by
  have hne : (b : Nat) ≠ c := fun e => h (Fin.ext e.symm)
  rw [State.grantTaken_eq]
  simp [State.lineBay, hne]

theorem State.onLineService_grantTaken (s : State) (b : BayNo) (v : Nat) (o : PostOutcome) :
    (s.grantTaken b v o).onLineService b = s.onLineService b := by
  rw [State.grantTaken_eq]
  rfl

/-- R130: the counts of the outcome reach the fault limit of a bay that counts. -/
theorem State.atFaultLimit_grantTaken {s : State} {b : BayNo} {v : Nat} {o : PostOutcome} :
    (s.grantTaken b v o).atFaultLimit b = true ↔ ((s.bay b).state ≠ .off ∧ (s.bay b).state ≠ .faulted) ∧
      (3 ≤ (if o = .silent then (s.lineBay b).silent + 1 else 0) ∨
        3 ≤ (if o = .refuse then (s.lineBay b).refuse + 1 else 0)) := by
  unfold State.atFaultLimit
  rw [Bool.and_eq_true, State.onLineService_grantTaken, State.onLineService_iff, State.lineBay_grantTaken]
  refine and_congr_right fun h => ?_
  simp only [if_pos h, Bool.or_eq_true, decide_eq_true_eq]
  rfl

@[simp] theorem State.lineBay_grantEnded (s : State) (b : BayNo) :
    (s.grantEnded b).lineBay b = { s.lineBay b with opn := none, increase := false } := by
  unfold State.grantEnded State.endExchange
  rw [State.freeLine_lineBay, State.lineBay_updLineBay, State.lineBay_updLineBay]

@[simp] theorem State.bay_grantEnded (s : State) (b c : BayNo) : (s.grantEnded b).bay c = s.bay c := rfl

@[simp] theorem State.onLineService_grantEnded (s : State) (b : BayNo) :
    (s.grantEnded b).onLineService b = s.onLineService b := rfl

theorem State.lineBay_grantEnded_ne (s : State) {b c : BayNo} (h : c ≠ b) :
    (s.grantEnded b).lineBay c = s.lineBay c := by
  unfold State.grantEnded State.endExchange
  rw [State.freeLine_lineBay, State.lineBay_updLineBay_ne _ _ h, State.lineBay_updLineBay_ne _ _ h]

theorem State.grantEnded_eq (s : State) (b : BayNo) : s.grantEnded b = { s with line := { s.line with
    carrying := none
    bays := s.line.bays.set b { s.lineBay b with opn := none, increase := false } } } := by
  simp [State.grantEnded, State.endExchange, State.freeLine, State.updLineBay, State.lineBay]

theorem State.grantTold_pending_moves (s : State) (b : BayNo) (before : Nat) (refusedUp : Bool) :
    MovesPending s (s.grantTold b before refusedUp) := by
  unfold State.grantTold
  split
  · exact (s.noteExposure_pending_moves b before).trans (State.refusedIncrease_pending_moves _ b)
  · exact s.noteExposure_pending_moves b before

theorem State.grantTold_records (s : State) (b : BayNo) (before : Nat) (refusedUp : Bool) :
    SameRecords s (s.grantTold b before refusedUp) := by
  unfold State.grantTold
  split
  · exact (s.noteExposure_records b before).trans (State.refusedIncrease_records _ b)
  · exact s.noteExposure_records b before

theorem State.lineBay_grantTold_of_unserved {s : State} {b : BayNo} (h : s.onLineService b = false) (before : Nat)
    (refusedUp : Bool) : (s.grantTold b before refusedUp).lineBay b = s.lineBay b := by
  have hnoted : (s.noteExposure b before).onLineService b = false := by
    unfold State.onLineService
    rw [(s.noteExposure_records b before).state]
    exact h
  unfold State.grantTold
  split
  · rw [State.lineBay_refusedIncrease_of_unserved hnoted, State.lineBay_noteExposure_of_unserved h]
  · rw [State.lineBay_noteExposure_of_unserved h]

theorem State.grantFollowed_pending_moves (s : State) (b : BayNo) (sentAt : Nat) :
    MovesPending s (s.grantFollowed b sentAt) :=
  (s.updLineBay_pending_moves b (f := fun l => l.afterGrant sentAt) fun _ => rfl).trans
    ((State.decreaseDone_pending_moves _ b).trans (State.reconcile_moves _ b).pending)

theorem State.grantFollowed_alloc (s : State) (b : BayNo) (sentAt : Nat) :
    (s.grantFollowed b sentAt).alloc = s.alloc := by
  unfold State.grantFollowed
  rw [State.reconcile_alloc, State.decreaseDone_alloc, State.updLineBay_alloc]

/-- R131 step 3: keep-alive due runs from the sending, while something is held. -/
theorem State.keepDue_grantFollowed (s : State) (b : BayNo) (sentAt : Nat) :
    ((s.grantFollowed b sentAt).lineBay b).keepDue =
      if 0 < (s.lineBay b).held then some (sentAt + 8000) else none := by
  unfold State.grantFollowed
  rw [(State.reconcile_moves _ b).lineBay, State.lineBay_decreaseDone, State.lineBay_updLineBay]
  rfl

/-- R131 step 4, R133: the pending Grant of a bay that the line serves and that has no Grant open. -/
theorem State.pGrant_grantFollowed {s : State} {b : BayNo} (hs : s.onLineService b = true)
    (ho : (s.lineBay b).opn = none) (sentAt : Nat) :
    ((s.grantFollowed b sentAt).lineBay b).pGrant.map (fun p => p.value) =
      if (s.grantFollowed b sentAt).target b = (s.lineBay b).held then none
      else some ((s.grantFollowed b sentAt).target b) := by
  have hmoves : MovesPending s ((s.updLineBay b (fun l => l.afterGrant sentAt)).decreaseDone b) :=
    (s.updLineBay_pending_moves b (f := fun l => l.afterGrant sentAt) fun _ => rfl).trans
      (State.decreaseDone_pending_moves _ b)
  have hclosed : (((s.updLineBay b (fun l => l.afterGrant sentAt)).decreaseDone b).lineBay b).grantOpen = false := by
    rw [LineBay.grantOpen_eq_false_iff, hmoves.opn, ho]
    simp
  have hserved := State.decreaseDone_served (s := s.updLineBay b (fun l => l.afterGrant sentAt)) hs
  unfold State.grantFollowed
  rw [State.pGrant_reconcile hserved hclosed, hmoves.held, State.target_reconcile]

/-! ### The final outcome of a Grant (R131) -/

theorem State.finish_of_grant {s : State} {b : BayNo} {v n m : Nat} {t : Option Nat}
    (h : (s.lineBay b).opn = some ⟨.grant v, t, n, m⟩) (o : PostOutcome) :
    s.finish b o = s.finishGrant b v m o := by
  unfold State.finish
  rw [h]

theorem State.exposure_of_grant {s : State} {b : BayNo} {v n m : Nat} {t : Option Nat}
    (h : (s.lineBay b).opn = some ⟨.grant v, t, n, m⟩) : s.exposure b = max (s.lineBay b).held v := by
  unfold State.exposure LineBay.exposure
  rw [LineBay.openGrant_of_grant h]

theorem State.served_of_atFaultLimit {s : State} {b : BayNo} (h : s.atFaultLimit b = true) :
    s.onLineService b = true := (Bool.and_eq_true_iff.mp h).1

/-- R131: between the counts and the end of the Grant, and after it, only what is pending moves. -/
theorem State.finishGrant_moves (s : State) (b : BayNo) (v sentAt : Nat) (o : PostOutcome) :
    ∃ u, MovesPending (s.grantTaken b v o) u ∧ MovesPending (u.grantEnded b) (s.finishGrant b v sentAt o) := by
  cases h : (s.grantTaken b v o).atFaultLimit b with
  | true =>
    rw [State.finishGrant_of_fault h]
    exact ⟨_, State.faultLimit_pending_moves (State.served_of_atFaultLimit h), State.grantTold_pending_moves _ b _ _⟩
  | false =>
    rw [State.finishGrant_of_no_fault h]
    exact ⟨_, .refl _, (State.grantTold_pending_moves _ b _ _).trans (State.grantFollowed_pending_moves _ b _)⟩

theorem State.finishGrant_carrying (s : State) (b : BayNo) (v sentAt : Nat) (o : PostOutcome) :
    (s.finishGrant b v sentAt o).line.carrying = none := by
  obtain ⟨u, -, hended⟩ := s.finishGrant_moves b v sentAt o
  exact hended.carrying

theorem State.lineBay_finishGrant (s : State) (b : BayNo) (v sentAt : Nat) (o : PostOutcome) :
    let l := (s.finishGrant b v sentAt o).lineBay b
    l = { (s.grantTaken b v o).lineBay b with
      opn := none, increase := false
      pGrant := l.pGrant, pWake := l.pWake, pUnlock := l.pUnlock, keepDue := l.keepDue } := by
  obtain ⟨u, htaken, hended⟩ := s.finishGrant_moves b v sentAt o
  have hline := hended.lineBay b
  rw [State.lineBay_grantEnded, htaken.lineBay b] at hline
  exact hline

theorem State.lineBay_finishGrant_ne (s : State) {b c : BayNo} (h : c ≠ b) (v sentAt : Nat) (o : PostOutcome) :
    let l := (s.finishGrant b v sentAt o).lineBay c
    l = { s.lineBay c with pGrant := l.pGrant, pWake := l.pWake, pUnlock := l.pUnlock, keepDue := l.keepDue } := by
  obtain ⟨u, htaken, hended⟩ := s.finishGrant_moves b v sentAt o
  have hline := hended.lineBay c
  rw [State.lineBay_grantEnded_ne u h, htaken.lineBay c, State.lineBay_grantTaken_ne s h] at hline
  exact hline

/-- R130: the end of the Grant and its notices leave a Faulted bay as it is. -/
theorem State.grantTold_of_faulted {s : State} {b : BayNo} (h : (s.bay b).state = .faulted) (before : Nat)
    (refusedUp : Bool) : (((s.grantEnded b).grantTold b before refusedUp).bay b).state = .faulted ∧
      ((s.grantEnded b).grantTold b before refusedUp).lineBay b =
        { s.lineBay b with opn := none, increase := false } := by
  have hunserved : s.onLineService b = false := by simp [State.onLineService, h]
  refine ⟨?_, ?_⟩
  · rw [((s.grantEnded b).grantTold_records b before refusedUp).state, State.bay_grantEnded, h]
  · rw [State.lineBay_grantTold_of_unserved ((s.onLineService_grantEnded b).trans hunserved), State.lineBay_grantEnded]

/-- R130: the fault that the outcome reaches drops what is pending, and the bay stays Faulted. -/
theorem State.finishGrant_faults {s : State} {b : BayNo} {v : Nat} {o : PostOutcome}
    (h : (s.grantTaken b v o).atFaultLimit b = true) (sentAt : Nat) :
    ((s.finishGrant b v sentAt o).bay b).state = .faulted ∧ (s.finishGrant b v sentAt o).lineBay b =
      { (s.grantTaken b v o).lineBay b with
        opn := none, increase := false, pGrant := none, pWake := none, pUnlock := none, keepDue := none } := by
  obtain ⟨hoff, hfaulted⟩ := State.onLineService_iff.mp (State.served_of_atFaultLimit h)
  have hstate : (((s.grantTaken b v o).faultLimit b).bay b).state = .faulted := by
    rcases State.bay_faultLimit hoff hfaulted with e | e <;> rw [e] <;> rfl
  have hline := State.lineBay_faultLimit hoff hfaulted
  rw [State.finishGrant_of_fault h]
  generalize (s.grantTaken b v o).faultLimit b = u at hstate hline ⊢
  obtain ⟨hbay, hlinebay⟩ := State.grantTold_of_faulted hstate (s.exposure b) ((s.lineBay b).increase && o == .refuse)
  exact ⟨hbay, by rw [hlinebay, hline]⟩

/-- R131 steps 3 and 4, after the end of the Grant and its notices. -/
theorem State.grantFollowed_of_told (s : State) (b : BayNo) (before sentAt : Nat) (refusedUp : Bool) :
    ((((s.grantEnded b).grantTold b before refusedUp).grantFollowed b sentAt).lineBay b).keepDue =
      (if 0 < (s.lineBay b).held then some (sentAt + 8000) else none) ∧
    (s.onLineService b = true →
      ((((s.grantEnded b).grantTold b before refusedUp).grantFollowed b sentAt).lineBay b).pGrant.map (fun p => p.value) =
        if (((s.grantEnded b).grantTold b before refusedUp).grantFollowed b sentAt).target b = (s.lineBay b).held
          then none else some ((((s.grantEnded b).grantTold b before refusedUp).grantFollowed b sentAt).target b)) := by
  have htold := (s.grantEnded b).grantTold_pending_moves b before refusedUp
  have hrecords := (s.grantEnded b).grantTold_records b before refusedUp
  have hheld := htold.held b
  have hopn := htold.opn b
  rw [State.lineBay_grantEnded] at hheld hopn
  dsimp only at hheld hopn
  refine ⟨?_, fun hs => ?_⟩
  · rw [State.keepDue_grantFollowed, hheld]
  · have hserved : ((s.grantEnded b).grantTold b before refusedUp).onLineService b = true := by
      rw [← hs, ← s.onLineService_grantEnded b]
      unfold State.onLineService
      rw [hrecords.state]
    rw [State.pGrant_grantFollowed hserved hopn, hheld]

/-- R107: the report of a refused increase limits the bay to what it holds. -/
theorem State.grantTold_limits (s : State) (b : BayNo) (before : Nat) :
    ((s.grantEnded b).grantTold b before true).alloc.limits[b] = some (s.lineBay b).held ∧
      ((s.grantEnded b).grantTold b before true).target b ≤ (s.lineBay b).held := by
  have hheld : (((s.grantEnded b).noteExposure b before).lineBay b).held = (s.lineBay b).held := by
    rw [(State.noteExposure_pending_moves _ b before).held, State.lineBay_grantEnded]
  rw [← hheld]
  exact ⟨State.limit_refusedIncrease _ b, State.target_refusedIncrease_le _ b⟩

theorem State.finishGrant_limits {s : State} {b : BayNo} (hup : (s.lineBay b).increase = true) (v sentAt : Nat) :
    (s.finishGrant b v sentAt .refuse).alloc.limits[b] = some (s.lineBay b).held ∧
      (s.finishGrant b v sentAt .refuse).target b ≤ (s.lineBay b).held := by
  have hheld : ((s.grantTaken b v .refuse).lineBay b).held = (s.lineBay b).held := by
    rw [State.lineBay_grantTaken]
    rfl
  have hrefused : ((s.lineBay b).increase && PostOutcome.refuse == .refuse) = true := by
    rw [hup]
    rfl
  cases h : (s.grantTaken b v .refuse).atFaultLimit b with
  | true =>
    have hfault := (State.faultLimit_pending_moves (State.served_of_atFaultLimit h)).held b
    rw [State.finishGrant_of_fault h, hrefused, ← hheld, ← hfault]
    exact State.grantTold_limits _ b _
  | false =>
    rw [State.finishGrant_of_no_fault h, hrefused, ← hheld]
    unfold State.target
    rw [State.grantFollowed_alloc]
    exact State.grantTold_limits _ b _

/-- R107: the report of a refused increase, as the statements ask for it. -/
theorem State.grantTold_eq (s : State) (b : BayNo) (before : Nat) (up : Bool) (o : PostOutcome) :
    s.grantTold b before (up && o == .refuse) =
      if up = true ∧ o = .refuse then (s.noteExposure b before).refusedIncrease b else s.noteExposure b before :=
  if_congr (by simp) rfl rfl

/-! ### O55 -/

/-- Settles O55: the fields of the outcome from its steps, the steps as one equation, and the refused increase. -/
theorem grantOutcomeIsTaken : Obligations.GrantOutcomeIsTaken := by
  unfold Obligations.GrantOutcomeIsTaken
  refine ⟨fun b o c v defers sentAt s hc hb hwhat ha hopn => ?_, fun b s => ?_⟩
  · intro counts held silent refuse faults t
    have hfinish : t = s.finishGrant b v sentAt o := State.finish_of_grant hopn o
    have hfault : faults → (s.grantTaken b v o).atFaultLimit b = true := State.atFaultLimit_grantTaken.mpr
    have hnofault : ¬ faults → (s.grantTaken b v o).atFaultLimit b = false := fun h =>
      Bool.eq_false_iff.mpr (mt State.atFaultLimit_grantTaken.mp h)
    have htaken := s.lineBay_grantTaken b v o
    have hline := s.lineBay_finishGrant b v sentAt o
    have hother := fun x (hx : x ≠ b) => s.lineBay_finishGrant_ne hx v sentAt o
    have hexec := fun ho : o ≠ .silent =>
      State.next_settle_takeOutcome hc hb ha (kind := Exchange.isGrant) (by rw [hwhat]; rfl) ho
    have hheld : ((s.grantTaken b v o).lineBay b).held = held := by rw [htaken]
    dsimp only at hline hother
    rw [htaken, ← hfinish] at hline
    rw [← hfinish] at hother
    refine ⟨fun ho => (hexec ho).1, fun ho => (hexec ho).2, ?_, by rw [hline], by rw [hline], by rw [hline],
      fun h => ?_, fun h => ?_, fun h => ?_, fun h hcounts => ?_, fun h => ?_, fun hup ho => ?_,
      fun x hx => ⟨by rw [hother x hx], by rw [hother x hx]⟩, ?_⟩
    · rw [hfinish, State.finishGrant_carrying]
    · rw [hline]
      exact ⟨if_pos h, if_pos h⟩
    · rw [hline]
      exact ⟨if_neg h, if_neg h⟩
    · rw [hfinish, State.finishGrant_of_no_fault (hnofault h), ← hheld]
      exact (State.grantFollowed_of_told _ b _ sentAt _).1
    · have hserved := (s.onLineService_grantTaken b v o).trans (State.onLineService_iff.mpr hcounts)
      rw [hfinish, State.finishGrant_of_no_fault (hnofault h), ← hheld]
      exact (State.grantFollowed_of_told _ b _ sentAt _).2 hserved
    · obtain ⟨hstate, hcleared⟩ := State.finishGrant_faults (hfault h) sentAt
      rw [hfinish]
      refine ⟨hstate, ?_⟩
      rw [hcleared]
      exact ⟨rfl, rfl, rfl, rfl⟩
    · subst ho
      rw [hfinish]
      exact State.finishGrant_limits hup v sentAt
    · intro counted faulted ended noted told
      have htold : told = (faulted.grantEnded b).grantTold b (s.exposure b)
          ((s.lineBay b).increase && o == .refuse) := by
        rw [State.grantTold_eq, State.grantEnded_eq, State.exposure_of_grant hopn]
      have hcounted : s.grantTaken b v o = counted := s.grantTaken_eq b v o
      by_cases h : faults
      · have hfaulted : faulted = counted.faultLimit b := if_pos h
        rw [if_pos h, htold, hfaulted, hfinish, State.finishGrant_of_fault (hfault h), hcounted]
      · have hfaulted : faulted = counted := if_neg h
        rw [if_neg h, htold, hfaulted, hfinish, State.finishGrant_of_no_fault (hnofault h), hcounted]
        rfl
  · intro held limited
    split
    next h => exact State.refusedIncrease_of_above h
    next h => exact State.refusedIncrease_of_within h

end Sys2Proof.Machine
end

section
/-! PROOFS. The status of a post: the line and the held grant, the energy, the plug, and the whole of a poll's answer:
O54. -/

namespace Sys2Proof.Machine

/-! ### Exposure (R132) -/

theorem LineBay.exposure_of_grant {l : LineBay} {v n m : Nat} {t : Option Nat}
    (h : l.opn = some ⟨.grant v, t, n, m⟩) : l.exposure = max l.held v := by
  unfold LineBay.exposure
  rw [LineBay.openGrant_of_grant h]

theorem LineBay.exposure_of_closed {l : LineBay} (h : l.grantOpen = false) : l.exposure = l.held := by
  unfold LineBay.exposure
  rw [LineBay.openGrant_of_closed h]
  exact Nat.max_zero _

/-! ### The line takes a status (R141, R142) -/

theorem State.lineTakesStatus_of_out {s : State} {b : BayNo} {st : PostStatus} (h : st.plugIn = false) :
    s.lineTakesStatus b st = ((s.updLineBay b (fun l =>
      { l with held := 0, pGrant := none, pWake := none, pUnlock := none, keepDue := none })).updBay b (fun r =>
        { r with wakePending := false })).noteExposure b (s.exposure b) := by
  unfold State.lineTakesStatus
  exact if_pos h

theorem State.lineTakesStatus_of_raised {s : State} {b : BayNo} {st : PostStatus} (h : st.plugIn = true)
    (hr : (s.lineBay b).held < st.output) : s.lineTakesStatus b st = ((s.updLineBay b (fun l =>
      { l with held := st.output, keepDue := some (l.keepDue.getD (s.elapsed + 8000)) })).reconcile b).noteExposure b
        (s.exposure b) := by
  unfold State.lineTakesStatus
  dsimp only
  rw [if_neg (by simp [h]), if_pos hr]
  rfl

theorem State.lineTakesStatus_of_drained {s : State} {b : BayNo} {st : PostStatus} (h : st.plugIn = true)
    (hr : ¬ (s.lineBay b).held < st.output)
    (hf : (s.bay b).state = .faulted ∧ st.output = 0 ∧ 0 < (s.lineBay b).held) : s.lineTakesStatus b st =
      ((s.updLineBay b (fun l => { l with held := 0 })).noteExposure b (s.exposure b)).decreaseDone b := by
  unfold State.lineTakesStatus
  dsimp only
  rw [if_neg (by simp [h]), if_neg hr, if_pos hf]

theorem State.lineTakesStatus_of_kept {s : State} {b : BayNo} {st : PostStatus} (h : st.plugIn = true)
    (hr : ¬ (s.lineBay b).held < st.output)
    (hf : ¬ ((s.bay b).state = .faulted ∧ st.output = 0 ∧ 0 < (s.lineBay b).held)) : s.lineTakesStatus b st = s := by
  unfold State.lineTakesStatus
  dsimp only
  rw [if_neg (by simp [h]), if_neg hr, if_neg hf]

/-- R141: at plug Out everything held and pending is dropped; the fall of the exposure moves no pending Grant. -/
theorem State.lineBay_lineTakesStatus_of_out {s : State} {b : BayNo} {st : PostStatus} (h : st.plugIn = false) :
    (s.lineTakesStatus b st).lineBay b =
      { s.lineBay b with held := 0, pGrant := none, pWake := none, pUnlock := none, keepDue := none } := by
  have hfall : NoRise s ((s.updLineBay b (fun l =>
      { l with held := 0, pGrant := none, pWake := none, pUnlock := none, keepDue := none })).updBay b (fun r =>
        { r with wakePending := false })) :=
    NoRise.trans (s.updLineBay_norise b (fun l =>
      { l with held := 0, pGrant := none, pWake := none, pUnlock := none, keepDue := none })
      fun _ => LineBay.exposure_le (Nat.zero_le _) rfl) (State.updBay_norise _ b _)
  rw [State.lineTakesStatus_of_out h, State.lineBay_noteExposure_of_le (before := s.exposure b) (hfall.le b),
    State.updBay_lineBay, State.lineBay_updLineBay]

/-- R141: an output above the held grant is held, and keep-alive due is set if absent. -/
theorem State.lineBay_lineTakesStatus_of_raised {s : State} {b : BayNo} {st : PostStatus} (h : st.plugIn = true)
    (hr : (s.lineBay b).held < st.output) : (s.lineTakesStatus b st).lineBay b =
      { s.lineBay b with
        held := st.output
        keepDue := some ((s.lineBay b).keepDue.getD (s.elapsed + 8000))
        pGrant := ((s.lineTakesStatus b st).lineBay b).pGrant } := by
  rw [State.lineTakesStatus_of_raised h hr, State.lineBay_noteExposure, (State.reconcile_moves _ b).lineBay,
    State.lineBay_updLineBay]

/-- R141: what is held after a status. -/
theorem State.held_lineTakesStatus (s : State) (b : BayNo) (st : PostStatus) :
    ((s.lineTakesStatus b st).lineBay b).held = if st.plugIn = false then 0
      else if (s.lineBay b).held < st.output then st.output
      else if (s.bay b).state = .faulted ∧ st.output = 0 then 0 else (s.lineBay b).held := by
  cases h : st.plugIn with
  | false => rw [State.lineBay_lineTakesStatus_of_out h, if_pos rfl]
  | true =>
    rw [if_neg (by simp)]
    by_cases hr : (s.lineBay b).held < st.output
    · rw [State.lineBay_lineTakesStatus_of_raised h hr, if_pos hr]
    · rw [if_neg hr]
      by_cases hf : (s.bay b).state = .faulted ∧ st.output = 0 ∧ 0 < (s.lineBay b).held
      · have hmoves : MovesPending (s.updLineBay b (fun l => { l with held := 0 })) (s.lineTakesStatus b st) := by
          rw [State.lineTakesStatus_of_drained h hr hf]
          exact (State.noteExposure_pending_moves _ b _).trans (State.decreaseDone_pending_moves _ b)
        rw [hmoves.held, State.lineBay_updLineBay, if_pos ⟨hf.1, hf.2.1⟩]
      · rw [State.lineTakesStatus_of_kept h hr hf]
        split
        next hz => exact Nat.eq_zero_of_not_pos fun hpos => hf ⟨hz.1, hz.2, hpos⟩
        next => rfl

/-! ### The counter (R17) -/

theorem State.takeCounter_of_unbound {s : State} {b : BayNo}
    (h : ∀ o, s.orderOf? b = some o → o.state.isBound = false) (reading : Nat) : s.takeCounter b reading = s := by
  unfold State.takeCounter
  split
  next => rfl
  next o ho => rw [if_neg (by simp [h o ho])]

theorem State.takeCounter_of_bound {s : State} {b : BayNo} {o : Order} (ho : s.orderOf? b = some o)
    (hb : o.state.isBound = true) (reading : Nat) : s.takeCounter b reading =
      if (s.bay b).baseline ≤ reading then s.updOrder o.tag (fun x => { x with
        delivered := max x.delivered (min 65535 (x.carried + (reading - (s.bay b).baseline))) })
      else (s.updOrder o.tag (fun x => { x with carried := x.delivered })).updBay b
        (fun r => { r with baseline := reading }) := by
  unfold State.takeCounter
  rw [ho]
  exact if_pos hb

/-! ### The plug (R29 to R31, R44) -/

/-- R29 to R31, R44: the state a bay has after a status. -/
def BayState.afterPlug (st : BayState) (plugIn : Bool) : BayState :=
  if st = .faulted then .faulted
  else if plugIn = false then .vacant
  else if st = .off ∨ st = .vacant then .attached else st

/-- R27: the post data of a bay record. -/
def BayRec.postData (r : BayRec) : Bool × Nat × Nat × Nat := (r.plugIn, r.output, r.counter, r.limit)

theorem State.bay_attach (s : State) (b : BayNo) :
    (s.attach b).bay b = { (s.bay b).clearSlots.clearPack with state := .attached } := by
  unfold State.attach
  rw [(State.append_leaves _ b _ _ _).bay, State.bay_updBay]

theorem State.plugOut_of_some {s : State} {b : BayNo} {o : Order} (ho : s.orderOf? b = some o) :
    s.plugOut b = (((s.closeOrder o.tag (s.plugOutOutcome b o)).updBay b BayRec.vacate).append .bayUnplugged
      (some (.bay b)) .raised).leaveEligibility (s.eligible b) b := by
  unfold State.plugOut
  rw [ho]

theorem State.plugOut_of_none {s : State} {b : BayNo} (ho : s.orderOf? b = none) :
    s.plugOut b = ((s.updBay b BayRec.vacate).append .bayUnplugged (some (.bay b)) .raised).leaveEligibility
      (s.eligible b) b := by
  unfold State.plugOut
  rw [ho]

theorem State.plugOutFaulted_of_some {s : State} {b : BayNo} {o : Order} (ho : s.orderOf? b = some o) (wasIn : Bool) :
    s.plugOutFaulted b wasIn = ((s.closeOrder o.tag (s.plugOutOutcome b o)).updBay b BayRec.clearBinding).append
      .bayUnplugged (some (.bay b)) .raised := by
  unfold State.plugOutFaulted
  rw [ho]

theorem State.plugOutFaulted_of_none {s : State} {b : BayNo} (ho : s.orderOf? b = none) (wasIn : Bool) :
    s.plugOutFaulted b wasIn = if wasIn then s.append .bayUnplugged (some (.bay b)) .raised else s := by
  unfold State.plugOutFaulted
  rw [ho]

theorem MovesTargets.bay {s t : State} (h : MovesTargets s t) (b : BayNo) : t.bay b = s.bay b := by
  unfold State.bay
  rw [h.bays]

theorem State.bay_plugOut (s : State) (b : BayNo) : (s.plugOut b).bay b = (s.bay b).vacate := by
  cases ho : s.orderOf? b with
  | none =>
    rw [State.plugOut_of_none ho, (State.leaveEligibility_moves _ _ b).bay, (State.append_leaves _ b _ _ _).bay,
      State.bay_updBay]
  | some o =>
    rw [State.plugOut_of_some ho, (State.leaveEligibility_moves _ _ b).bay, (State.append_leaves _ b _ _ _).bay,
      State.bay_updBay, (s.closeOrder_leaves b _ _).bay]

theorem State.bay_plugOutFaulted (s : State) (b : BayNo) (wasIn : Bool) :
    (s.plugOutFaulted b wasIn).bay b = s.bay b ∨ (s.plugOutFaulted b wasIn).bay b = (s.bay b).clearBinding := by
  cases ho : s.orderOf? b with
  | none =>
    rw [State.plugOutFaulted_of_none ho]
    refine .inl ?_
    split
    · exact (s.append_leaves b _ _ _).bay
    · rfl
  | some o =>
    rw [State.plugOutFaulted_of_some ho, (State.append_leaves _ b _ _ _).bay, State.bay_updBay,
      (s.closeOrder_leaves b _ _).bay]
    exact .inr rfl

theorem State.plugReaction_of_off {s : State} {b : BayNo} (h : (s.bay b).state = .off) (wasIn : Bool) :
    s.plugReaction b false wasIn = s.updBay b (fun r => { r with state := .vacant }) := by
  unfold State.plugReaction
  rw [h]

theorem State.plugReaction_of_vacant {s : State} {b : BayNo} (h : (s.bay b).state = .vacant) (wasIn : Bool) :
    s.plugReaction b false wasIn = s := by
  unfold State.plugReaction
  rw [h]

theorem State.plugReaction_of_out {s : State} {b : BayNo} (ho : (s.bay b).state ≠ .off)
    (hv : (s.bay b).state ≠ .vacant) (hf : (s.bay b).state ≠ .faulted) (wasIn : Bool) :
    s.plugReaction b false wasIn = s.plugOut b := by
  unfold State.plugReaction
  cases hs : (s.bay b).state with
  | off => exact absurd hs ho
  | vacant => exact absurd hs hv
  | faulted => exact absurd hs hf
  | attached | admitting | unmatched | bound | dormant | waking => rfl

theorem State.plugReaction_of_in {s : State} {b : BayNo} (ho : (s.bay b).state ≠ .off)
    (hv : (s.bay b).state ≠ .vacant) (wasIn : Bool) : s.plugReaction b true wasIn = s := by
  unfold State.plugReaction
  cases hs : (s.bay b).state with
  | off => exact absurd hs ho
  | vacant => exact absurd hs hv
  | attached | admitting | unmatched | bound | dormant | waking | faulted => rfl

theorem State.plugReaction_of_arrival {s : State} {b : BayNo}
    (h : (s.bay b).state = .off ∨ (s.bay b).state = .vacant) (wasIn : Bool) :
    s.plugReaction b true wasIn = s.attach b := by
  unfold State.plugReaction
  rcases h with h | h <;> rw [h]

theorem State.plugReaction_of_faulted {s : State} {b : BayNo} (h : (s.bay b).state = .faulted) (wasIn : Bool) :
    s.plugReaction b false wasIn = s.plugOutFaulted b wasIn := by
  unfold State.plugReaction
  rw [h]

/-- R29 to R31, R44: the plug moves the state of the bay and leaves its post data. -/
theorem State.bay_plugReaction (s : State) (b : BayNo) (plugIn wasIn : Bool) :
    ((s.plugReaction b plugIn wasIn).bay b).postData = (s.bay b).postData ∧
      ((s.plugReaction b plugIn wasIn).bay b).state = (s.bay b).state.afterPlug plugIn := by
  unfold BayState.afterPlug
  cases plugIn with
  | true =>
    by_cases h : (s.bay b).state = .off ∨ (s.bay b).state = .vacant
    · rw [State.plugReaction_of_arrival h, State.bay_attach, if_neg (by rcases h with h | h <;> simp [h]),
        if_neg (by simp), if_pos h]
      exact ⟨rfl, rfl⟩
    · obtain ⟨ho, hv⟩ := not_or.mp h
      rw [State.plugReaction_of_in ho hv, if_neg (c := true = false) (by simp), if_neg h]
      refine ⟨rfl, ?_⟩
      split
      next hf => exact hf
      next => rfl
  | false =>
    rw [if_pos (c := false = false) rfl]
    by_cases hf : (s.bay b).state = .faulted
    · rw [if_pos hf, State.plugReaction_of_faulted hf]
      rcases s.bay_plugOutFaulted b wasIn with h | h <;> rw [h] <;> exact ⟨rfl, hf⟩
    rw [if_neg hf]
    by_cases ho : (s.bay b).state = .off
    · rw [State.plugReaction_of_off ho, State.bay_updBay]
      exact ⟨rfl, rfl⟩
    by_cases hv : (s.bay b).state = .vacant
    · rw [State.plugReaction_of_vacant hv]
      exact ⟨rfl, hv⟩
    rw [State.plugReaction_of_out ho hv hf, State.bay_plugOut]
    exact ⟨rfl, rfl⟩

/-! ### The bay takes a status (R27) -/

theorem State.bay_takeCounter (s : State) (b : BayNo) (reading : Nat) :
    ((s.takeCounter b reading).bay b).postData = (s.bay b).postData ∧
      ((s.takeCounter b reading).bay b).state = (s.bay b).state := by
  unfold State.takeCounter
  split
  · exact ⟨rfl, rfl⟩
  · split
    · split
      · exact ⟨rfl, rfl⟩
      · rw [State.bay_updBay]
        exact ⟨rfl, rfl⟩
    · exact ⟨rfl, rfl⟩

theorem State.bay_bayTakesStatus (s : State) (b : BayNo) (st : PostStatus) :
    ((s.bayTakesStatus b st).bay b).postData = (st.plugIn, st.output, st.counter, st.limit) ∧
      ((s.bayTakesStatus b st).bay b).state = (s.bay b).state.afterPlug st.plugIn := by
  unfold State.bayTakesStatus
  dsimp only
  obtain ⟨hdata, hstate⟩ := State.bay_takeCounter (s.updBay b (fun r =>
    { r with plugIn := st.plugIn, output := st.output, counter := st.counter, limit := st.limit })) b st.counter
  obtain ⟨hplugData, hplugState⟩ := State.bay_plugReaction ((s.updBay b (fun r =>
    { r with plugIn := st.plugIn, output := st.output, counter := st.counter, limit := st.limit })).takeCounter b
      st.counter) b st.plugIn (s.bay b).plugIn
  rw [State.bay_updBay] at hdata hstate
  exact ⟨hplugData.trans hdata, hplugState.trans (congrArg (BayState.afterPlug · st.plugIn) hstate)⟩

/-! ### A status as a whole (R141, R127) -/

theorem statusValid_iff {st : PostStatus} :
    statusValid st = true ↔ st.output ≤ 60 ∧ st.counter ≤ 65535 ∧ st.limit ≤ 60 := by
  simp [statusValid, and_assoc]

/-- R127, R130: a status frees the line and clears the counts of a bay that counts. -/
theorem State.count_endExchange_accept (s : State) (b : BayNo) : (s.endExchange b).count b .accept =
    { s with line := { s.line with
      carrying := none
      bays := s.line.bays.set b { s.lineBay b with
        opn := none
        silent := if (s.bay b).state ≠ .off ∧ (s.bay b).state ≠ .faulted then 0 else (s.lineBay b).silent
        refuse := if (s.bay b).state ≠ .off ∧ (s.bay b).state ≠ .faulted then 0 else (s.lineBay b).refuse } } } := by
  rw [State.count_endExchange]
  rfl

/-- R27: a status that reports plug In hands its van frame to the bay. -/
def State.takeStatusFrame (s : State) (b : BayNo) (st : PostStatus) : State :=
  if st.plugIn then st.frame.elim s (s.takeFrame b) else s

theorem State.takeStatus_eq (s : State) (b : BayNo) (st : PostStatus) : s.takeStatus b st =
    if (s.bay b).state = .off then
      (((((s.endExchange b).count b .accept).lineTakesStatus b st).bayTakesStatus b st).takeStatusFrame b st).reconcile b
    else ((((s.endExchange b).count b .accept).lineTakesStatus b st).bayTakesStatus b st).takeStatusFrame b st := by
  unfold State.takeStatus State.takeStatusFrame
  dsimp only
  generalize (((s.endExchange b).count b .accept).lineTakesStatus b st).bayTakesStatus b st = u
  cases st.plugIn <;> cases st.frame <;> exact if_congr beq_iff_eq rfl rfl

/-- R127: a valid status answers the poll that the line carries for its bay. -/
theorem postStatus_of_polled {s : State} {b : BayNo} {st : PostStatus} {c : OnLine} (hv : statusValid st = true)
    (hc : s.line.carrying = some c) (hb : c.bay = b) (hp : c.what = .poll) :
    exec (.postStatus b st) s = .next (s.answer (fun t => t.takeStatus b st)).settle := by
  have hcarries : s.carries b (fun x => x == .poll) = true := State.carries_of_carrying hc hb (by rw [hp]; rfl)
  have htaken : s.takePostStatus b st = s.answer (fun t => t.takeStatus b st) :=
    if_pos (Bool.and_eq_true_iff.mpr ⟨hv, hcarries⟩)
  rw [← htaken]
  rfl

theorem postStatus_of_open {s : State} {b : BayNo} {st : PostStatus} {c : OnLine} (hv : statusValid st = true)
    (hc : s.line.carrying = some c) (hb : c.bay = b) (hp : c.what = .poll) (ha : c.abandoned = false) :
    exec (.postStatus b st) s =
      if s.elapsed ≤ c.windowDue then .next (s.takeStatus b st).settle else .next s := by
  rw [postStatus_of_polled hv hc hb hp, State.answer_of_open hc ha, State.next_settle_late hc]

theorem postStatus_of_abandoned {s : State} {b : BayNo} {st : PostStatus} {c : OnLine} (hv : statusValid st = true)
    (hc : s.line.carrying = some c) (hb : c.bay = b) (hp : c.what = .poll) (ha : c.abandoned = true) :
    exec (.postStatus b st) s = if s.elapsed ≤ c.windowDue then .next s.freeLine.settle else .next s := by
  rw [postStatus_of_polled hv hc hb hp, State.answer_of_abandoned hc ha, State.next_settle_late hc]

/-! ### O54 -/

/-- Settles O54: the answer by its window, the line's part by plug and output, the notices, the counter by the baseline,
and the plug by the state of the bay. -/
theorem postStatusIsTaken : Obligations.PostStatusIsTaken := by
  unfold Obligations.PostStatusIsTaken
  refine ⟨fun b st c s hv hc hb hp => ⟨fun hlate => ?_, fun hin ha => ?_, fun hin ha => ?_⟩, fun st => statusValid_iff,
    fun b st s hv => next_settle_of_eq (if_neg (by simp [hv])), fun b st s => ?_,
    fun b before s => ⟨?_, rfl, s.noteExposure_eq b before⟩,
    fun b reading s h => State.takeCounter_of_unbound h reading, fun b reading o s ho hb => ?_, fun b st s => ?_,
    fun b st s => rfl, fun b wasIn s => ?_, fun b o s hs ho wasIn => ?_⟩
  · have hout := Nat.not_le.mpr hlate
    cases ha : c.abandoned with
    | true => rw [postStatus_of_abandoned hv hc hb hp ha, if_neg hout]
    | false => rw [postStatus_of_open hv hc hb hp ha, if_neg hout]
  · rw [postStatus_of_abandoned hv hc hb hp ha, if_pos hin]
    rfl
  · intro counts t u v
    have ht : (s.endExchange b).count b .accept = t := s.count_endExchange_accept b
    have hframe : u.takeStatusFrame b st = v := by
      unfold v State.takeStatusFrame
      clear_value u
      cases st.plugIn <;> cases st.frame <;> rfl
    rw [postStatus_of_open hv hc hb hp ha, if_pos hin, State.takeStatus_eq, ht, ← hframe]
  · intro t
    refine ⟨s.held_lineTakesStatus b st, fun hout => ?_, fun hplug hr => ?_, ?_⟩
    · rw [State.lineBay_lineTakesStatus_of_out hout]
      exact ⟨rfl, rfl, rfl, rfl⟩
    · rw [State.lineBay_lineTakesStatus_of_raised hplug hr]
    · intro line l
      cases hplug : st.plugIn with
      | false => exact (State.lineTakesStatus_of_out hplug).trans (if_pos rfl).symm
      | true =>
        rw [if_neg (by simp)]
        by_cases hr : l.held < st.output
        · rw [if_pos hr]
          exact State.lineTakesStatus_of_raised hplug hr
        rw [if_neg hr]
        by_cases hf : (s.bay b).state = .faulted ∧ st.output = 0 ∧ 0 < l.held
        · rw [if_pos hf]
          exact State.lineTakesStatus_of_drained hplug hr hf
        · rw [if_neg hf]
          exact State.lineTakesStatus_of_kept hplug hr hf
  · split
    next v t n m h => exact LineBay.exposure_of_grant h
    next h => exact LineBay.exposure_of_closed (LineBay.grantOpen_eq_false_iff.mpr h)
  · rw [State.takeCounter_of_bound ho hb]
    exact ⟨fun h => if_pos h, fun h => if_neg (Nat.not_le.mpr h)⟩
  · intro r
    obtain ⟨hdata, hstate⟩ := s.bay_bayTakesStatus b st
    obtain ⟨hplug, hrest⟩ := Prod.mk.inj hdata
    obtain ⟨houtput, hrest⟩ := Prod.mk.inj hrest
    obtain ⟨hcounter, hlimit⟩ := Prod.mk.inj hrest
    refine ⟨hplug, houtput, hcounter, hlimit, hstate.trans ?_⟩
    cases (s.bay b).state <;> cases st.plugIn <;> rfl
  · intro unplugged closed
    have hclosed : ∀ o, s.orderOf? b = some o → closed = s.closeOrder o.tag (s.plugOutOutcome b o) := fun o ho => by
      unfold closed
      rw [ho]
      rfl
    refine ⟨fun h => State.plugReaction_of_off h wasIn, fun h => State.plugReaction_of_vacant h wasIn,
      fun h => State.plugReaction_of_arrival h wasIn, fun ho hv => State.plugReaction_of_in ho hv wasIn,
      fun hf => ⟨fun o ho => ?_, fun ho => ?_⟩, fun hoff hv hf => ?_⟩
    · rw [State.plugReaction_of_faulted hf, State.plugOutFaulted_of_some ho, hclosed o ho]
      rfl
    · rw [State.plugReaction_of_faulted hf, State.plugOutFaulted_of_none ho]
    · rw [State.plugReaction_of_out hoff hv hf]
      cases ho : s.orderOf? b with
      | none =>
        have hsame : closed = s := by
          unfold closed
          rw [ho]
        rw [State.plugOut_of_none ho, hsame]
        rfl
      | some o =>
        rw [State.plugOut_of_some ho, hclosed o ho]
        rfl
  · intro out
    have hne : (s.bay b).state ≠ .off ∧ (s.bay b).state ≠ .vacant ∧ (s.bay b).state ≠ .faulted := by
      rcases hs with h | h | h <;> simp [h]
    obtain ⟨hoff, hvacant, hfaulted⟩ := hne
    rw [State.plugReaction_of_out hoff hvacant hfaulted, State.plugOut_of_some ho]
    rfl

end Sys2Proof.Machine
end

section
/-! PROOFS. What every step keeps of the collections, the attention lines and the ceiling; appends, TakeEvents and
SetAttention; the completion log: O4, O19, O20, O21, O22. -/

namespace Sys2Proof.Machine

/-! ### What every step keeps (O4) -/

/-- Settles O4: every command is lawful, and the four laws read neither the queue nor the clocks. -/
theorem stepKeepsCollectionsAttentionAndCeiling : Obligations.StepKeepsCollectionsAttentionAndCeiling := by
  unfold Obligations.StepKeepsCollectionsAttentionAndCeiling
  intro s t h
  exact ⟨step_keeps (P := State.collectionsBounded) (fun _ _ _ he => (exec_lawful he).bounded) (fun _ _ => id)
      (fun _ _ => id) (fun _ => id) h,
    step_keeps (P := State.attentionRight) (fun _ _ _ he => (exec_lawful he).attention) (fun _ _ => id) (fun _ _ => id)
      (fun _ => id) h,
    step_keeps (P := State.ceilingRight) (fun _ _ _ he => (exec_lawful he).ceiling) (fun _ _ => id) (fun _ _ => id)
      (fun _ => id) h,
    step_keeps (P := State.conditionsRight) (fun _ _ _ he => (exec_lawful he).conditions) (fun _ _ => id)
      (fun _ _ => id) (fun _ => id) h⟩

/-! ### Appends and SetAttention (O21, O22) -/

/-- R154: the seconds elapsed since the reset stand for the depot time while the clock is unset. -/
theorem State.eventTime_of_unset {s : State} (h : s.now? = none) :
    s.eventTime = .elapsed (min 4294967295 (s.elapsed / 1000)) := by
  unfold State.eventTime
  rw [h]
  rfl

theorem State.eventTime_of_set {s : State} {t : Nat} (h : s.now? = some t) : s.eventTime = .depot t := by
  unfold State.eventTime
  rw [h]

/-- R155: with room the record joins the young end. -/
theorem State.append_of_room {s : State} (h : s.events.queue.length < 16) (kind : EventKind) (subject : Option Subject)
    (edge : Edge) : s.append kind subject edge = State.refreshAttention
      { s with events := { s.events with queue := s.events.queue ++ [⟨kind, subject, edge, s.eventTime⟩] } } :=
  if_pos h

/-- R155: on a full queue the record is lost. -/
theorem State.append_of_full {s : State} (h : ¬ s.events.queue.length < 16) (kind : EventKind)
    (subject : Option Subject) (edge : Edge) :
    s.append kind subject edge = { s with events := { s.events with overflow := true } } :=
  if_neg h

/-- Settles O21: the append by the room in the queue, its stamp by the state of the clock. -/
theorem appendOverflows : Obligations.AppendOverflows := by
  unfold Obligations.AppendOverflows
  refine ⟨fun s => rfl, rfl, fun kind subject edge s => ?_⟩
  by_cases h : s.events.queue.length < 16
  · rw [if_pos h, State.append_of_room h]
    cases ht : s.now? with
    | none => rw [State.eventTime_of_unset ht]
    | some t => rw [State.eventTime_of_set ht]
  · rw [if_neg h, State.append_of_full h]

/-- Settles O22: the request by whether its two bytes spell a mask. -/
theorem setAttentionSetsOwnMask : Obligations.SetAttentionSetsOwnMask := by
  unfold Obligations.SetAttentionSetsOwnMask
  intro r classes completions s ht hb
  change Host.Outcome.next (s.serve r 0x0A anyRole (setAttentionOwner r.port)) = _
  rw [State.serve_permitted ht rfl, hb]
  simp only [setAttentionOwner, mask?_eq]
  by_cases h : classes.toNat < 64 ∧ completions.toNat ≤ 1
  · rw [if_pos h, if_pos h]
    rfl
  · rw [if_neg h, if_neg h]
    rfl

/-! ### TakeEvents (O20) -/

/-- The moment a record is stamped with, of whichever clock (R154). -/
def EventTime.seconds : EventTime → Nat
  | .depot t => t
  | .elapsed t => t

/-- Whether a record is stamped with the elapsed seconds (R154). -/
def EventTime.isElapsed : EventTime → Bool
  | .depot _ => false
  | .elapsed _ => true

/-- R178: the event body's three parts. -/
theorem EventRec.bytes_eq (e : EventRec) : e.bytes =
    [byte e.kind.code, byte (e.kind.cls.bit + 1),
      flagByte [e.subject.isSome, e.edge == .cleared, e.time.isElapsed, false, false, false, false, false]] ++
    (subjectBytes e.subject ++ be32 e.time.seconds) := by
  obtain ⟨kind, subject, edge, time⟩ := e
  cases time <;> rfl

theorem length_subjectBytes (x : Option Subject) : (subjectBytes x).length = 2 := by
  rcases x with _ | _ | _ | _ <;> rfl

theorem EventRec.length_bytes (e : EventRec) : e.bytes.length = 9 := by
  simp [EventRec.bytes_eq, length_subjectBytes, length_be32]

/-- The answer of TakeEvents on every port. -/
theorem takeEvents_eq {r : Req} {s : State} (ht : s.takes r.port = true) (hb : r.body = []) :
    exec (.takeEvents r) s = .next (s.takeEvents.answered r 0x09 .done
      ([yesNo s.events.overflow, byte (min 8 s.events.queue.length), byte (s.events.queue.length - 8)] ++
        (s.events.queue.take 8).flatMap EventRec.bytes)) := by
  change Host.Outcome.next (s.serve r 0x09 anyRole takeEventsOwner) = _
  rw [State.serve_permitted ht rfl, hb]
  simp only [takeEventsOwner, List.length_take, List.length_drop]
  rfl

/-- Settles O20: the event body is cut at the bounds of its parts. -/
theorem takeEventsRemovesTheOldest : Obligations.TakeEventsRemovesTheOldest := by
  unfold Obligations.TakeEventsRemovesTheOldest
  refine ⟨⟨rfl, rfl⟩, fun e => ⟨e.length_bytes, ?_, ?_, ?_⟩, fun r s ht hb => takeEvents_eq ht hb⟩
  · rw [EventRec.bytes_eq]
    cases e.kind.cls <;> rfl
  · rw [flags_of_flagByte (congrArg (fun l => (l.drop 2).take 1) e.bytes_eq)]
    cases e.time <;> rfl
  · rw [EventRec.bytes_eq]
    rcases e.subject with _ | _ | _ | _ <;> cases e.time <;> rfl

/-! ### The completion log (O19) -/

/-- R178: the completion body up to its byte 14. -/
def Completion.head (c : Completion) : List Byte :=
  be16 c.tag ++ be32 c.key ++ c.closedAt.bytes ++ be16 c.delivered ++ [optBayByte c.bay, byte c.outcome.code]

theorem Completion.length_head (c : Completion) : c.head.length = 14 := by
  simp [Completion.head, length_be16, length_be32, Stamp.length_bytes]

theorem Completion.bytes_eq (c : Completion) : c.bytes = c.head ++ [byte (c.finalSoc.getD 0xFF),
    flagByte [c.atRisk, c.wakeFailed, c.closedAt == .clockUnset, false, false, false, false, false]] := by
  unfold Completion.bytes Completion.head
  rw [optByte_eq, Stamp.isUnset_eq, List.append_assoc _ [_, _] [_, _]]
  rfl

/-- From its byte 14 on the completion body is the final SoC and the flags. -/
theorem Completion.drop_bytes (c : Completion) : c.bytes.drop 14 = [byte (c.finalSoc.getD 0xFF),
    flagByte [c.atRisk, c.wakeFailed, c.closedAt == .clockUnset, false, false, false, false, false]] := by
  rw [Completion.bytes_eq, List.drop_left' c.length_head]

theorem peekCompletions_eq {r : Req} {s : State} (ht : s.takes r.port = true) (hb : r.body = []) :
    exec (.peekCompletions r) s = .next (s.answered r 0x08 .done
      ([byte (min 4 s.log.length), byte s.log.length, byte s.waitingLine.length] ++
        (s.log.take 4).flatMap Completion.bytes)) := by
  change Host.Outcome.next (s.serve r 0x08 anyRole peekCompletionsOwner) = _
  rw [State.serve_permitted ht rfl, hb]
  simp only [peekCompletionsOwner, completionsBody, List.length_take]
  rfl

/-- R151 step 2: the state as some waiting orders enter the log and leave the roster, and others stay waiting. -/
def State.moved (s : State) (gone left : List Nat) : State :=
  State.refreshAttention { s with
    log := s.log ++ gone.filterMap (fun tag => (s.order? tag).map Order.completion)
    waitingLine := left
    roster := s.roster.filter (fun o => o.tag ∉ gone) }

theorem State.moved_nil (s : State) : s.moved [] s.waitingLine = s.refreshAttention := by
  simp [State.moved]

/-- An order that leaves the roster hides no order of another tag. -/
theorem State.order?_logOrder_ne (s : State) (o : Order) {tag : Nat} (h : tag ≠ o.tag) :
    (s.logOrder o).order? tag = s.order? tag :=
  find?_filter_tag s.roster h

/-- The waiting orders may be moved one by one. -/
theorem State.moved_cons {s : State} {o : Order} {tag : Nat} (ho : s.order? tag = some o) {gone : List Nat}
    (hgone : tag ∉ gone) (rest left : List Nat) :
    (State.logOrder { s with waitingLine := rest } o).moved gone left = s.moved (tag :: gone) left := by
  have htag : o.tag = tag := s.tag_of_order? ho
  have hrecords : gone.filterMap
      (fun x => ((State.logOrder { s with waitingLine := rest } o).order? x).map Order.completion) =
      gone.filterMap (fun x => (s.order? x).map Order.completion) := by
    refine List.filterMap_congr fun x hx => ?_
    have hne : x ≠ o.tag := by
      rintro rfl
      exact hgone (htag ▸ hx)
    rw [State.order?_logOrder_ne _ o hne]
    rfl
  have hroster : (s.roster.filter (fun x => x.tag != o.tag)).filter (fun x => x.tag ∉ gone) =
      s.roster.filter (fun x => x.tag ∉ tag :: gone) := by
    rw [htag, Order.tag_bne_eq, List.filter_filter]
    refine List.filter_congr fun x _ => ?_
    simp [Bool.and_comm]
  unfold State.moved
  rw [hrecords, List.filterMap_cons_some (by rw [ho]; rfl), ← hroster]
  simp only [State.logOrder, State.refreshAttention, List.append_assoc, List.singleton_append]

theorem moveWaiting_of_room {s : State} {tag : Nat} {o : Order} (hroom : s.log.length < 32) (ho : s.order? tag = some o)
    (rest : List Nat) :
    moveWaiting (tag :: rest) s = moveWaiting rest (State.logOrder { s with waitingLine := rest } o) := by
  rw [moveWaiting, if_pos (show s.log.length < Config.logCapacity from hroom), ho]

theorem moveWaiting_of_full {s : State} (hfull : ¬ s.log.length < 32) (l : List Nat) : moveWaiting l s = s := by
  cases l with
  | nil => rfl
  | cons tag rest => exact if_neg hfull

/-- R151 step 2: the oldest of the waiting line, as many as there is room for, are moved. -/
theorem moveWaiting_eq (l : List Nat) (s : State) (hline : s.waitingLine = l) (hnodup : l.Nodup)
    (hfound : ∀ tag ∈ l, (s.order? tag).isSome = true) : (moveWaiting l s).refreshAttention =
      s.moved (l.take (32 - s.log.length)) (l.drop (32 - s.log.length)) := by
  induction l generalizing s with
  | nil =>
    rw [List.take_nil, List.drop_nil]
    exact (hline ▸ s.moved_nil).symm
  | cons tag rest ih =>
    obtain ⟨htag, hrest⟩ := List.nodup_cons.mp hnodup
    obtain ⟨o, ho⟩ := Option.isSome_iff_exists.mp (hfound tag List.mem_cons_self)
    by_cases hroom : s.log.length < 32
    · have hfound' : ∀ x ∈ rest, ((State.logOrder { s with waitingLine := rest } o).order? x).isSome = true := by
        intro x hx
        have hne : x ≠ o.tag := by
          rintro rfl
          exact htag (s.tag_of_order? ho ▸ hx)
        rw [State.order?_logOrder_ne _ o hne]
        exact hfound x (List.mem_cons_of_mem _ hx)
      have hlen : 32 - s.log.length = 32 - (State.logOrder { s with waitingLine := rest } o).log.length + 1 := by
        simp only [State.logOrder, State.refreshAttention, List.length_append, List.length_singleton]
        omega
      rw [moveWaiting_of_room hroom ho, ih _ rfl hrest hfound', hlen, List.take_succ_cons, List.drop_succ_cons]
      exact State.moved_cons ho (fun h => htag (List.mem_of_mem_take h)) _ _
    · have hnone : 32 - s.log.length = 0 := by omega
      rw [moveWaiting_of_full hroom, hnone, List.take_zero, List.drop_zero, ← hline, State.moved_nil]

/-- R151: with orders waiting only beside a full log, the records taken make room for as many of them. -/
theorem State.takeCompletions_eq {s : State} (hfull : s.waitingLine ≠ [] → s.log.length = 32)
    (hnodup : s.waitingLine.Nodup) (hfound : ∀ tag ∈ s.waitingLine, (s.order? tag).isSome = true) :
    s.takeCompletions =
      State.moved { s with log := s.log.drop 4 } (s.waitingLine.take 4) (s.waitingLine.drop 4) := by
  have hmove := moveWaiting_eq s.waitingLine { s with log := s.log.drop 4 } rfl hnodup hfound
  by_cases hline : s.waitingLine = []
  · simp only [hline, List.take_nil, List.drop_nil] at hmove ⊢
    rw [← hmove, State.takeCompletions, ← hline]
  · have hroom : 32 - (s.log.drop 4).length = 4 := by
      rw [List.length_drop, hfull hline]
    rw [hroom] at hmove
    exact hmove

theorem takeCompletions_answers {r : Req} {s : State} (ht : s.takes r.port = true) (hp : r.port ≠ .site)
    (hb : r.body = []) : exec (.takeCompletions r) s = .next (s.takeCompletions.answered r 0x10 .done
      ([byte (min 4 s.log.length), byte s.takeCompletions.log.length, byte s.takeCompletions.waitingLine.length] ++
        (s.log.take 4).flatMap Completion.bytes)) := by
  have hrole : plannerOrService r.port = true := by
    cases h : r.port with
    | site => exact absurd h hp
    | planner => rfl
    | service => rfl
  change Host.Outcome.next (s.serve r 0x10 plannerOrService takeCompletionsOwner) = _
  rw [State.serve_permitted ht hrole, hb]
  simp only [takeCompletionsOwner, completionsBody, List.length_take]
  rfl

/-- Settles O19: the completion body is cut at the bounds of its parts, and the waiting orders are moved one by one. -/
theorem completionsArePeekedAndTaken : Obligations.CompletionsArePeekedAndTaken := by
  unfold Obligations.CompletionsArePeekedAndTaken
  refine ⟨fun c => ⟨?_, ?_, ?_, ?_⟩, fun r s ht hb => peekCompletions_eq ht hb,
    fun r s ht hp hb _ hfull hnodup hfound => ?_⟩
  · rw [Completion.bytes_eq, List.length_append, c.length_head]
    rfl
  · rw [Completion.bytes_eq, List.take_left' c.length_head, Completion.head]
    cases c.closedAt <;> cases c.outcome <;> rfl
  · rw [Completion.drop_bytes]
    rfl
  · have hflags := flags_of_flagByte (congrArg (fun l => l.drop 1) c.drop_bytes)
    rwa [List.drop_drop] at hflags
  · rw [takeCompletions_answers ht hp hb, State.takeCompletions_eq hfull hnodup hfound]
    rfl

end Sys2Proof.Machine
end

section
/-! PROOFS. The yard inputs: entry into force and leaving of force, the filter, a line change: O53. -/

namespace Sys2Proof.Machine

/-! ### The conditions of the roles (R163, R164) -/

/-- R164: a role is in force through an input that has it and is Active or held by its latch. -/
theorem State.roleInForce_iff (s : State) (role : InputRole) : s.roleInForce role = true ↔
    ∃ z, (s.inputCfg z).role = role ∧ ((s.input z).active = true ∨ (s.input z).latched = true) := by
  simp [State.roleInForce, allInputs, InputState.inForce]

/-- R163, R164: what the role of an input does, its event first. -/
theorem State.actRole_of_role {s : State} {y : InputNo} {role : InputRole} (h : (s.inputCfg y).role = role) (e : Edge) :
    s.actRole y e = (s.roleEvent role y e).handRole role := by
  rw [State.actRole, h]

/-- R163, R164: an event leaves the feeder's conditions, so Stop is compared with the condition before it. -/
theorem State.actRole_of_stop {s : State} {y : InputNo} (h : (s.inputCfg y).role = .stop) (e : Edge) :
    let u := s.append .stopActive (some (.input y)) e
    s.actRole y e = if u.roleInForce .stop = s.feeder.stop then u
      else State.recomputeCeiling { u with feeder := { u.feeder with stop := u.roleInForce .stop } } := by
  intro u
  have hfeeder : u.feeder = s.feeder := (s.append_feeder _ _ e).1
  rw [State.actRole_of_role h, ← hfeeder]
  rfl

/-! ### The filtered state (R163, R165) -/

theorem State.updInput_updInput (s : State) (y : InputNo) (f g : InputState → InputState) :
    (s.updInput y f).updInput y g = s.updInput y (fun i => g (f i)) := by
  simp [State.updInput, Vector.set_set]

/-- R163: an input whose filtered state stays, or that its latch holds, neither enters force nor leaves it. -/
theorem State.setFiltered_of_kept {s : State} {y : InputNo} {active : Bool}
    (h : (s.input y).active = active ∨ (s.input y).latched = true) :
    s.setFiltered y active = s.updInput y (fun i => { i with active := active }) :=
  if_pos (by simpa [or_comm] using h)

/-- R163, R165: an input that its latch does not hold sets the latch as it enters force, and acts by its role. -/
theorem State.setFiltered_of_changed {s : State} {y : InputNo} {active : Bool} (ha : (s.input y).active ≠ active)
    (hl : (s.input y).latched = false) :
    s.setFiltered y active = (s.updInput y (fun i => { i with
      active := active
      latched := if active ∧ ¬ (s.input y).latched then (s.inputCfg y).latch else (s.input y).latched })).actRole y
        (if active then .raised else .cleared) := by
  have hgoes : ¬ ((s.input y).latched || (s.input y).active == active) = true := by simp [ha, hl]
  refine (if_neg hgoes).trans ?_
  cases active with
  | true =>
    change ((s.updInput y _).updInput y _).actRole y .raised = _
    rw [State.updInput_updInput, hl]
    rfl
  | false => rfl

/-! ### A line change (R162) -/

theorem State.lineLevel_of_same {s : State} {y : InputNo} {high : Bool} (h : (s.input y).levelHigh = high) :
    s.lineLevel y high = s := if_pos h

section
variable {s : State} {y : InputNo} {high : Bool} (h : (s.input y).levelHigh ≠ high)
include h

/-- R162: a change back to the filtered state withdraws the pending change. -/
theorem State.lineLevel_of_back (hback : (high == (s.inputCfg y).activeHigh) = (s.input y).active) :
    s.lineLevel y high = s.updInput y (fun i => { i with levelHigh := high, pending := none }) :=
  (if_neg h).trans (if_pos hback)

/-- R162: without a filter the filtered state follows at once. -/
theorem State.lineLevel_of_unfiltered (hnew : (high == (s.inputCfg y).activeHigh) ≠ (s.input y).active)
    (hf : (s.inputCfg y).filter = .ms0) :
    s.lineLevel y high = (s.updInput y (fun i => { i with levelHigh := high, pending := none })).setFiltered y
      (high == (s.inputCfg y).activeHigh) :=
  (if_neg h).trans ((if_neg hnew).trans (if_pos hf))

/-- R162: with a filter the new state pends for the filter time. -/
theorem State.lineLevel_of_filtered (hnew : (high == (s.inputCfg y).activeHigh) ≠ (s.input y).active)
    (hf : (s.inputCfg y).filter ≠ .ms0) :
    s.lineLevel y high = (s.updInput y (fun i => { i with levelHigh := high, pending := none })).updInput y
      (fun i => { i with
        pending := some ⟨high == (s.inputCfg y).activeHigh, s.elapsed + (s.inputCfg y).filter.ms⟩ }) :=
  (if_neg h).trans ((if_neg hnew).trans (if_neg hf))

end

/-! ### The end of the filter time (R162, entry 2) -/

theorem execFilterTimerExpiry_of_none {s : State} {y : InputNo} (h : (s.input y).pending = none) :
    execFilterTimerExpiry y s = .next s := by
  rw [execFilterTimerExpiry, h]

theorem execFilterTimerExpiry_of_some {s : State} {y : InputNo} {p : PendingChange} (h : (s.input y).pending = some p) :
    execFilterTimerExpiry y s = .next ((s.runTo p.due).filterOver y p).settle := by
  rw [execFilterTimerExpiry, h]

/-! ### O53 -/

/-- Settles O53: a line change by level, new state and filter, the filter's end by what is pending, the filtered state
by the latch and the role. -/
theorem yardInputsAreFiltered : Obligations.YardInputsAreFiltered := by
  unfold Obligations.YardInputsAreFiltered
  refine ⟨fun y edge s => ⟨rfl, rfl, rfl, rfl, rfl, rfl, rfl, s.roleInForce_iff⟩, ?line,
    fun y s h => execFilterTimerExpiry_of_none h, fun y p s h => execFilterTimerExpiry_of_some h, ?filtered⟩
  case line =>
    intro y high s new t
    have hexec : exec (.lineChange y high) s = .next (s.lineLevel y high).settle := rfl
    rw [hexec]
    refine ⟨fun h => ?_, fun h hback => ?_, fun h hnew hf => ?_, fun h hnew hf => ?_⟩
    · rw [State.lineLevel_of_same h]
    · rw [State.lineLevel_of_back h hback]
    · rw [State.lineLevel_of_unfiltered h hnew hf]
    · rw [State.lineLevel_of_filtered h hnew hf]
  case filtered =>
    intro y active s i latched t
    refine ⟨fun h => State.setFiltered_of_kept h, fun ha hl => ?_⟩
    intro edge u
    have hact : s.setFiltered y active = t.actRole y edge := State.setFiltered_of_changed ha hl
    rw [hact]
    refine ⟨fun hr => ?_, fun hr => ?_, fun hr => ?_⟩
    · exact t.actRole_of_role hr edge
    · exact t.actRole_of_stop hr edge
    · exact t.actRole_of_role hr edge

end Sys2Proof.Machine
end

section
/-! PROOFS. What the owner of a request can answer (R173 to R175, R178), owner by owner, and with it what every request
of the catalogue comes to: O12, O13, O14. -/

namespace Sys2Proof.Machine

/-! ### The answer of an owner (R173, R174) -/

/-- R178: the body has the size the catalogue gives the request code; a SetTariff has nine bytes for each window of its
count, after the count. -/
def RightLength (code : Byte) (body : List Byte) : Prop :=
  match bodySize code.toNat with
  | some size => body.length = size
  | none => ∃ count rest, body = count :: rest ∧ rest.length = 9 * count.toNat

/-- R173, R174: what the owner of a request code can answer to a body in a state. Only a body of the right length gets
more than BadValue; only a Done answer comes with a new state; no owner answers NotPermitted. -/
inductive OwnerAnswer (code : Byte) (body : List Byte) (s : State) : State × Reply → Prop
  | badValue : OwnerAnswer code body s (s, .refuse .badValue)
  | refused {status : Status} (hl : RightLength code body) (hs : status ≠ .notPermitted) :
    OwnerAnswer code body s (s, .refuse status)
  | latchHeld {out : List Byte} (hl : RightLength code body) (hc : code = 0x17) :
    OwnerAnswer code body s (s, ⟨.wrongState, out⟩)
  | done {t : State} {out : List Byte} (hl : RightLength code body) : OwnerAnswer code body s (t, .done out)

section
variable {code : Byte} {body : List Byte} {s : State} {answer : State × Reply}

theorem OwnerAnswer.status_ne (h : OwnerAnswer code body s answer) : answer.2.status ≠ .notPermitted := by
  cases h with
  | badValue => nofun
  | refused _ hs => exact hs
  | latchHeld => nofun
  | done => nofun

theorem OwnerAnswer.eq_of_wrong_length (h : OwnerAnswer code body s answer) (hl : ¬ RightLength code body) :
    answer = (s, .refuse .badValue) := by
  cases h with
  | badValue => rfl
  | refused hr => exact absurd hr hl
  | latchHeld hr => exact absurd hr hl
  | done hr => exact absurd hr hl

theorem OwnerAnswer.unchanged (h : OwnerAnswer code body s answer) (hd : answer.2.status ≠ .done) :
    answer.1 = s ∧ (answer.2.body = [] ∨ (code = 0x17 ∧ answer.2.status = .wrongState)) := by
  cases h with
  | badValue => exact ⟨rfl, .inl rfl⟩
  | refused => exact ⟨rfl, .inl rfl⟩
  | latchHeld _ hc => exact ⟨rfl, .inr ⟨hc, rfl⟩⟩
  | done => exact absurd rfl hd

end

theorem rightLength_iff_of_size {code : Byte} {size : Nat} (h : bodySize code.toNat = some size) (body : List Byte) :
    RightLength code body ↔ body.length = size := by
  unfold RightLength
  rw [h]

theorem rightLength_tariff_iff (body : List Byte) :
    RightLength 0x14 body ↔ ∃ count rest, body = count :: rest ∧ rest.length = 9 * count.toNat := Iff.rfl

/-- R173: both ways in which a body is of a wrong length. -/
theorem not_rightLength {code : Byte} {body : List Byte}
    (h : (∃ n, bodySize code.toNat = some n ∧ body.length ≠ n) ∨
      (code = 0x14 ∧ (body = [] ∨ ∃ n rest, body = n :: rest ∧ rest.length ≠ 9 * n.toNat))) :
    ¬ RightLength code body := by
  rcases h with ⟨n, hn, hne⟩ | ⟨rfl, hwrong⟩
  · rwa [rightLength_iff_of_size hn]
  · rw [rightLength_tariff_iff]
    rintro ⟨count, rest, rfl, hlen⟩
    obtain hnil | ⟨n, rest', heq, hne⟩ := hwrong
    · nomatch hnil
    · cases heq
      exact hne hlen

/-! ### The requests of every role -/

theorem readIdentityOwner_answer (p : Port) (body : List Byte) (s : State) :
    OwnerAnswer 0x01 body s (readIdentityOwner p body s) := by
  unfold readIdentityOwner
  split
  · exact .done rfl
  · exact .badValue

theorem readOrderOwner_answer (body : List Byte) (s : State) : OwnerAnswer 0x02 body s (readOrderOwner body s) := by
  unfold readOrderOwner
  split
  · split
    · exact .done rfl
    · exact .refused rfl nofun
  · exact .badValue

theorem listRosterOwner_answer (body : List Byte) (s : State) : OwnerAnswer 0x03 body s (listRosterOwner body s) := by
  unfold listRosterOwner
  split
  · split
    · exact .done rfl
    · exact .badValue
  · exact .badValue

theorem readBayOwner_answer (body : List Byte) (s : State) : OwnerAnswer 0x04 body s (readBayOwner body s) := by
  unfold readBayOwner
  split
  · split
    · exact .done rfl
    · exact .badValue
  · exact .badValue

theorem readFeederOwner_answer (body : List Byte) (s : State) : OwnerAnswer 0x05 body s (readFeederOwner body s) := by
  unfold readFeederOwner
  split
  · exact .done rfl
  · exact .badValue

theorem readTableOwner_answer (body : List Byte) (s : State) : OwnerAnswer 0x06 body s (readTableOwner body s) := by
  unfold readTableOwner
  split
  · split
    · split
      · exact .done rfl
      · exact .badValue
    · exact .badValue
  · exact .badValue

theorem readSettingOwner_answer (body : List Byte) (s : State) : OwnerAnswer 0x07 body s (readSettingOwner body s) := by
  unfold readSettingOwner
  split
  · split
    · exact .done rfl
    · exact .badValue
  · exact .badValue

theorem peekCompletionsOwner_answer (body : List Byte) (s : State) :
    OwnerAnswer 0x08 body s (peekCompletionsOwner body s) := by
  unfold peekCompletionsOwner
  split
  · exact .done rfl
  · exact .badValue

theorem takeEventsOwner_answer (body : List Byte) (s : State) : OwnerAnswer 0x09 body s (takeEventsOwner body s) := by
  unfold takeEventsOwner
  split
  · exact .done rfl
  · exact .badValue

theorem setAttentionOwner_answer (p : Port) (body : List Byte) (s : State) :
    OwnerAnswer 0x0A body s (setAttentionOwner p body s) := by
  unfold setAttentionOwner
  split
  · split
    · exact .done rfl
    · exact .badValue
  · exact .badValue

/-! ### The requests of the Planner -/

theorem setClockOwner_answer (body : List Byte) (s : State) : OwnerAnswer 0x0B body s (setClockOwner body s) := by
  unfold setClockOwner
  split
  · exact .done rfl
  · exact .badValue

/-- R178: the fields of an order are fourteen bytes. -/
theorem length_of_orderFields? {bytes : List Byte} {f : OrderFields} (h : orderFields? bytes = some f) :
    bytes.length = 14 := by
  unfold orderFields? at h
  split at h
  · rfl
  · nomatch h

theorem State.addOrderStatus_ne (s : State) (o : Order) : s.addOrderStatus o ≠ .notPermitted := by
  rw [State.addOrderStatus_eq]
  split_ifs <;> nofun

theorem addOrderOwner_answer (body : List Byte) (s : State) : OwnerAnswer 0x0C body s (addOrderOwner body s) := by
  unfold addOrderOwner
  split
  next t1 t0 rest =>
    split
    next f hf =>
      have hl : RightLength 0x0C (t1 :: t0 :: rest) :=
        (rightLength_iff_of_size rfl _).mpr (congrArg (· + 2) (length_of_orderFields? hf))
      split
      next o ho =>
        split
        next => exact .done hl
        next => exact .refused hl (s.addOrderStatus_ne o)
      next => exact .badValue
    next => exact .badValue
  next => exact .badValue

theorem State.amendStatus_ne (s : State) (o o' : Order) : s.amendStatus o o' ≠ .notPermitted := by
  unfold State.amendStatus
  split_ifs <;> nofun

theorem amendOrderOwner_answer (body : List Byte) (s : State) : OwnerAnswer 0x0D body s (amendOrderOwner body s) := by
  unfold amendOrderOwner
  split
  next t1 t0 set rest =>
    split
    next f hf =>
      have hl : RightLength 0x0D (t1 :: t0 :: set :: rest) :=
        (rightLength_iff_of_size rfl _).mpr (congrArg (· + 3) (length_of_orderFields? hf))
      split
      next => exact .refused hl nofun
      next o ho =>
        split
        next => exact .refused hl nofun
        next =>
          split
          next => exact .badValue
          next o' ho' =>
            split
            next => exact .done hl
            next => exact .refused hl (s.amendStatus_ne o o')
    next => exact .badValue
  next => exact .badValue

theorem cancelOrderOwner_answer (body : List Byte) (s : State) :
    OwnerAnswer 0x0E body s (cancelOrderOwner body s) := by
  unfold cancelOrderOwner
  split
  · split
    · exact .refused rfl nofun
    · split
      · exact .refused rfl nofun
      · exact .done rfl
  · exact .badValue

theorem releaseVanOwner_answer (body : List Byte) (s : State) : OwnerAnswer 0x0F body s (releaseVanOwner body s) := by
  unfold releaseVanOwner
  split
  next =>
    split
    next => exact .refused rfl nofun
    next =>
      split
      next => exact .refused rfl nofun
      next => exact .refused rfl nofun
      next => exact .refused rfl nofun
      next =>
        split
        · exact .done rfl
        · split
          · exact .done rfl
          · exact .refused rfl nofun
  next => exact .badValue

theorem takeCompletionsOwner_answer (body : List Byte) (s : State) :
    OwnerAnswer 0x10 body s (takeCompletionsOwner body s) := by
  unfold takeCompletionsOwner
  split
  · exact .done rfl
  · exact .badValue

theorem reallocateOwner_answer (body : List Byte) (s : State) : OwnerAnswer 0x11 body s (reallocateOwner body s) := by
  unfold reallocateOwner
  split
  · split
    · exact .done rfl
    · exact .refused rfl nofun
  · exact .badValue

/-! ### The requests of the Site -/

theorem setCeilingOwner_answer (body : List Byte) (s : State) : OwnerAnswer 0x12 body s (setCeilingOwner body s) := by
  unfold setCeilingOwner
  split
  · split
    · exact .done rfl
    · exact .badValue
  · exact .badValue

theorem reportMeterOwner_answer (body : List Byte) (s : State) :
    OwnerAnswer 0x13 body s (reportMeterOwner body s) := by
  unfold reportMeterOwner
  split
  · split
    · exact .done rfl
    · exact .badValue
  · exact .badValue

theorem setTariffOwner_answer (body : List Byte) (s : State) : OwnerAnswer 0x14 body s (setTariffOwner body s) := by
  unfold setTariffOwner
  split
  next n rest =>
    split
    next h =>
      have hl : RightLength 0x14 (n :: rest) := (rightLength_tariff_iff _).mpr ⟨n, rest, rfl, h.2⟩
      split
      next =>
        split
        · exact .done hl
        · exact .badValue
      next => exact .badValue
    next => exact .badValue
  next => exact .badValue

/-! ### The requests of the Service port -/

theorem holdDepotOwner_answer (body : List Byte) (s : State) : OwnerAnswer 0x15 body s (holdDepotOwner body s) := by
  unfold holdDepotOwner
  split
  · exact .done rfl
  · exact .badValue

theorem resumeDepotOwner_answer (body : List Byte) (s : State) :
    OwnerAnswer 0x16 body s (resumeDepotOwner body s) := by
  unfold resumeDepotOwner
  split
  · exact .done rfl
  · exact .badValue

theorem clearLatchOwner_answer (body : List Byte) (s : State) : OwnerAnswer 0x17 body s (clearLatchOwner body s) := by
  unfold clearLatchOwner
  split
  · split
    · exact .done rfl
    · split
      · split
        · exact .latchHeld rfl rfl
        · exact .done rfl
      · exact .badValue
  · exact .badValue

theorem clearBayOwner_answer (body : List Byte) (s : State) : OwnerAnswer 0x18 body s (clearBayOwner body s) := by
  unfold clearBayOwner
  split
  · split
    · exact .done rfl
    · exact .badValue
  · exact .badValue

theorem retryAdmissionOwner_answer (body : List Byte) (s : State) :
    OwnerAnswer 0x19 body s (retryAdmissionOwner body s) := by
  unfold retryAdmissionOwner
  split
  · split
    · split
      · exact .done rfl
      · exact .refused rfl nofun
    · exact .badValue
  · exact .badValue

theorem setOverrideOwner_answer (body : List Byte) (s : State) :
    OwnerAnswer 0x1A body s (setOverrideOwner body s) := by
  unfold setOverrideOwner
  split
  · split
    · exact .done rfl
    · exact .badValue
  · exact .badValue

theorem writeTableOwner_answer (body : List Byte) (s : State) : OwnerAnswer 0x1B body s (writeTableOwner body s) := by
  unfold writeTableOwner
  split
  · split
    · split
      · split
        · split
          · exact .refused rfl nofun
          · exact .done rfl
        · exact .badValue
      · exact .badValue
    · exact .badValue
  · exact .badValue

theorem writeSettingOwner_answer (body : List Byte) (s : State) :
    OwnerAnswer 0x1C body s (writeSettingOwner body s) := by
  unfold writeSettingOwner
  split
  · split
    · split
      · split
        · exact .refused rfl nofun
        · exact .done rfl
      · exact .badValue
    · exact .badValue
  · exact .badValue

theorem storeSettingsOwner_answer (body : List Byte) (s : State) :
    OwnerAnswer 0x1D body s (storeSettingsOwner body s) := by
  unfold storeSettingsOwner
  split
  · split
    · exact .refused rfl nofun
    · exact .done rfl
  · exact .badValue

theorem restartOwner_answer (body : List Byte) (s : State) : OwnerAnswer 0x1E body s (restartOwner body s) := by
  unfold restartOwner
  split
  · exact .done rfl
  · exact .badValue

/-! ### The role table (R175) -/

theorem anyRole_iff (p : Port) : anyRole p = true ↔ p ∈ [Port.planner, .site, .service] := by
  cases p <;> decide

theorem plannerOnly_iff (p : Port) : plannerOnly p = true ↔ p ∈ [Port.planner] := by
  cases p <;> decide

theorem siteOnly_iff (p : Port) : siteOnly p = true ↔ p ∈ [Port.site] := by
  cases p <;> decide

theorem serviceOnly_iff (p : Port) : serviceOnly p = true ↔ p ∈ [Port.service] := by
  cases p <;> decide

theorem plannerOrService_iff (p : Port) : plannerOrService p = true ↔ p ∈ [Port.planner, .service] := by
  cases p <;> decide

theorem plannerOrSite_iff (p : Port) : plannerOrSite p = true ↔ p ∈ [Port.planner, .site] := by
  cases p <;> decide

/-! ### Every request of the catalogue -/

/-- R173 to R175: a request is served under its row of the role table, by an owner that answers as `OwnerAnswer`
says. -/
theorem exec_of_request {i : Instr} {code : Byte} {r : Req} (h : i.request? = some (code, r)) (s : State) :
    ∃ permits owner, exec i s = .next (s.serve r code permits owner) ∧
      (∀ p, permits p = true ↔ p ∈ rolesOf code.toNat) ∧ ∀ body, OwnerAnswer code body s (owner body s) := by
  cases i with
  | readIdentity q => cases h; exact ⟨_, _, rfl, anyRole_iff, fun body => readIdentityOwner_answer _ body s⟩
  | readOrder q => cases h; exact ⟨_, _, rfl, anyRole_iff, fun body => readOrderOwner_answer body s⟩
  | listRoster q => cases h; exact ⟨_, _, rfl, anyRole_iff, fun body => listRosterOwner_answer body s⟩
  | readBay q => cases h; exact ⟨_, _, rfl, anyRole_iff, fun body => readBayOwner_answer body s⟩
  | readFeeder q => cases h; exact ⟨_, _, rfl, anyRole_iff, fun body => readFeederOwner_answer body s⟩
  | readTable q => cases h; exact ⟨_, _, rfl, anyRole_iff, fun body => readTableOwner_answer body s⟩
  | readSetting q => cases h; exact ⟨_, _, rfl, anyRole_iff, fun body => readSettingOwner_answer body s⟩
  | peekCompletions q => cases h; exact ⟨_, _, rfl, anyRole_iff, fun body => peekCompletionsOwner_answer body s⟩
  | takeEvents q => cases h; exact ⟨_, _, rfl, anyRole_iff, fun body => takeEventsOwner_answer body s⟩
  | setAttention q => cases h; exact ⟨_, _, rfl, anyRole_iff, fun body => setAttentionOwner_answer _ body s⟩
  | setClock q => cases h; exact ⟨_, _, rfl, plannerOnly_iff, fun body => setClockOwner_answer body s⟩
  | addOrder q => cases h; exact ⟨_, _, rfl, plannerOnly_iff, fun body => addOrderOwner_answer body s⟩
  | amendOrder q => cases h; exact ⟨_, _, rfl, plannerOnly_iff, fun body => amendOrderOwner_answer body s⟩
  | cancelOrder q => cases h; exact ⟨_, _, rfl, plannerOnly_iff, fun body => cancelOrderOwner_answer body s⟩
  | releaseVan q => cases h; exact ⟨_, _, rfl, plannerOnly_iff, fun body => releaseVanOwner_answer body s⟩
  | takeCompletions q =>
    cases h; exact ⟨_, _, rfl, plannerOrService_iff, fun body => takeCompletionsOwner_answer body s⟩
  | reallocate q => cases h; exact ⟨_, _, rfl, plannerOrSite_iff, fun body => reallocateOwner_answer body s⟩
  | setCeiling q => cases h; exact ⟨_, _, rfl, siteOnly_iff, fun body => setCeilingOwner_answer body s⟩
  | reportMeter q => cases h; exact ⟨_, _, rfl, siteOnly_iff, fun body => reportMeterOwner_answer body s⟩
  | setTariff q => cases h; exact ⟨_, _, rfl, siteOnly_iff, fun body => setTariffOwner_answer body s⟩
  | holdDepot q => cases h; exact ⟨_, _, rfl, serviceOnly_iff, fun body => holdDepotOwner_answer body s⟩
  | resumeDepot q => cases h; exact ⟨_, _, rfl, serviceOnly_iff, fun body => resumeDepotOwner_answer body s⟩
  | clearLatchFeeder q => cases h; exact ⟨_, _, rfl, serviceOnly_iff, fun body => clearLatchOwner_answer body s⟩
  | clearLatchInput q => cases h; exact ⟨_, _, rfl, serviceOnly_iff, fun body => clearLatchOwner_answer body s⟩
  | clearBay q => cases h; exact ⟨_, _, rfl, serviceOnly_iff, fun body => clearBayOwner_answer body s⟩
  | retryAdmission q => cases h; exact ⟨_, _, rfl, serviceOnly_iff, fun body => retryAdmissionOwner_answer body s⟩
  | setOverride q => cases h; exact ⟨_, _, rfl, serviceOnly_iff, fun body => setOverrideOwner_answer body s⟩
  | writeTable q => cases h; exact ⟨_, _, rfl, serviceOnly_iff, fun body => writeTableOwner_answer body s⟩
  | writeSetting q => cases h; exact ⟨_, _, rfl, serviceOnly_iff, fun body => writeSettingOwner_answer body s⟩
  | storeSettings q => cases h; exact ⟨_, _, rfl, serviceOnly_iff, fun body => storeSettingsOwner_answer body s⟩
  | restart q => cases h; exact ⟨_, _, rfl, serviceOnly_iff, fun body => restartOwner_answer body s⟩
  | _ => nomatch h

section
variable {i : Instr} {code : Byte} {r : Req} {s : State}

/-- R172: a Held port discards a request. -/
theorem exec_of_held (h : i.request? = some (code, r)) (ht : s.takes r.port = false) : exec i s = .next s := by
  obtain ⟨permits, owner, hexec, -, -⟩ := exec_of_request h s
  rw [hexec, State.serve_of_held ht]

/-- R175: a barred request is answered NotPermitted. -/
theorem exec_of_barred (h : i.request? = some (code, r)) (ht : s.takes r.port = true)
    (hr : r.port ∉ rolesOf code.toNat) : exec i s = .next (s.answered r code .notPermitted []) := by
  obtain ⟨permits, owner, hexec, hroles, -⟩ := exec_of_request h s
  rw [hexec, State.serve_of_takes ht, if_neg (fun hp => hr ((hroles _).mp hp))]

/-- R174: a permitted request is answered as its owner answers it. -/
theorem exec_of_permitted (h : i.request? = some (code, r)) (ht : s.takes r.port = true)
    (hr : r.port ∈ rolesOf code.toNat) : ∃ answer, OwnerAnswer code r.body s answer ∧
      exec i s = .next (answer.1.answered r code answer.2.status answer.2.body) := by
  obtain ⟨permits, owner, hexec, hroles, howner⟩ := exec_of_request h s
  exact ⟨owner r.body s, howner r.body, by rw [hexec, State.serve_permitted ht ((hroles _).mpr hr)]⟩

end

/-! ### O12 -/

/-- R158: a SetAttention replaces the mask of its own port. -/
theorem State.mask_setMask_ne (s : State) {p q : Port} (m : Mask) (h : q ≠ p) :
    ((s.setMask p m).port q).mask = (s.port q).mask := by
  unfold State.setMask
  rw [State.mask_refreshAttention, State.port_withPort_ne _ _ h]

theorem setAttentionOwner_mask_ne {p q : Port} (body : List Byte) (s : State) (h : q ≠ p) :
    ((setAttentionOwner p body s).1.port q).mask = (s.port q).mask := by
  unfold setAttentionOwner
  split
  · split
    · exact s.mask_setMask_ne _ h
    · rfl
  · rfl

theorem execSetAttention_mask_ne {r : Req} {s t : State} (h : exec (.setAttention r) s = .next t) {p : Port}
    (hp : p ≠ r.port) : (t.port p).mask = (s.port p).mask := by
  obtain rfl : s.serve r 0x0A anyRole (setAttentionOwner r.port) = t := Host.Outcome.next.inj h
  cases ht : s.takes r.port with
  | false => rw [State.serve_of_held ht]
  | true =>
    rw [State.serve_permitted ht rfl, State.answered, State.mask_withSlot]
    exact setAttentionOwner_mask_ne r.body s hp

/-- Settles O12: every request by whether its port stands in its row of the role table. -/
theorem roleTableIsKept : Obligations.RoleTableIsKept := by
  unfold Obligations.RoleTableIsKept
  refine ⟨fun i code r s h ht => ⟨exec_of_barred h ht, fun hr => ?_⟩,
    fun r s t h p hp => execSetAttention_mask_ne h hp⟩
  obtain ⟨answer, hanswer, hexec⟩ := exec_of_permitted h ht hr
  exact ⟨answer.1, answer.2.status, answer.2.body, hexec, hanswer.status_ne⟩

/-! ### O13 -/

/-- Settles O13: an unknown kind is permitted to every role, and an owner gives a body of the wrong length nothing but
BadValue. -/
theorem unknownKindOrLengthIsBadValue : Obligations.UnknownKindOrLengthIsBadValue := by
  unfold Obligations.UnknownKindOrLengthIsBadValue
  refine ⟨fun r kind s ht => ?_, fun i code r s h ht hr hwrong => ?_⟩
  · change Host.Outcome.next (s.serve r kind anyRole (fun _ t => (t, Reply.refuse .badValue))) = _
    rw [State.serve_permitted ht rfl]
    rfl
  · obtain ⟨answer, hanswer, hexec⟩ := exec_of_permitted h ht hr
    rw [hexec, hanswer.eq_of_wrong_length (not_rightLength hwrong)]
    rfl

/-! ### O14 -/

/-- Settles O14: a barred request has no effect but its answer, and an owner that does not answer Done has none. -/
theorem refusedRequestChangesNothing : Obligations.RefusedRequestChangesNothing := by
  unfold Obligations.RefusedRequestChangesNothing
  intro i code r s h ht
  by_cases hr : r.port ∈ rolesOf code.toNat
  · obtain ⟨answer, hanswer, hexec⟩ := exec_of_permitted h ht hr
    exact ⟨answer.1, answer.2.status, answer.2.body, hexec, hanswer.unchanged⟩
  · exact ⟨s, .notPermitted, [], exec_of_barred h ht hr, fun _ => ⟨rfl, .inl rfl⟩⟩

end Sys2Proof.Machine
end

section
/-! PROOFS. The receive slot of a port: what frames, the end of an answer and Restart make of it, and ReadIdentity: O10,
O11, O15. -/

namespace Sys2Proof.Machine

/-! ### The slot (R169) -/

theorem State.takes_eq_false_iff {s : State} {p : Port} :
    s.takes p = false ↔ ∃ a, (s.port p).slot = .held a := by
  unfold State.takes Slot.takes
  cases (s.port p).slot with
  | held a => exact ⟨fun _ => ⟨a, rfl⟩, fun _ => rfl⟩
  | listening | receiving => exact ⟨nofun, nofun⟩

/-- A slot that is given the value it has stays as it is. -/
theorem State.withSlot_of_slot {s : State} {p : Port} {x : Slot} (h : (s.port p).slot = x) : s.withSlot p x = s := by
  subst h
  exact s.withPort_self p

@[simp] theorem State.withSlot_withSlot (s : State) (p : Port) (x y : Slot) :
    (s.withSlot p x).withSlot p y = s.withSlot p y := by
  cases p <;> rfl

/-! ### Bytes and frames by the slot (R170 to R172) -/

section
variable {s : State} {p : Port}

theorem State.listenByte_of_listening (h : (s.port p).slot = .listening) (b : Byte) :
    s.listenByte p b = s.withSlot p (if b = 0xA5 then .receiving else .listening) := by
  unfold State.listenByte
  rw [h, apply_ite (s.withSlot p), State.withSlot_of_slot h]

theorem State.listenByte_of_busy (h : (s.port p).slot ≠ .listening) (b : Byte) : s.listenByte p b = s := by
  unfold State.listenByte
  split
  next hs => exact absurd hs h
  all_goals rfl

theorem State.dropFrame_of_receiving (h : (s.port p).slot = .receiving) :
    s.dropFrame p = s.withSlot p .listening := by
  unfold State.dropFrame
  rw [h]

theorem State.dropFrame_of_idle (h : (s.port p).slot ≠ .receiving) : s.dropFrame p = s := by
  unfold State.dropFrame
  split
  next => rfl
  next hs => exact State.withSlot_of_slot hs
  next hs => exact absurd hs h

theorem execBadLength_of_short {len : Byte} (h : len.toNat < 2) :
    exec (.badLength p len) s = .next (s.dropFrame p) :=
  congrArg Host.Outcome.next (if_pos h)

theorem execBadLength_of_long {len : Byte} (h : 2 ≤ len.toNat) : exec (.badLength p len) s = .next s :=
  congrArg Host.Outcome.next (if_neg (Nat.not_lt.mpr h))

/-- R170: a length byte has a meaning in a frame alone. -/
theorem execBadLength_of_idle (h : (s.port p).slot ≠ .receiving) (len : Byte) :
    exec (.badLength p len) s = .next s := by
  by_cases hlen : len.toNat < 2
  · rw [execBadLength_of_short hlen, State.dropFrame_of_idle h]
  · exact execBadLength_of_long (Nat.not_lt.mp hlen)

theorem execFrameCheckFail_of_idle (h : (s.port p).slot ≠ .receiving) : exec (.frameCheckFail p) s = .next s :=
  congrArg Host.Outcome.next (State.dropFrame_of_idle h)

/-- R170: only a frame can have a gap. -/
theorem execFrameGap_of_idle (h : (s.port p).slot ≠ .receiving) (ending : Option Byte) :
    exec (.frameGap p ending) s = .next s := by
  change execFrameGap p ending s = _
  unfold execFrameGap
  split
  next hs => exact absurd hs h
  all_goals rfl

/-- R170: the byte that ends the gap is taken as in Listening. -/
theorem execFrameGap_of_receiving (h : (s.port p).slot = .receiving) (b : Byte) :
    exec (.frameGap p (some b)) s = .next (s.withSlot p (if b = 0xA5 then .receiving else .listening)) := by
  have hgap : exec (.frameGap p (some b)) s = .next ((s.withSlot p .listening).listenByte p b) := by
    change execFrameGap p (some b) s = _
    unfold execFrameGap
    rw [h]
  rw [hgap, State.listenByte_of_listening (s.slot_withSlot p _), State.withSlot_withSlot]

theorem execFrameGap_of_silence (h : (s.port p).slot = .receiving) :
    exec (.frameGap p none) s = .next (s.withSlot p .listening) := by
  change execFrameGap p none s = _
  unfold execFrameGap
  rw [h]

theorem execStartByte_of_busy (h : (s.port p).slot ≠ .listening) : exec (.startByte p) s = .next s :=
  congrArg Host.Outcome.next (State.listenByte_of_busy h _)

theorem execStartByte_of_listening (h : (s.port p).slot = .listening) :
    exec (.startByte p) s = .next (s.withSlot p .receiving) :=
  congrArg Host.Outcome.next (State.listenByte_of_listening h _)

end

/-- Settles O10: the frames and their events by the three values of the slot. -/
theorem frameBytesMoveTheSlot : Obligations.FrameBytesMoveTheSlot := by
  unfold Obligations.FrameBytesMoveTheSlot
  refine ⟨fun p s ht => ?held, fun p s => ⟨fun h => ?listening, fun h => ?receiving⟩⟩
  case held =>
    obtain ⟨a, ha⟩ := State.takes_eq_false_iff.mp ht
    have hidle : (s.port p).slot ≠ .receiving := by rw [ha]; nofun
    refine ⟨fun i code r h hr => ?_, fun r kind hr => ?_, execStartByte_of_busy (by rw [ha]; nofun),
      execBadLength_of_idle hidle, execFrameCheckFail_of_idle hidle, execFrameGap_of_idle hidle⟩
    · exact exec_of_held h (hr ▸ ht)
    · exact congrArg Host.Outcome.next (State.serve_of_held (hr ▸ ht) _ _ _)
  case listening =>
    have hidle : (s.port p).slot ≠ .receiving := by rw [h]; nofun
    exact ⟨execStartByte_of_listening h, execBadLength_of_idle hidle, execFrameCheckFail_of_idle hidle,
      execFrameGap_of_idle hidle⟩
  case receiving =>
    have hdrop := State.dropFrame_of_receiving h
    refine ⟨execStartByte_of_busy (by rw [h]; nofun), fun len => execBadLength_of_long, fun len hlen => ?_,
      congrArg Host.Outcome.next hdrop, execFrameGap_of_silence h, execFrameGap_of_receiving h⟩
    rw [execBadLength_of_short hlen, hdrop]

/-! ### The end of an answer (R169, R176) -/

theorem Answer.restarts_iff (a : Answer) : a.restarts = true ↔ a.kind = 0x9E ∧ a.status = .done := by
  have hkind : answerKind 0x1E = 0x9E := rfl
  rw [Answer.restarts, hkind, Bool.and_eq_true, beq_iff_eq, beq_iff_eq]

theorem execAnswerEnd_of_held {s : State} {p : Port} {a : Answer} (h : (s.port p).slot = .held a) :
    exec (.answerEnd p) s = if a.restarts then .next s.doReset else .next (s.withSlot p .listening) := by
  change execAnswerEnd p s = _
  unfold execAnswerEnd
  rw [h]

theorem execAnswerEnd_of_takes {s : State} {p : Port} (h : s.takes p = true) : exec (.answerEnd p) s = .next s := by
  change execAnswerEnd p s = _
  unfold execAnswerEnd
  split
  next a ha => simp [State.takes_eq_false_iff.mpr ⟨a, ha⟩] at h
  all_goals rfl

/-- Settles O11: the end of an answer by whether one is held and whether it is a Done Restart. -/
theorem answerEndFreesTheSlotOrRestarts : Obligations.AnswerEndFreesTheSlotOrRestarts := by
  unfold Obligations.AnswerEndFreesTheSlotOrRestarts
  refine ⟨fun p a s h ha => ?_, fun p s => execAnswerEnd_of_takes, fun r s ht hp hb => ⟨?_, ?_⟩⟩
  · rw [execAnswerEnd_of_held h, if_neg (fun hr => ha (a.restarts_iff.mp hr))]
  · change Host.Outcome.next (s.serve r 0x1E serviceOnly restartOwner) = _
    rw [State.serve_permitted ht (by rw [hp]; rfl), hb]
    rfl
  · have hslot : ((s.answered r 0x1E .done []).port .service).slot = .held ⟨r.seq, 0x9E, .done, []⟩ := by
      rw [State.answered, hp]
      exact s.slot_withSlot .service _
    rw [execAnswerEnd_of_held hslot, if_pos ((Answer.restarts_iff _).mpr ⟨rfl, rfl⟩)]
    rfl

/-! ### ReadIdentity (R177) -/

/-- R1: there is a depot time when the clock is set. -/
theorem State.isSome_now? (s : State) : s.now?.isSome = s.alloc.clock.isSome := by
  cases hc : s.alloc.clock with
  | none => rw [State.now?_of_unset hc]; rfl
  | some c => rw [State.now?_of_set hc]; rfl

/-- Settles O15: the port is permitted whatever its role, and the owner's body is that of R177. -/
theorem readIdentityAnswers : Obligations.ReadIdentityAnswers := by
  unfold Obligations.ReadIdentityAnswers
  intro r s ht hb
  change Host.Outcome.next (s.serve r 0x01 anyRole (readIdentityOwner r.port)) = _
  rw [State.serve_permitted ht rfl, hb]
  simp only [readIdentityOwner, State.isSome_now?]
  cases r.port <;> rfl

end Sys2Proof.Machine
end

section
/-! PROOFS. The Settings store and the start-up: the commit and its image, what a reset makes of any state, and the
machine right after reset: O8, O9, O51. -/

namespace Sys2Proof.Machine

/-! ### Images (R182, R183) -/

/-- R182: the check of a bad image never matches, whichever bits it was to hold (entry 9). -/
theorem badImage_check_ne (content : Settings) (format : Nat) (bits : BitVec 16) :
    (badImage content format bits).check ≠ Config.imageCheck content format := by
  unfold badImage
  dsimp only
  split
  next h =>
    rw [← h]
    bv_omega
  next h => exact h

/-- R182: what the end of a commit leaves in the image. -/
def writtenImage (content : Settings) (bits : BitVec 16) (good : Bool) : Image :=
  if good then wholeImage content else badImage content 1 bits

theorem writtenImage_content (content : Settings) (bits : BitVec 16) (good : Bool) :
    (writtenImage content bits good).content = content := by
  cases good <;> rfl

theorem writtenImage_format (content : Settings) (bits : BitVec 16) (good : Bool) :
    (writtenImage content bits good).format = 1 := by
  cases good <;> rfl

/-- R182, R183: the check is right exactly where the content reads back good. -/
theorem writtenImage_check_iff (content : Settings) (bits : BitVec 16) (good : Bool) :
    (writtenImage content bits good).check = Config.imageCheck content 1 ↔ good = true := by
  cases good with
  | true => exact iff_of_true rfl rfl
  | false => exact iff_of_false (badImage_check_ne content 1 bits) Bool.false_ne_true

/-! ### The commit (R181, R182) -/

theorem execStoreSettings_permitted {r : Req} {s : State} (ht : s.takes r.port = true) (hp : r.port = .service)
    (hb : r.body = []) : exec (.storeSettings r) s = .next ((storeSettingsOwner [] s).1.answered r 0x1D
      (storeSettingsOwner [] s).2.status (storeSettingsOwner [] s).2.body) := by
  change Host.Outcome.next (s.serve r 0x1D serviceOnly storeSettingsOwner) = _
  rw [State.serve_permitted ht (by rw [hp]; rfl), hb]

theorem storeSettingsOwner_of_committing {s : State} (h : s.store.commit ≠ none) :
    storeSettingsOwner [] s = (s, .refuse .busy) := if_pos (Option.isSome_iff_ne_none.mpr h)

theorem storeSettingsOwner_of_idle {s : State} (h : s.store.commit = none) :
    storeSettingsOwner [] s = (s.beginCommit, .done []) := if_neg (by simp [h])

theorem execCommitEnd_of_idle {s : State} (h : s.store.commit = none) (good : Bool) :
    exec (.commitEnd good) s = .next s := by
  change execCommitEnd good s = _
  unfold execCommitEnd
  rw [h]

theorem execCommitEnd_of_committing {s : State} {c : Commit} (h : s.store.commit = some c) (good : Bool) :
    exec (.commitEnd good) s = .next (s.commitOver c good) := by
  change execCommitEnd good s = _
  unfold execCommitEnd
  rw [h]

theorem State.commitOver_eq (s : State) (c : Commit) (good : Bool) : s.commitOver c good = State.append
    { s with
      freeCount := if good then s.freeCount else s.freeCount + 1
      store := { s.store with
        image := writtenImage c.content (Config.brokenCheck s.freeCount) good, commit := none } }
    (if good then .storeDone else .settingsLost) none .raised := rfl

/-- Settles O51: the request and the end of the writing by whether a commit is in flight. -/
theorem commitWritesTheImage : Obligations.CommitWritesTheImage := by
  unfold Obligations.CommitWritesTheImage
  refine ⟨fun r s ht hp hb => ⟨fun hc => ?_, fun hc => ?_⟩, fun good s => ⟨fun hc => execCommitEnd_of_idle hc good,
    fun c hc => ⟨writtenImage c.content (Config.brokenCheck s.freeCount) good, writtenImage_content _ _ _,
      writtenImage_format _ _ _, writtenImage_check_iff _ _ _, ?_⟩⟩⟩
  · rw [execStoreSettings_permitted ht hp hb, storeSettingsOwner_of_committing hc]
    rfl
  · rw [execStoreSettings_permitted ht hp hb, storeSettingsOwner_of_idle hc]
    rfl
  · rw [execCommitEnd_of_committing hc, State.commitOver_eq]

/-! ### The first selection after a reset (R140, R184) -/

/-- What a selection goes by right after a reset: no time elapsed, the bays and the line at their reset values. -/
structure State.JustReset (s : State) : Prop where
  elapsed : s.elapsed = 0
  bay : ∀ b, s.bay b = BayRec.reset
  line : s.line = LineCtl.reset

/-- The Line controller after the first selection of a start-up: the probe of the first enabled bay is on the line, or,
with none enabled, the probe is still owed (entry 19). -/
def LineCtl.firstSelection : Option BayNo → LineCtl
  | none => LineCtl.reset
  | some b => { LineCtl.reset with
      bays := LineCtl.reset.bays.set b { LineBay.reset with opn := some ⟨.poll, none, 0, 0⟩ }
      carrying := some ⟨b, .poll, 50, false, false⟩
      probePos := b + 1
      probeOwed := false
      lastProbe := some 0 }

theorem LineCtl.reset_bays (b : BayNo) : LineCtl.reset.bays[b] = LineBay.reset := Vector.getElem_replicate ..

theorem LineCtl.firstSelection_bays (first : Option BayNo) (b : BayNo) : (LineCtl.firstSelection first).bays[b] =
    { LineBay.reset with opn := if first = some b then some ⟨.poll, none, 0, 0⟩ else none } := by
  cases first with
  | none => exact LineCtl.reset_bays b
  | some c =>
    by_cases hcb : c = b
    · subst hcb
      simp [LineCtl.firstSelection]
    · have hval : (c : Nat) ≠ b := fun e => hcb (Fin.ext e)
      rw [if_neg fun e => hcb (Option.some.inj e)]
      exact (Vector.getElem_set_ne c.isLt b.isLt hval).trans (LineCtl.reset_bays b)

/-- What is on the line after the first selection, and how the probe stands. -/
theorem LineCtl.firstSelection_probe (first : Option BayNo) :
    (LineCtl.firstSelection first).carrying = first.map (fun b => ⟨b, .poll, 50, false, false⟩) ∧
      (LineCtl.firstSelection first).pollPos = 0 ∧
      (LineCtl.firstSelection first).probePos = (match first with
        | some b => b + 1
        | none => 0) ∧
      (LineCtl.firstSelection first).probeOwed = first.isNone ∧
      (LineCtl.firstSelection first).lastProbe = first.map (fun _ => 0) := by
  cases first with
  | none => exact ⟨rfl, rfl, rfl, rfl, rfl⟩
  | some b => exact ⟨rfl, rfl, rfl, rfl, rfl⟩

/-- A Poll moves no exposure, so its sending changes the line alone (R132). -/
theorem State.start_poll_of_closed {s : State} {b : BayNo} (h : (s.lineBay b).grantOpen = false) :
    s.start b .poll = { s with line := { s.line with
      carrying := some ⟨b, .poll, s.elapsed + 50, false, false⟩
      bays := s.line.bays.set b { s.lineBay b with opn := some ⟨.poll, none, 0, s.elapsed⟩ } } } := by
  rw [State.start_eq]
  refine if_pos ?_
  unfold State.exposure
  rw [LineBay.exposure_of_closed h, State.lineBay, Fin.getElem_fin, Vector.getElem_set_self]
  exact LineBay.exposure_of_closed rfl

theorem baysFrom_zero : baysFrom 0 = List.finRange 24 := by decide

namespace State.JustReset

variable {s : State} (h : s.JustReset)
include h

theorem lineBay (b : BayNo) : s.lineBay b = LineBay.reset := by
  unfold State.lineBay
  rw [h.line]
  exact LineCtl.reset_bays b

theorem onLineService (b : BayNo) : s.onLineService b = false := by
  unfold State.onLineService
  rw [h.bay]
  rfl

theorem probeable : s.probeable = s.enabled := by
  funext b
  unfold State.probeable
  rw [h.lineBay, h.bay]
  exact Bool.or_false _

theorem pollable (b : BayNo) : s.pollable b = false := by
  unfold State.pollable
  rw [h.onLineService, Bool.and_false]

theorem probeOwed : s.line.probeOwed = true := by
  rw [h.line]
  rfl

theorem withResetLine : { s with line := LineCtl.reset } = s := by rw [← h.line]

/-- A pass that is empty makes owed a probe that is owed already (entry 19). -/
theorem probeStaysOwed : { s with line := { s.line with probeOwed := true } } = s := by
  rw [← h.probeOwed]

theorem spacingOver : s.spacingOver = true := by
  unfold State.spacingOver
  rw [h.line]
  rfl

/-- R134: before the probe no class holds an exchange. -/
theorem silent : s.Silent where
  free := by rw [h.line]; rfl
  retry b := by simp [State.retryIsDue, h.lineBay, LineBay.reset]
  decrease b := by simp [State.decreaseReady, h.lineBay, LineBay.reset]
  items i hi := by
    obtain ⟨b, wake, age⟩ := i
    have hpending := State.mem_serviceItems.mp hi
    cases wake <;> simp [State.itemPending, h.lineBay, LineBay.reset] at hpending
  increase b := by simp [State.increaseReady, h.lineBay, LineBay.reset]
  keepAlive b := by simp [State.keepAliveReady, h.lineBay, LineBay.reset]

/-- R140: the first selection probes the first enabled bay. -/
theorem settle_eq :
    s.settle = { s with line := LineCtl.firstSelection ((List.finRange 24).find? s.enabled) } := by
  cases hfirst : (List.finRange 24).find? s.enabled with
  | some b =>
    have hfind : (baysFrom s.line.probePos).find? s.probeable = some b := by
      rw [h.probeable, h.line, ← hfirst]
      exact congrArg (List.find? s.enabled) baysFrom_zero
    rw [State.settle_of_probe h.silent h.probeOwed h.spacingOver hfind, State.start_poll_of_closed]
    · simp only [State.lineBay, h.line, h.elapsed, LineCtl.reset_bays]
      rfl
    · exact congrArg LineBay.grantOpen (h.lineBay b)
  | none =>
    have hprobe : ∀ b, s.probeable b = false := fun b => by
      rw [h.probeable]
      exact Bool.eq_false_of_not_eq_true (List.find?_eq_none.mp hfirst b (List.mem_finRange b))
    rw [State.settle_of_noProbe h.silent (.inr (.inr hprobe)), State.servePoll_of_none h.pollable,
      h.probeStaysOwed]
    exact (State.serveProbe_of_none (.inr (.inr hprobe))).trans h.withResetLine.symm

end State.JustReset

/-! ### Start-up (R184) -/

theorem State.eventTime_resetTo (s : State) (image : Image) (n : Nat) :
    (s.resetTo image n).eventTime = .elapsed 0 := by
  have hunset : (s.resetTo image n).now? = none := rfl
  have helapsed : (s.resetTo image n).elapsed = 0 := rfl
  rw [State.eventTime_of_unset hunset, helapsed, Nat.zero_div, Nat.min_zero]

/-- R184, steps 5 and 6: the event of a bad image stands alone in the queue. -/
theorem State.endStartUp_resetTo (s : State) (image : Image) (n : Nat) :
    (s.resetTo image n).endStartUp image = State.refreshAttention { s.resetTo image n with
      events := ⟨if image.good then [] else [⟨.settingsLost, none, .raised, .elapsed 0⟩], false⟩ } := by
  unfold State.endStartUp
  cases image.good with
  | true => rfl
  | false =>
    have hroom : (s.resetTo image n).events.queue.length < 16 := Nat.succ_pos 15
    rw [if_neg Bool.false_ne_true, State.append_of_room hroom, State.eventTime_resetTo]
    rfl

/-- The image after a cut commit is the old one, the new one, or one that fails its check (R182, entry 7). -/
theorem State.imageAfterReset_of_committing {s : State} {c : Commit} (h : s.store.commit = some c) :
    s.imageAfterReset = s.store.image ∨ s.imageAfterReset = wholeImage c.content ∨
      s.imageAfterReset.check ≠ Config.imageCheck s.imageAfterReset.content s.imageAfterReset.format := by
  unfold State.imageAfterReset
  rw [h]
  dsimp only
  cases Config.cutCommit s.freeCount with
  | oldWhole => exact .inl rfl
  | newWhole => exact .inr (.inl rfl)
  | neither => exact .inr (.inr (badImage_check_ne _ _ _))

theorem State.imageAfterReset_of_idle {s : State} (h : s.store.commit = none) :
    s.imageAfterReset = s.store.image := by
  unfold State.imageAfterReset
  rw [h]

/-- R184, steps 1 to 4, on the image that the reset leaves. -/
def State.cleared (s : State) : State :=
  s.resetTo s.imageAfterReset (s.freeCount + if s.store.commit.isSome then 1 else 0)

/-- R184: the machine once start-up has taken its six steps, before the first selection. -/
def State.startUp (s : State) : State := s.cleared.endStartUp s.imageAfterReset

theorem State.startUp_eq (s : State) : s.startUp = State.refreshAttention { s.cleared with
    events := ⟨if s.imageAfterReset.good then [] else [⟨.settingsLost, none, .raised, .elapsed 0⟩], false⟩ } :=
  s.endStartUp_resetTo _ _

theorem State.startUp_justReset (s : State) : s.startUp.JustReset := by
  rw [State.startUp_eq]
  exact ⟨rfl, fun b => Vector.getElem_replicate .., rfl⟩

/-- R184: a reset is the start-up and the first selection. -/
theorem State.doReset_eq (s : State) : s.doReset = { s.startUp with
    line := LineCtl.firstSelection ((List.finRange 24).find? s.startUp.enabled) } :=
  s.startUp_justReset.settle_eq

/-- R160: each input is taken afresh from its line's level, under the configuration that start-up has loaded. -/
theorem State.startUp_input (s : State) (y : InputNo) :
    (s.startUp.input y).levelHigh = (s.input y).levelHigh ∧
      (s.startUp.input y).active = ((s.input y).levelHigh == (s.startUp.inputCfg y).activeHigh) ∧
      (s.startUp.input y).pending = none ∧
      (s.startUp.input y).latched = ((s.startUp.input y).active && (s.startUp.inputCfg y).latch) := by
  have hfresh : s.startUp.input y = freshInput (s.input y).levelHigh (s.startUp.inputCfg y) := by
    rw [State.startUp_eq]
    exact Vector.getElem_ofFn ..
  rw [hfresh]
  exact ⟨rfl, rfl, rfl, rfl⟩

/-- R6, R184: with no order left the records agree. -/
theorem State.doReset_recordsRight (s : State) : s.doReset.recordsRight := by
  have hcleared : s.cleared.recordsRight := recordsExcept_none_iff.mp (s.resetTo_recordsExcept _ _)
  refine s.startUp.settle_records.recordsRight ?_
  rw [State.startUp_eq]
  exact (SameRecords.of_same rfl rfl rfl rfl rfl rfl).recordsRight hcleared

/-- R103, R184: with nothing allocated the laws of the targets hold. -/
theorem State.doReset_targetsRight (s : State) : s.doReset.targetsRight := by
  have hcleared : s.cleared.targetsRight := s.resetTo_targetsRight _ _
  refine s.startUp.settle_targets ?_
  rw [State.startUp_eq]
  exact (KeepsShares.of_frame rfl rfl rfl rfl rfl rfl).keeps hcleared

/-- Settles O9: a reset is the start-up, whose fields stand in `State.startUp_eq`, and the first selection, which moves
the line alone. -/
theorem resetClearsEveryUnit : Obligations.ResetClearsEveryUnit := by
  unfold Obligations.ResetClearsEveryUnit
  intro cause s
  refine ⟨s.doReset, rfl, ?_⟩
  have hinput := s.startUp_input
  rw [State.doReset_eq]
  rw [State.startUp_eq] at hinput ⊢
  refine ⟨⟨rfl, rfl, rfl, rfl, rfl⟩, fun b => rfl, rfl, State.imageAfterReset_of_idle,
    ⟨fun c => State.imageAfterReset_of_committing, rfl, rfl, rfl⟩, ⟨rfl, rfl, rfl, rfl, rfl, rfl⟩, ⟨rfl, rfl, rfl⟩,
    hinput, ⟨rfl, rfl⟩, rfl, ⟨rfl, rfl, rfl, rfl, rfl, rfl, rfl, rfl, rfl, rfl, rfl⟩,
    LineCtl.firstSelection_bays _, LineCtl.firstSelection_probe _⟩

/-! ### The machine right after reset (O8) -/

theorem State.reset_bay (b : BayNo) : State.reset.bay b = BayRec.reset := Vector.getElem_replicate ..

theorem State.reset_lineBay (b : BayNo) : State.reset.lineBay b =
    { LineBay.reset with opn := if b = 0 then some ⟨.poll, none, 0, 0⟩ else none } := by
  have hfirst : State.reset.line = LineCtl.firstSelection (some 0) := rfl
  simpa only [State.lineBay, hfirst, Option.some.injEq, eq_comm] using LineCtl.firstSelection_bays (some 0) b

/-- R84: nothing is allocated to a bay. -/
theorem State.reset_allocated (b : BayNo) :
    State.reset.target b = 0 ∧ State.reset.cap b = 0 ∧ State.reset.alloc.limits[b] = none :=
  ⟨Vector.getElem_replicate .., Vector.getElem_replicate .., Vector.getElem_replicate ..⟩

theorem State.reset_input (y : InputNo) : State.reset.input y = InputState.reset := Vector.getElem_replicate ..

/-- R71, R149, R155: a machine that holds no order, record or window keeps every capacity. -/
theorem State.reset_collectionsBounded : State.reset.collectionsBounded :=
  ⟨Nat.zero_le _, nofun, Nat.zero_le _, fun h => absurd rfl h, Nat.zero_le _, Nat.zero_le _⟩

/-- Settles O8: the laws of the records and the targets hold after every reset, of which `State.reset` is one
(`reset_is_startUp`); the other laws and the fields are those of the reset values. -/
theorem resetStateValuesMeetTheLaws : Obligations.ResetStateValuesMeetTheLaws := by
  unfold Obligations.ResetStateValuesMeetTheLaws
  have hrecords : State.reset.recordsRight := reset_is_startUp ▸ State.reset.doReset_recordsRight
  have htargets : State.reset.targetsRight := reset_is_startUp ▸ State.reset.doReset_targetsRight
  refine ⟨⟨State.reset_collectionsBounded, ⟨rfl, rfl, rfl⟩, rfl, ⟨rfl, rfl⟩, ⟨nofun, List.Pairwise.nil⟩, hrecords,
    htargets⟩, ⟨rfl, rfl, rfl, rfl, rfl, rfl⟩, State.reset_bay, rfl, ⟨rfl, rfl, rfl, State.reset_allocated⟩,
    fun b => ?_, ⟨rfl, rfl, rfl, rfl, rfl⟩, ⟨rfl, rfl, rfl⟩, State.reset_input, ⟨rfl, rfl, rfl⟩⟩
  rw [State.reset_lineBay]
  exact ⟨rfl, rfl, rfl, rfl, rfl, rfl, rfl, rfl, rfl⟩

end Sys2Proof.Machine
end

section
/-! PROOFS. The block and its queue: the three ways a step goes, and what every command leaves of the queue: O1, O2, O3. -/

namespace Sys2Proof.Machine

/-! ### The three ways a step goes (entry 1) -/

theorem step_of_front {s : State} {c : Instr} {rest : List Instr} (h : s.pending = c :: rest) :
    step s = exec c { s with pending := rest } := by
  simp only [step, h]

theorem step_of_due {s : State} {c : Instr} (h : s.pending = []) (hdue : s.dueCommand = some c) :
    step s = exec c (s.countFree c) := by
  simp only [step, h, State.idle, hdue]

theorem step_of_idle {s : State} (h : s.pending = []) (hdue : s.dueCommand = none) : step s = .next s.tick := by
  simp only [step, h, State.idle, hdue]

/-! ### O1, O2, O3 -/

/-- Settles O1: the front command runs on the queue's rest, which is the queue of `s`. -/
theorem stepRunsFrontCommand : Obligations.StepRunsFrontCommand := by
  unfold Obligations.StepRunsFrontCommand
  exact fun c s => step_of_front (s := { s with pending := c :: s.pending }) rfl

/-- Settles O2: the two ways a step goes on an empty queue, by whether an expiry is due. -/
theorem emptyQueueLetsTimeRun : Obligations.EmptyQueueLetsTimeRun := by
  unfold Obligations.EmptyQueueLetsTimeRun
  exact fun s h => ⟨fun c hdue => step_of_due h hdue, fun hdue => step_of_idle h hdue⟩

/-- Settles O3: every command answers a next state, and is lawful (`exec_next_lawful`), so it keeps the queue. -/
theorem everyCommandRunsAndKeepsTheQueue : Obligations.EveryCommandRunsAndKeepsTheQueue := by
  unfold Obligations.EveryCommandRunsAndKeepsTheQueue
  intro i s
  obtain ⟨t, hnext, hlawful⟩ := exec_next_lawful i s
  exact ⟨t, hnext, hlawful.pending⟩

end Sys2Proof.Machine
end
